-- ==== Sys2Proof/Word.lean ====
section
/-! DEFINITION. The word types of the device (R1 to R4, R131). Operations on them stand in Machine/Bits.lean. -/
namespace Sys2Proof

/-- A 64-bit register value, address or double (R4). -/
abbrev Word := BitVec 64
/-- A byte of memory (R4). -/
abbrev Byte := BitVec 8
/-- One 32-bit instruction word (R173). -/
abbrev InstrWord := BitVec 32
/-- The 2,048 bits of a vector register or vector queue element (R131). -/
abbrev VecWord := BitVec 2048

/-- Truth as a word: 1 or 0. -/
def Word.ofBool (b : Bool) : Word := if b then 1#64 else 0#64

end Sys2Proof
end

