-- ==== Sys2Proof/Syntax.lean ====
section
/-! DEFINITION. The syntax of the machine: one constructor of `Instr` per row of spec/opcode_table.json, and
the plain data that the rows name. A row that is an instruction word (R173 to R182) carries the word's fields
exactly as the table cuts them. A row that is an event or a tile command has no word of its own; its constructor
carries what the row's rule says the event names. -/
namespace Sys2Proof

/-- The two instruction streams of a core (R129). -/
inductive Stream where
  | A
  | E
  deriving DecidableEq, Repr

/-- A capability: 128 bits and a tag (R37). -/
structure Cap where
  bits : BitVec 128
  tag : Bool
  deriving DecidableEq, Repr

/-- The owner of memory: a core, or the host die of a package (R12, R21). -/
structure Owner where
  pkg : BitVec 9
  core : BitVec 10
  host : Bool
  deriving DecidableEq, Repr

/-- A release record {O, PUB, X} (R85). -/
structure Record where
  owner : Owner
  pub : BitVec 48
  x : Bool
  deriving DecidableEq, Repr

/-- A 64-byte message: two header doubles and three 16-byte payload slots with their tags (R304, R49), beside it
the release record that software cannot see (R85 Table 2), none when it is not an acquire (R90). -/
structure Message where
  hdr0 : Word
  hdr1 : Word
  slot0 : Cap
  slot1 : Cap
  slot2 : Cap
  record : Option Record
  deriving DecidableEq, Repr

/-- The name of one contribution on the accumulate network: its source core and a number of the source's (R290). -/
structure ContribId where
  pkg : BitVec 9
  core : BitVec 10
  num : Nat
  deriving DecidableEq, Repr

/-- An accumulate flit (R290): WIDE elements with poison bits and the sender's anchor, or 32-bit elements. -/
structure Flit where
  contrib : ContribId
  seq : Nat
  sctx : BitVec 12
  dctx : BitVec 12
  chain : BitVec 5
  /-- landing index of the first element; up to 24,574 (R293) -/
  eidx : BitVec 16
  wide : Bool
  /-- the elements, a 32-bit element in the low bits -/
  elems : List (BitVec 128)
  poison : List Bool
  anchor : BitVec 16
  last : Bool
  deriving DecidableEq, Repr

/-- The data side of one gang member: its signature, its slabs and the exponent arrays that its SCALEA and SCALEB
name (R276, R277). -/
structure GangArrival where
  ctx : BitVec 12
  member : Nat
  side : BitVec 4
  base : BitVec 10
  gang : BitVec 4
  fa : BitVec 4
  fb : BitVec 4
  depth : Nat
  nrows : BitVec 9
  ncols : BitVec 9
  slabA : BitVec 262144
  slabB : BitVec 262144
  expsA : List Byte
  expsB : List Byte
  deriving DecidableEq, Repr

/-- The head's answer to the flit of an amax drain (R283). -/
inductive AmaxAnswer where
  | added
  | parked
  | refused
  deriving DecidableEq, Repr

/-- What a member of the victim pool sends to this one (R84, R105, R106). -/
inductive PoolPacket where
  /-- whether every other member now meets R105 -/
  | peers (met : Bool)
  /-- a line that the member has evicted from its primary ways -/
  | deposit (ctx : BitVec 12) (owner : Owner) (line : BitVec 58) (data : BitVec 512) (tags : BitVec 4) (stamp : BitVec 48)
  /-- the member `core` has cleaned itself: lines of one owner older than a stamp, or of every owner in a scope -/
  | clean (core : BitVec 10) (owner : Option Owner) (older : BitVec 48) (scope : Nat)
  /-- the member has discarded the lines of a range (R122) -/
  | inval (ctx : BitVec 12) (va : Word) (len : Nat)
  /-- the member `core` asks for a line -/
  | probe (id : Nat) (core : BitVec 10) (ctx : BitVec 12) (line : BitVec 58)
  /-- the member that this core asked under `id` does not hold the line -/
  | miss (id : Nat)
  deriving DecidableEq, Repr

/-- The data that a read of another owner's memory, or of host memory, brings back (R78 to R81, R119): the bytes up
to the first failing one (whole sealed lines of another core's space 0 or 3, R68), the tag of each 16-byte granule, the
cause of a failure, the owner's PUB at the read or the stamp of the line, and whether a member of the victim pool gave a
line that it held (R106). `retiring`: the lines were sealed under the context's Retiring slot (R384). `writer`: the writer
core of the host window with wdev that the bytes lie in, as the host agent of another package tells it (R375). `pool`: no
answer to a read, but a packet of a pool member. -/
structure ReadReply where
  id : Nat
  data : List Byte
  tags : List Bool
  fault : Option (BitVec 8 × BitVec 32)
  pub : BitVec 48
  pooled : Bool := false
  retiring : Bool := false
  writer : Option (BitVec 10) := none
  pool : Option PoolPacket := none
  deriving DecidableEq, Repr

/-- What a requester asks of a slice (R65, R67). -/
inductive SliceKind where
  | read
  | fetch
  | permit
  | storeData
  deriving DecidableEq, Repr

/-- A request to the slices that serve this core's home pseudo-channel (R60, R65). -/
structure SliceReq where
  id : Nat
  owner : Owner
  slot : BitVec 2
  ctx : BitVec 12
  va : Word
  kind : SliceKind
  deriving DecidableEq, Repr

/-- Who asks a read-only port: a load, an engine (pull, gather lane, prefetch), or the host (R107, R119, R377). -/
inductive PortKind where
  | load
  | engine
  | host
  deriving DecidableEq, Repr

/-- A read of `len` bytes that arrives at the owner's read-only port, with the capability that the packet carries
(R45). -/
structure PortReq where
  id : Nat
  owner : Owner
  ctx : BitVec 12
  kind : PortKind
  cap : Cap
  va : Word
  len : Nat
  deriving DecidableEq, Repr

/-- An invalidation of a table range of one owner (R71). -/
structure Invalidation where
  pkg : BitVec 9
  core : BitVec 10
  ctx : BitVec 12
  sp3 : Bool
  level : BitVec 2
  page : BitVec 27
  pages : Nat
  move : Bool
  /-- whether fetch-cache lines of the range are discarded too -/
  dropFetch : Bool
  deriving DecidableEq, Repr

/-- A channel-bit operation (R316). -/
inductive ChanOp where
  | enable
  | disable
  | hold
  | release
  | pend (by' : Word)
  deriving DecidableEq, Repr

/-- A remote channel-bit operation as a packet (R316, R309). -/
structure ChanPacket where
  op : ChanOp
  chan : BitVec 6
  dctx : BitVec 12
  sctx : BitVec 12
  spkg : BitVec 9
  score : BitVec 10
  sup : Bool
  deriving DecidableEq, Repr

/-- A request for a slot reservation (R312), or the release of one that was granted (R313). -/
structure SpawnReq where
  release : Bool
  id : Nat
  spkg : BitVec 9
  score : BitVec 10
  dctx : BitVec 12
  chan : BitVec 6
  deriving DecidableEq, Repr

/-- What one stream flit carries (R314, R315). -/
inductive StreamItem where
  | word (w : Word)
  | close (record : Record)
  | abort
  deriving DecidableEq, Repr

/-- A stream flit as it reaches the destination (R315). -/
structure StreamFlit where
  spkg : BitVec 9
  score : BitVec 10
  sctx : BitVec 12
  dctx : BitVec 12
  chan : BitVec 6
  sup : Bool
  /-- which stream of the source, and the record that its SOPEN formed -/
  stream : Nat
  openRecord : Record
  item : StreamItem
  deriving DecidableEq, Repr

/-- A WATCH or UNWATCH packet at the owner's port (R320, R89). -/
structure WatchReq where
  spkg : BitVec 9
  score : BitVec 10
  ctx : BitVec 12
  cap : Cap
  threshold : Word
  chan : BitVec 6
  deriving DecidableEq, Repr

/-- A FENCEH packet at the named core (R94). -/
structure FencehReq where
  id : Nat
  spkg : BitVec 9
  score : BitVec 10
  ctx : BitVec 12
  deriving DecidableEq, Repr

/-- The bits a link carries as one flit: header fields, payload and CRC (R367). `badLane` is the lane that causes a
failure of the CRC. -/
structure LinkFlit where
  /-- the package's router gives the payload to the link to send; else the link has received the flit -/
  outgoing : Bool
  /-- the routing mode that the packet was injected under (R365): none where it enters the fabric here -/
  random : Option Bool
  seq : BitVec 12
  ack : BitVec 12
  type : BitVec 2
  payload : BitVec 960
  crc : BitVec 32
  badLane : BitVec 2
  deriving DecidableEq, Repr

/-- One memory of the core: a byte offset in the resident scratchpad, or a byte of the home pseudo-channel
(frame * 65536 + offset) (R25, R99). -/
inductive Loc where
  | sram (off : Nat)
  | hbm (byte : Nat)
  deriving DecidableEq, Repr

/-- A launch descriptor as the host submits it (R372 Table 2, LAUNCH) with the record and the image it names (R339).
`uses`: what the cores of the pod other than this one offer to a placement (R340); true for a core that holds
another context and may take one more, false for a core offered to neither pass. One that is not listed is free. -/
structure LaunchSubmit where
  ctx : BitVec 12
  record : List Byte
  image : List Byte
  packages : List (BitVec 9)
  uses : List ((BitVec 9 × BitVec 10) × Bool)
  deriving DecidableEq, Repr

/-- A launch as the lead agent has placed it: what it found for this core, the level it runs, its instance, its rank and
the level's cores (R340, R343). -/
structure LaunchPlan where
  ctx : BitVec 12
  record : List Byte
  image : List Byte
  packages : List (BitVec 9)
  /-- level of the record that this core runs; none when the launch takes no core here -/
  level : Option Nat
  instanceNo : BitVec 32
  rank : BitVec 32
  levelCores : BitVec 32
  /-- cores that the launch takes, of every level -/
  cores : BitVec 32
  /-- every core that the launch holds, in every package -/
  placed : List (BitVec 9 × BitVec 10)
  deriving DecidableEq, Repr

/-- A grant request on a private page (R382). -/
structure GrantReq where
  page : BitVec 12
  grantee : BitVec 12
  grantor : BitVec 12
  pkg : BitVec 9
  core : BitVec 10
  lo : BitVec 6
  hi : BitVec 6
  /-- another package's security core has made or withdrawn the grant, and tells this one -/
  told : Bool := false
  deriving DecidableEq, Repr

/-- A register that an access names: a control register by number (R146), or an offset of the host register aperture
with the request's trusted bit and host-protocol queue (R371 to R373). -/
inductive RegAddr where
  | control (n : BitVec 12)
  | aperture (off : BitVec 32) (trusted : Bool) (queue : BitVec 16)
  deriving DecidableEq, Repr

/-- A request on the system private page (R372, R381, R384, R370, R394), or what a timer or a sensor names: the spec
lays out none of them. -/
inductive Request where
  | none
  /-- the free context number and the Empty key slot that the security core picks, with the key material -/
  | create (ctx : BitVec 12) (key : BitVec 10) (material : BitVec 768)
  /-- `verified`: the ML-DSA-87 signature over the SHA3-512 digest verifies -/
  | provision (key : BitVec 10) (ctx : BitVec 12) (material : BitVec 768) (verified : Bool)
  | activate (key : BitVec 10)
  | revoke (key : BitVec 10)
  | fence (pkg : BitVec 9)
  /-- whether the package's reset has reached READY (R394), and its cores that are out of service (R393) -/
  | rejoin (pkg : BitVec 9) (ready : Bool) (out : List (BitVec 10))
  /-- the launch whose timer has run out -/
  | launch (ctx : BitVec 12)
  /-- the compute die at its junction limit -/
  | die (d : BitVec 3)
  /-- the coolant inlet temperature as it is measured, in degrees Celsius (R394) -/
  | inlet (degrees : BitVec 8)
  /-- an epoch of a context that this core does not hold (R57) -/
  | sweep (ctx : BitVec 12)
  /-- another core of the package has executed SNAP (R396) -/
  | snap
  deriving DecidableEq, Repr

/-- The number that a message-class packet carries for its pair of cores: its source and its place (R364). -/
structure PacketNo where
  pkg : BitVec 9
  core : BitVec 10
  seq : Nat
  deriving DecidableEq, Repr

/-- What a row without operands of its own acts on: a register access by an agent, firmware or the host (the register,
the value, whether it writes, the slot for a register that a task holds), or a request; and for a packet of the message
class its number. -/
structure Access where
  addr : RegAddr
  value : Word
  slot : BitVec 2
  write : Bool
  request : Request
  packet : Option PacketNo
  deriving DecidableEq, Repr

/-- What stage MEMORY meets at one pseudo-channel (R390): the bytes that the storage gives back where they differ from
those written, whether the test pattern passes, the lanes that do not train, and the results of a training. -/
structure ChannelFound where
  chan : BitVec 10
  stored : Option (List Byte)
  pattern : Bool
  failing : BitVec 32
  result : List Byte
  deriving DecidableEq, Repr

/-- What a start stage found (R389 to R393). -/
inductive StageResult where
  | ok
  /-- stage MEMORY: the pseudo-channels that did not just pass -/
  | okMemory (found : List ChannelFound)
  /-- stage CORES: the cores that failed their test -/
  | okCores (failed : List (BitVec 10))
  /-- the lanes that trained, link by link, and the cores of other packages that are out of service (R393) -/
  | okLinks (lanes : List (BitVec 4)) (far : List (BitVec 9 × BitVec 10))
  | failed (reason : BitVec 4)
  deriving DecidableEq, Repr

/-- The health of a 32-byte sector under the code of R27, or of a 64-bit word of SRAM under that of R395. -/
inductive SectorHealth where
  | good
  | correctable
  | uncorrectable
  deriving DecidableEq, Repr

/-- Where a soft error is found (R395): a sector of the home channel, a word of the resident scratchpad, a line that a
slice holds, a line of another owner in the cache portion, the entry of the tag array for such a line, a row of 128 bytes
of a tile, or an accumulator element by its number. -/
inductive ScrubPlace where
  | sector (n : Nat)
  | sram (word : Nat)
  | line (ctx : BitVec 12) (va : Word)
  | cached (ctx : BitVec 12) (va : Word)
  | tagArray (ctx : BitVec 12) (va : Word)
  | tile (t : BitVec 3) (word : BitVec 12)
  | acc (a : BitVec 1) (element : Nat)
  deriving DecidableEq, Repr

/-- A soft error as the read that finds it brings it: bits of the 288-bit codeword of a sector that have flipped, or what
the code of a word or a line says of it. -/
inductive ScrubFinding where
  | flips (bits : BitVec 288)
  | health (h : SectorHealth)
  deriving DecidableEq, Repr

/-- A register field with its queue mark (R175). -/
structure MarkedReg where
  reg : BitVec 5
  mark : BitVec 1
  deriving DecidableEq, Repr

/-- The answer to the store of a slot that waits for a permit, with what the host agent finds of a page of a host window
(R67, R375). -/
structure PermitReply where
  slot : BitVec 2
  present : Bool
  deriving DecidableEq, Repr

/-- An atomic that this core sends to the host agent, as the agent performs it (R378): the 64-byte host line that it
reads, for host memory is outside the machine. -/
structure HostAtomic where
  line : BitVec 512
  deriving DecidableEq, Repr

/-- One data unit of a secure stream as received: 64 sealed bytes and the 64-bit tag (R386). -/
structure SecureUnit where
  ctx : BitVec 12
  m : BitVec 4
  dir : Bool
  body : BitVec 512
  tag : BitVec 64
  deriving DecidableEq, Repr

/-- One constructor per row of spec/opcode_table.json, those with operands first. The operand fields of an instruction word
bear the table's names: `d` destination, `a` `b` sources, `c` `e` capabilities, `i` `o` immediates, `q` `m` `n` queue
marks (R175), `k` counts, masks or register starts, `t` `u` types. -/
inductive Instr where
  /-- R197: Writes (s1 + s2) mod 2^64 to d. -/
  | add (d : BitVec 5) (a : BitVec 5) (b : BitVec 5) (q : BitVec 3)
  /-- R197: Writes (s1 - s2) mod 2^64 to d. -/
  | sub (d : BitVec 5) (a : BitVec 5) (b : BitVec 5) (q : BitVec 3)
  /-- R197: Writes the bitwise AND of s1 and s2 to d. -/
  | and (d : BitVec 5) (a : BitVec 5) (b : BitVec 5) (q : BitVec 3)
  /-- R197: Writes the bitwise OR of s1 and s2 to d. -/
  | or (d : BitVec 5) (a : BitVec 5) (b : BitVec 5) (q : BitVec 3)
  /-- R197: Writes the bitwise XOR of s1 and s2 to d. -/
  | xor (d : BitVec 5) (a : BitVec 5) (b : BitVec 5) (q : BitVec 3)
  /-- R197: Shifts s1 left by s2[5:0]. -/
  | shl (d : BitVec 5) (a : BitVec 5) (b : BitVec 5) (q : BitVec 3)
  /-- R197: Shifts s1 right by s2[5:0], shifting in zeros. -/
  | shr (d : BitVec 5) (a : BitVec 5) (b : BitVec 5) (q : BitVec 3)
  /-- R197: Shifts s1 right arithmetically by s2[5:0]. -/
  | sar (d : BitVec 5) (a : BitVec 5) (b : BitVec 5) (q : BitVec 3)
  /-- R197: Writes bits [63:0] of the product. -/
  | mul (d : BitVec 5) (a : BitVec 5) (b : BitVec 5) (q : BitVec 3)
  /-- R197: Writes bits [127:64] of the signed product. -/
  | mulh (d : BitVec 5) (a : BitVec 5) (b : BitVec 5) (q : BitVec 3)
  /-- R197: Writes bits [127:64] of the unsigned product. -/
  | mulhu (d : BitVec 5) (a : BitVec 5) (b : BitVec 5) (q : BitVec 3)
  /-- R198: Signed division truncating toward zero, with fixed corner cases. -/
  | div (d : BitVec 5) (a : BitVec 5) (b : BitVec 5) (q : BitVec 3)
  /-- R198: Unsigned division, with fixed corner cases. -/
  | divu (d : BitVec 5) (a : BitVec 5) (b : BitVec 5) (q : BitVec 3)
  /-- R198: Signed remainder taking the sign of the dividend. -/
  | rem (d : BitVec 5) (a : BitVec 5) (b : BitVec 5) (q : BitVec 3)
  /-- R198: Unsigned remainder. -/
  | remu (d : BitVec 5) (a : BitVec 5) (b : BitVec 5) (q : BitVec 3)
  /-- R197: Writes the signed minimum. -/
  | min (d : BitVec 5) (a : BitVec 5) (b : BitVec 5) (q : BitVec 3)
  /-- R197: Writes the signed maximum. -/
  | max (d : BitVec 5) (a : BitVec 5) (b : BitVec 5) (q : BitVec 3)
  /-- R197: Writes the unsigned minimum. -/
  | minu (d : BitVec 5) (a : BitVec 5) (b : BitVec 5) (q : BitVec 3)
  /-- R197: Writes the unsigned maximum. -/
  | maxu (d : BitVec 5) (a : BitVec 5) (b : BitVec 5) (q : BitVec 3)
  /-- R197: Writes 1 if s1 < s2 signed, otherwise 0. -/
  | slt (d : BitVec 5) (a : BitVec 5) (b : BitVec 5) (q : BitVec 3)
  /-- R197: Writes 1 if s1 < s2 unsigned, otherwise 0. -/
  | sltu (d : BitVec 5) (a : BitVec 5) (b : BitVec 5) (q : BitVec 3)
  /-- R197: Counts leading zero bits of s1. -/
  | clz (d : BitVec 5) (a : BitVec 5) (q : BitVec 2)
  /-- R197: Counts trailing zero bits of s1. -/
  | ctz (d : BitVec 5) (a : BitVec 5) (q : BitVec 2)
  /-- R197: Counts one bits of s1. -/
  | popc (d : BitVec 5) (a : BitVec 5) (q : BitVec 2)
  /-- R197: Writes s1 if the old d is nonzero, otherwise s2. -/
  | sel (d : BitVec 5) (a : BitVec 5) (b : BitVec 5) (q : BitVec 2)
  /-- R199: Extracts a bit field of s1 described by s2, optionally sign-extended. -/
  | ext (d : BitVec 5) (a : BitVec 5) (b : BitVec 5) (q : BitVec 3)
  /-- R201: Adds a sign-extended immediate. -/
  | addi (d : BitVec 5) (a : BitVec 5) (i : BitVec 16)
  /-- R201: Bitwise AND with a sign-extended immediate. -/
  | andi (d : BitVec 5) (a : BitVec 5) (i : BitVec 16)
  /-- R201: Bitwise OR with a sign-extended immediate. -/
  | ori (d : BitVec 5) (a : BitVec 5) (i : BitVec 16)
  /-- R201: Bitwise XOR with a sign-extended immediate. -/
  | xori (d : BitVec 5) (a : BitVec 5) (i : BitVec 16)
  /-- R201: Shifts left by an immediate count. -/
  | shli (d : BitVec 5) (a : BitVec 5) (k : BitVec 6)
  /-- R201: Shifts right logically by an immediate count. -/
  | shri (d : BitVec 5) (a : BitVec 5) (k : BitVec 6)
  /-- R201: Shifts right arithmetically by an immediate count. -/
  | sari (d : BitVec 5) (a : BitVec 5) (k : BitVec 6)
  /-- R201: Writes 1 if s1 is below the immediate, signed. -/
  | slti (d : BitVec 5) (a : BitVec 5) (i : BitVec 16)
  /-- R201: Writes 1 if s1 is below the immediate, unsigned. -/
  | sltiu (d : BitVec 5) (a : BitVec 5) (i : BitVec 16)
  /-- R201: Writes {s1[47:0], IMM16}. -/
  | lih (d : BitVec 5) (a : BitVec 5) (i : BitVec 16)
  /-- R202: Branches when s1 equals s2. -/
  | beq (a : BitVec 5) (b : BitVec 5) (o : BitVec 16)
  /-- R202: Branches when s1 differs from s2. -/
  | bne (a : BitVec 5) (b : BitVec 5) (o : BitVec 16)
  /-- R202: Branches when s1 < s2 signed. -/
  | blt (a : BitVec 5) (b : BitVec 5) (o : BitVec 16)
  /-- R202: Branches when s1 >= s2 signed. -/
  | bge (a : BitVec 5) (b : BitVec 5) (o : BitVec 16)
  /-- R202: Branches when s1 < s2 unsigned. -/
  | bltu (a : BitVec 5) (b : BitVec 5) (o : BitVec 16)
  /-- R202: Branches when s1 >= s2 unsigned. -/
  | bgeu (a : BitVec 5) (b : BitVec 5) (o : BitVec 16)
  /-- R203: Jumps to PC + 4 x offset. -/
  | jmp (o : BitVec 26)
  /-- R203: Writes PC + 4 to the link register and jumps. -/
  | jal (o : BitVec 26)
  /-- R203: Jumps to s1 + 4 x immediate, linking into d, or traps MISALIGN. -/
  | jalr (d : BitVec 5) (a : BitVec 5) (i : BitVec 16)
  /-- R204: Decrements a nonzero counter and branches while it stays nonzero. -/
  | loop (a : BitVec 5) (o : BitVec 16)
  /-- R215: Reads a whole control register indivisibly into d. -/
  | crr (d : BitVec 5) (n : BitVec 12)
  /-- R215: Writes s1 to a control register under its access codes and refusal rules. -/
  | crw (a : BitVec 5) (n : BitVec 12)
  /-- R216: Indivisibly sets RW bits of a control register where s1 holds ones. -/
  | crset (a : BitVec 5) (n : BitVec 12)
  /-- R216: Indivisibly clears RW bits of a control register where s1 holds ones. -/
  | crclr (a : BitVec 5) (n : BitVec 12)
  /-- R219: Writes the number of held or reserved entries of a queue. -/
  | qtest (d : BitVec 5) (q : BitVec 3)
  /-- R220: Sets a stream flag. -/
  | sfset (f : BitVec 4)
  /-- R220: Clears a stream flag. -/
  | sfclr (f : BitVec 4)
  /-- R220: Issues only once the named stream flag is set. -/
  | sfwait (f : BitVec 4)
  /-- R220: Writes 1 or 0 according to a stream flag. -/
  | sftest (d : BitVec 5) (f : BitVec 4)
  /-- R92: Applies the named order at the named scope and holds the stream until done. -/
  | fence (s : BitVec 3) (o : BitVec 2)
  /-- R94: Fences SC at POD, then makes the named core drain and release, and acquires its record. -/
  | fenceh (a : BitVec 5)
  /-- R323: Aborts the task with cause TRAP and detail s1[31:0]. -/
  | trap (a : MarkedReg)
  /-- R316: Sets the enable bit of a channel entry. -/
  | chen (a : BitVec 5) (m : BitVec 1)
  /-- R316: Clears the enable bit of a channel entry. -/
  | chdis (a : BitVec 5) (m : BitVec 1)
  /-- R316: Sets the hold bit of a channel entry. -/
  | chhold (a : BitVec 5) (m : BitVec 1)
  /-- R316: Clears the hold bit of a channel entry. -/
  | chrel (a : BitVec 5) (m : BitVec 1)
  /-- R316: Adds a signed value to a channel's pending count, clamped to 0..0xFFFF. -/
  | chpend (a : BitVec 5) (b : BitVec 5) (n : BitVec 1) (m : BitVec 1)
  /-- R317: Writes the msgid of the task's most recent staged send. -/
  | msgid (d : BitVec 5) (m : BitVec 1)
  /-- R224: Loads 1 to 8 bytes through a capability at an immediate offset. -/
  | ldImm (d : BitVec 5) (c : BitVec 5) (n : BitVec 1) (z : BitVec 1) (s : BitVec 3) (o : BitVec 10)
  /-- R226: Loads into a queue port or vlq at an immediate offset. -/
  | ldqImm (d : BitVec 5) (c : BitVec 5) (n : BitVec 1) (z : BitVec 1) (s : BitVec 3) (o : BitVec 10)
  /-- R227: Loads a 16-byte capability granule with its tag at an immediate offset. -/
  | ldcImm (d : BitVec 5) (c : BitVec 5) (n : BitVec 1) (o : BitVec 10)
  /-- R225: Stores 1 to 8 bytes through a capability at an immediate offset. -/
  | stImm (v : BitVec 5) (c : BitVec 5) (s : BitVec 3) (o : BitVec 10)
  /-- R226: Stores a popped queue element at an immediate offset. -/
  | stqImm (v : BitVec 5) (c : BitVec 5) (s : BitVec 3) (o : BitVec 10)
  /-- R228: Stores a capability with its tag at an immediate offset. -/
  | stcImm (v : BitVec 5) (c : BitVec 5) (o : BitVec 10)
  /-- R224: Loads 1 to 8 bytes at a register offset. -/
  | ldReg (d : BitVec 5) (c : BitVec 5) (b : BitVec 5) (m : BitVec 1) (n : BitVec 1) (z : BitVec 1) (s : BitVec 3)
  /-- R226: Loads into a queue at a register offset. -/
  | ldqReg (d : BitVec 5) (c : BitVec 5) (b : BitVec 5) (m : BitVec 1) (n : BitVec 1) (z : BitVec 1) (s : BitVec 3)
  /-- R227: Loads a capability granule at a register offset. -/
  | ldcReg (d : BitVec 5) (c : BitVec 5) (b : BitVec 5) (m : BitVec 1) (n : BitVec 1)
  /-- R225: Stores 1 to 8 bytes at a register offset. -/
  | stReg (v : BitVec 5) (c : BitVec 5) (b : BitVec 5) (m : BitVec 1) (s : BitVec 3)
  /-- R226: Stores a popped queue element at a register offset. -/
  | stqReg (v : BitVec 5) (c : BitVec 5) (b : BitVec 5) (m : BitVec 1) (s : BitVec 3)
  /-- R228: Stores a capability with its tag at a register offset. -/
  | stcReg (v : BitVec 5) (c : BitVec 5) (b : BitVec 5) (m : BitVec 1)
  /-- R229: Atomic read-modify-write of 4 or 8 own bytes, returning the old value. -/
  | amo (d : BitVec 5) (c : BitVec 5) (b : BitVec 5) (m : BitVec 1) (n : BitVec 1) (z : BitVec 1) (p : BitVec 4)
  /-- R229: Compare-and-swap of 4 or 8 own bytes. -/
  | cas (d : BitVec 5) (c : BitVec 5) (b : BitVec 5) (m : BitVec 1) (z : BitVec 1)
  /-- R231: Pushes an a register onto the slot's spill stack. -/
  | spillA (a : BitVec 5) (m : BitVec 1)
  /-- R231: Pushes a capability register with its filtered tag onto the spill stack. -/
  | spillC (c : BitVec 5)
  /-- R232: Pops the spill stack into an a register. -/
  | fillA (d : BitVec 5) (m : BitVec 1)
  /-- R232: Pops the spill stack into a capability register with its tag. -/
  | fillC (d : BitVec 5)
  /-- R233: Writes the decoded base of a capability. -/
  | kbase (d : BitVec 5) (c : BitVec 5) (m : BitVec 1)
  /-- R233: Writes top minus base of a capability. -/
  | klen (d : BitVec 5) (c : BitVec 5) (m : BitVec 1)
  /-- R233: Writes the permission bits of a capability. -/
  | kperm (d : BitVec 5) (c : BitVec 5) (m : BitVec 1)
  /-- R233: Writes the tag of a capability. -/
  | ktag (d : BitVec 5) (c : BitVec 5) (m : BitVec 1)
  /-- R233: Writes the type of a capability. -/
  | ktype (d : BitVec 5) (c : BitVec 5) (m : BitVec 1)
  /-- R233: Writes the address of a capability. -/
  | kaddr (d : BitVec 5) (c : BitVec 5) (m : BitVec 1)
  /-- R43: Sets a capability's address, keeping or clearing the tag by the container. -/
  | kseta (d : BitVec 5) (c : BitVec 5) (b : BitVec 5) (m : BitVec 1)
  /-- R43: Adds a register to a capability's address under the container rule. -/
  | kadd (d : BitVec 5) (c : BitVec 5) (b : BitVec 5) (m : BitVec 1)
  /-- R234: Narrows bounds to [addr, addr + s2), rounding outward. -/
  | kclip (d : BitVec 5) (c : BitVec 5) (b : BitVec 5) (m : BitVec 1)
  /-- R234: Narrows bounds exactly or traps CAP_BOUNDS INEXACT. -/
  | kclipx (d : BitVec 5) (c : BitVec 5) (b : BitVec 5) (m : BitVec 1)
  /-- R233: Intersects a capability's permissions with s2[15:0]. -/
  | kmask (d : BitVec 5) (c : BitVec 5) (b : BitVec 5) (m : BitVec 1)
  /-- R235: Seals a capability to the type given by an authority. -/
  | kseal (d : BitVec 5) (c : BitVec 5) (e : BitVec 5)
  /-- R235: Unseals a capability under an authority. -/
  | kunseal (d : BitVec 5) (c : BitVec 5) (e : BitVec 5)
  /-- R233: Clears the tag of an unsealed capability. -/
  | kdrop (d : BitVec 5) (c : BitVec 5)
  /-- R233: Writes the difference of two capability addresses. -/
  | kdiff (d : BitVec 5) (c : BitVec 5) (e : BitVec 5) (m : BitVec 1)
  /-- R233: Copies a capability register with its tag. -/
  | kmov (d : BitVec 5) (c : BitVec 5)
  /-- R234: Writes the encodable span of a requested range. -/
  | kspan (d : BitVec 5) (a : BitVec 5) (b : BitVec 5) (m : BitVec 1)
  /-- R43: Adds a signed immediate to a capability's address under the container rule. -/
  | kaddi (d : BitVec 5) (c : BitVec 5) (i : BitVec 16)
  /-- R236: Pushes a copy of own memory into own space 0 or 1 to the copy engine. -/
  | copy (d : BitVec 5) (c : BitVec 5) (b : BitVec 5) (m : BitVec 1) (k : BitVec 4)
  /-- R236: Pushes a pull of another owner's memory into own memory. -/
  | pull (d : BitVec 5) (c : BitVec 5) (b : BitVec 5) (m : BitVec 1) (k : BitVec 4)
  /-- R237: Pushes a strided two-dimensional pull. -/
  | pull2 (d : BitVec 5) (c : BitVec 5) (b : BitVec 5) (k : BitVec 4)
  /-- R238: Pushes a per-lane gather into own scratchpad, lane offsets popped from vsq. -/
  | gather (d : BitVec 5) (c : BitVec 5) (b : BitVec 5) (m : BitVec 1) (k : BitVec 4)
  /-- R239: Pushes a prefetch to tier 0 or tier 1. -/
  | pref (c : BitVec 5) (b : BitVec 5) (m : BitVec 1) (t : BitVec 1) (k : BitVec 4)
  /-- R122: Pushes a write-back of own changed slice lines of a range. -/
  | flush (c : BitVec 5) (b : BitVec 5) (m : BitVec 1) (k : BitVec 4)
  /-- R122: Pushes a discard of a range's lines from the cache portion and pool. -/
  | inval (c : BitVec 5) (b : BitVec 5) (m : BitVec 1) (k : BitVec 4)
  /-- R240: Initialises a barrier object once no command names it. -/
  | binit (c : BitVec 5) (b : BitVec 5)
  /-- R240: Makes an arrival at a barrier object through the store buffer. -/
  | barr (c : BitVec 5)
  /-- R240: Waits for DONE, returns the status word and pops the task's elements. -/
  | bwait (d : BitVec 5) (c : BitVec 5) (m : BitVec 1)
  /-- R240: Returns the status word and pops only when DONE is set. -/
  | btest (d : BitVec 5) (c : BitVec 5) (m : BitVec 1)
  /-- R187: Reads, checks, completes and pushes a tile command word from the access stream. -/
  | mqA (x : BitVec 5) (y : BitVec 5) (o : BitVec 16)
  /-- R187: Reads, checks, completes and pushes a tile command word from the execute stream. -/
  | mqE (x : BitVec 5) (y : BitVec 5) (o : BitVec 16)
  /-- R289: Arms an accumulate chain over a landing range and replays parked flits. -/
  | achain (c : BitVec 5) (b : BitVec 5) (m : BitVec 1) (n : BitVec 5) (o : BitVec 3)
  /-- R301: Disarms an armed chain, discarding its parked entries. -/
  | adisarm (n : BitVec 5)
  /-- R300: Writes a chain's status word. -/
  | atest (d : BitVec 5) (m : BitVec 1) (n : BitVec 5)
  /-- R311: Stages a DATA message whose payload may carry capability slots. -/
  | sendc (a : BitVec 5) (b : BitVec 5) (m : BitVec 1) (k : BitVec 4)
  /-- R319: Writes a non-decreasing sequence word as a release. -/
  | seqadv (c : BitVec 5) (b : BitVec 5) (m : BitVec 1)
  /-- R320: Sends a watch on a sequence word to its owner's port. -/
  | watch (d : BitVec 5) (c : BitVec 5) (b : BitVec 5) (m : BitVec 1)
  /-- R320: Sends removal of this core's watches on a word for a reply channel. -/
  | unwatch (d : BitVec 5) (c : BitVec 5)
  /-- R318: Installs or empties an endpoint-table slot. -/
  | epbind (d : BitVec 5) (c : BitVec 5)
  /-- R326: Sets revocation bits of the granules a range touches. -/
  | rvmark (c : BitVec 5) (b : BitVec 5) (m : BitVec 1)
  /-- R326: Clears revocation bits of the granules a range touches. -/
  | rvmarkClr (c : BitVec 5) (b : BitVec 5) (m : BitVec 1)
  /-- R327: Sends a sweep-epoch start request to the leading launch agent. -/
  | rvsweep (c : BitVec 5)
  /-- R248: Adds active lanes. -/
  | vadd (v : BitVec 5) (a : BitVec 5) (b : BitVec 5) (k : BitVec 3) (t : BitVec 4)
  /-- R248: Subtracts active lanes. -/
  | vsub (v : BitVec 5) (a : BitVec 5) (b : BitVec 5) (k : BitVec 3) (t : BitVec 4)
  /-- R248: Multiplies active lanes. -/
  | vmul (v : BitVec 5) (a : BitVec 5) (b : BitVec 5) (k : BitVec 3) (t : BitVec 4)
  /-- R248: Fused multiply-add into the destination lanes. -/
  | vfma (v : BitVec 5) (a : BitVec 5) (b : BitVec 5) (k : BitVec 3) (t : BitVec 4)
  /-- R249: Divides active lanes. -/
  | vdiv (v : BitVec 5) (a : BitVec 5) (b : BitVec 5) (k : BitVec 3) (t : BitVec 4)
  /-- R248: Square root of active floating-point lanes. -/
  | vsqrt (v : BitVec 5) (a : BitVec 5) (k : BitVec 3) (t : BitVec 4)
  /-- R248: Lane-wise minimum. -/
  | vmin (v : BitVec 5) (a : BitVec 5) (b : BitVec 5) (k : BitVec 3) (t : BitVec 4)
  /-- R248: Lane-wise maximum. -/
  | vmax (v : BitVec 5) (a : BitVec 5) (b : BitVec 5) (k : BitVec 3) (t : BitVec 4)
  /-- R248: Lane-wise absolute value. -/
  | vabs (v : BitVec 5) (a : BitVec 5) (k : BitVec 3) (t : BitVec 4)
  /-- R248: Lane-wise negation. -/
  | vneg (v : BitVec 5) (a : BitVec 5) (k : BitVec 3) (t : BitVec 4)
  /-- R248: Lane-wise bitwise AND. -/
  | vand (v : BitVec 5) (a : BitVec 5) (b : BitVec 5) (k : BitVec 3) (t : BitVec 4)
  /-- R248: Lane-wise bitwise OR. -/
  | vor (v : BitVec 5) (a : BitVec 5) (b : BitVec 5) (k : BitVec 3) (t : BitVec 4)
  /-- R248: Lane-wise bitwise XOR. -/
  | vxor (v : BitVec 5) (a : BitVec 5) (b : BitVec 5) (k : BitVec 3) (t : BitVec 4)
  /-- R250: Lane-wise shift left. -/
  | vshl (v : BitVec 5) (a : BitVec 5) (b : BitVec 5) (k : BitVec 3) (t : BitVec 4)
  /-- R250: Lane-wise logical shift right. -/
  | vshr (v : BitVec 5) (a : BitVec 5) (b : BitVec 5) (k : BitVec 3) (t : BitVec 4)
  /-- R250: Lane-wise arithmetic shift right. -/
  | vsar (v : BitVec 5) (a : BitVec 5) (b : BitVec 5) (k : BitVec 3) (t : BitVec 4)
  /-- R251: Compares active lanes into a mask register. -/
  | vcmp (c : BitVec 2) (m : BitVec 3) (a : BitVec 5) (b : BitVec 5) (k : BitVec 3) (t : BitVec 4)
  /-- R252: Selects each lane from VS1 or VS2 by the mask. -/
  | vsel (v : BitVec 5) (a : BitVec 5) (b : BitVec 5) (k : BitVec 3)
  /-- R257: Converts active lanes between types, or packs and unpacks block formats. -/
  | vcvt (v : BitVec 5) (a : BitVec 5) (u : BitVec 4) (k : BitVec 3) (t : BitVec 4)
  /-- R255: Reduces active lanes by a fixed binary tree into lane 0. -/
  | vred (v : BitVec 5) (a : BitVec 5) (o : BitVec 3) (k : BitVec 3) (t : BitVec 4)
  /-- R256: Inclusive prefix over active lanes from lane 0 upward. -/
  | vscan (v : BitVec 5) (a : BitVec 5) (o : BitVec 3) (k : BitVec 3) (t : BitVec 4)
  /-- R252: Permutes lanes of VS1 by indices in VS2. -/
  | vperm (v : BitVec 5) (a : BitVec 5) (b : BitVec 5) (k : BitVec 3)
  /-- R253: Broadcasts an e register into active lanes. -/
  | vbcast (v : BitVec 5) (e : BitVec 5) (k : BitVec 3) (t : BitVec 4)
  /-- R253: Inserts an e register into one lane. -/
  | vins (v : BitVec 5) (e : BitVec 5) (g : BitVec 5) (t : BitVec 4)
  /-- R253: Extracts one lane into an e register. -/
  | vext (e : BitVec 5) (v : BitVec 5) (g : BitVec 5) (t : BitVec 4)
  /-- R260: Pops a vlq element into a vector register. -/
  | vlq (v : BitVec 5)
  /-- R260: Pushes a vector register into vsq. -/
  | vsq (v : BitVec 5)
  /-- R254: Writes to each active lane the count of active lanes below it. -/
  | viota (v : BitVec 5) (k : BitVec 3) (t : BitVec 4)
  /-- R261: Bitwise AND of masks. -/
  | mand (d : BitVec 3) (a : BitVec 3) (b : BitVec 3)
  /-- R261: Bitwise OR of masks. -/
  | mor (d : BitVec 3) (a : BitVec 3) (b : BitVec 3)
  /-- R261: Bitwise XOR of masks. -/
  | mxor (d : BitVec 3) (a : BitVec 3) (b : BitVec 3)
  /-- R261: Complements a mask. -/
  | mnot (d : BitVec 3) (a : BitVec 3)
  /-- R261: Counts the one bits of a mask into an e register. -/
  | mcnt (e : BitVec 5) (a : BitVec 3)
  /-- R261: Sets a mask from an e register. -/
  | mset (d : BitVec 3) (e : BitVec 5)
  /-- R209: Scalar floating-point addition. -/
  | fadd (d : BitVec 5) (a : BitVec 5) (b : BitVec 5) (m : BitVec 3) (t : BitVec 4)
  /-- R209: Scalar floating-point subtraction. -/
  | fsub (d : BitVec 5) (a : BitVec 5) (b : BitVec 5) (m : BitVec 3) (t : BitVec 4)
  /-- R209: Scalar floating-point multiplication. -/
  | fmul (d : BitVec 5) (a : BitVec 5) (b : BitVec 5) (m : BitVec 3) (t : BitVec 4)
  /-- R209: Scalar fused multiply-add with d as addend. -/
  | fmadd (d : BitVec 5) (a : BitVec 5) (b : BitVec 5) (m : BitVec 2) (t : BitVec 4)
  /-- R209: Correctly rounded scalar division. -/
  | fdiv (d : BitVec 5) (a : BitVec 5) (b : BitVec 5) (m : BitVec 3) (t : BitVec 4)
  /-- R209: Correctly rounded scalar square root. -/
  | fsqrt (d : BitVec 5) (a : BitVec 5) (m : BitVec 2) (t : BitVec 4)
  /-- R157: Scalar floating-point minimum. -/
  | fmin (d : BitVec 5) (a : BitVec 5) (b : BitVec 5) (m : BitVec 3) (t : BitVec 4)
  /-- R157: Scalar floating-point maximum. -/
  | fmax (d : BitVec 5) (a : BitVec 5) (b : BitVec 5) (m : BitVec 3) (t : BitVec 4)
  /-- R210: Writes 1 when s1 equals s2. -/
  | feq (d : BitVec 5) (a : BitVec 5) (b : BitVec 5) (m : BitVec 3) (t : BitVec 4)
  /-- R210: Writes 1 when s1 < s2. -/
  | flt (d : BitVec 5) (a : BitVec 5) (b : BitVec 5) (m : BitVec 3) (t : BitVec 4)
  /-- R210: Writes 1 when s1 <= s2. -/
  | fle (d : BitVec 5) (a : BitVec 5) (b : BitVec 5) (m : BitVec 3) (t : BitVec 4)
  /-- R213: Converts s1 between scalar types. -/
  | fcvt (d : BitVec 5) (a : BitVec 5) (u : BitVec 4) (m : BitVec 2) (t : BitVec 4)
  /-- R211: Writes the one-hot class of a floating-point operand. -/
  | fclass (d : BitVec 5) (a : BitVec 5) (m : BitVec 2) (t : BitVec 4)
  /-- R212: Writes s1 with the sign bit of s2. -/
  | fsgn (d : BitVec 5) (a : BitVec 5) (b : BitVec 5) (m : BitVec 3) (t : BitVec 4)
  /-- R293: Stages accumulator rows as a WIDE contribution and locks the accumulator. -/
  | asend (a : BitVec 5) (m : BitVec 1) (w : BitVec 1)
  /-- R293: Stages 64 vector lanes as a 32-bit contribution. -/
  | avsend (a : BitVec 5) (v : BitVec 5) (m : BitVec 1)
  /-- R311: Stages a DATA message from six e registers. -/
  | send (a : BitVec 5) (b : BitVec 5) (m : BitVec 1)
  /-- R312: Asks the target for a slot reservation and stages a SPAWN message on a grant. -/
  | spawn (d : BitVec 5) (a : BitVec 5) (b : BitVec 5) (n : BitVec 1) (m : BitVec 1)
  /-- R314: Opens the task's stream port to a channel, as a release. -/
  | sopen (a : BitVec 5)
  /-- R314: Sends one 64-bit stream word at once. -/
  | sput (a : BitVec 5) (m : BitVec 1)
  /-- R276: Gang MMA passes its start checks and arrives at the gang barrier. -/
  | mmag (remote : Option GangArrival)
  /-- R283: The head's answer to the amax flit completes the drain, or refusal raises CHAIN_ABSENT. -/
  | amaxAnswer (ans : AmaxAnswer)
  /-- R269: A pending command or matrix numeric trap is taken at the task's next instruction at issue. -/
  | commandTrap (slot : BitVec 2)
  /-- R117: A copy-engine command retires, frees its scoreboard entry and arrives at its barrier object. -/
  | copyRetire (id : Nat)
  /-- R67: A slice's grant or refusal of a store permit reaches the stalled store. -/
  | permitReply (reply : PermitReply)
  /-- R65: A slice handles one request for a line of one context. -/
  | sliceRequest (req : SliceReq)
  /-- R65: A fill from the owner's channel completes; the line is sealed, installed and returned. -/
  | sliceFillDone (id : Nat)
  /-- R78: A fresh or cached read's data returns to the reader and adds an observation pair. -/
  | readResponse (reply : ReadReply)
  /-- R119: The owner's read-only port rechecks and serves a pull, gather or prefetch read. -/
  | portRequest (req : PortReq)
  /-- R66: A widening table write wakes a requester in the fault-wait list. -/
  | pageWake (ctx : BitVec 12) (tid : Nat)
  /-- R66: 65,536 cycles after an unlisted fault the suspended task re-executes its instruction. -/
  | faultRetryTimer (tid : Nat)
  /-- R83: A foreign line held for 2^30 cycles is discarded. -/
  | lineAgeDiscard (ctx : BitVec 12) (va : Word)
  /-- R71: A core acts on a page-table invalidation and acknowledges. -/
  | invalidation (inv : Invalidation)
  /-- R72: SDTIME expires; the silent package is fenced off and busy clears with FENCED. -/
  | invalidationTimeout (silent : List (BitVec 9))
  /-- R139: The deadlock counter reaches 65,536 and the task traps. -/
  | queueDeadlock (slot : BitVec 2)
  /-- R356: WDBUDGET.left reaches zero and the task traps. -/
  | watchdog (slot : BitVec 2)
  /-- R325: An IDLE wait ends on another slot's selection or after 64 cycles. -/
  | idleWake (slot : BitVec 2) (stream : Stream)
  /-- R207: Both streams at END: waits for commands, folds flags, sends staged traffic, frees the slot. -/
  | taskEnd (slot : BitVec 2)
  /-- R308: A staged send leaves when the interface or send engine can take it, rechecked against endpoints. -/
  | messageDeparture (slot : BitVec 2)
  /-- R359: Uncorrectable context state or key failure ends the context on every core. -/
  | fatalContext (ctx : BitVec 12) (key : Bool)
  /-- R334: An arriving message is deposited in its receive ring, held, parked or discarded. -/
  | messageArrival (message : Message)
  /-- R335: A held message still unfit after 256 fabric cycles is parked with those behind it. -/
  | ringHoldTimeout (ctx : BitVec 12) (chan : BitVec 6)
  /-- R337: Each 65,536 cycles of waiting raises an entry's effective priority. -/
  | priorityAgeing (entry : Nat)
  /-- R316: A remote channel-bit operation is applied by the target's interface. -/
  | channelBitArrival (packet : ChanPacket)
  /-- R312: The target grants or refuses a slot reservation. -/
  | spawnRequest (req : SpawnReq)
  /-- R312: The grant or refusal reaches the spawning stream, which writes d and stages. -/
  | spawnResponse (id : Nat) (grant : Bool)
  /-- R313: A SPAWN message meets its reservation and starts the task in the reserved slot. -/
  | spawnArrival (message : Message)
  /-- R315: The destination gathers stream words into STREAM messages. -/
  | streamWordArrival (flit : StreamFlit)
  /-- R89: The owner's port checks a WATCH and replies IMMEDIATE, FULL, REFUSED or registers it. -/
  | watchRequest (req : WatchReq)
  /-- R320: The owner's port removes matching watches. -/
  | unwatchRequest (req : WatchReq)
  /-- R94: FENCEH reaches the named core, which drains and makes a release. -/
  | fencehRequest (req : FencehReq)
  /-- R94: The response completes FENCEH and is acquired. -/
  | fencehResponse (id : Nat) (record : Record)
  /-- R318: The security core's destination context answer completes EPBIND. -/
  | epbindAnswer (slot : BitVec 2) (dctx : BitVec 12)
  /-- R298: The head checks a flit's sequence, then adds, parks, refuses or discards it. -/
  | accumulateFlit (flit : Flit)
  /-- R298: The sender's engine resends in order from the named flit. -/
  | flitResendRequest (num seq : Nat)
  /-- R298: The head's acknowledgement frees the sender's replay buffer. -/
  | flitAck (num seq : Nat)
  /-- R297: A refusal stops the contribution and reports CHAIN_ABSENT to the sending context. -/
  | flitRefusal (num : Nat)
  /-- R327: The launch agent starts an epoch or refuses it and sends a SWEEP message. -/
  | sweepRequest (ctx : BitVec 12) (pkg : BitVec 9) (core : BitVec 10) (othersIdle : Bool)
  /-- R345: After tasks and engines finish, the context is saved and the next restored. -/
  | contextSave (next : BitVec 12)
  /-- R342: Write to LAUNCH submits a launch descriptor to the launch agents. -/
  | hostLaunch (sub : LaunchSubmit)
  /-- R340: A package places levels, tables, images and roots and answers READY or REFUSE. -/
  | prepare (plan : LaunchPlan)
  /-- R342: The lead collects READY or REFUSE answers and sends COMMIT or ABORT. -/
  | prepareAnswer (ctx : BitVec 12) (pkg : BitVec 9) (ready : Bool) (reason : BitVec 8)
  /-- R342: A package enables channels, delivers start messages and answers COMMITTED. -/
  | commit (ctx : BitVec 12)
  /-- R342: The lead collects COMMITTED answers and reports LAUNCHED. -/
  | committed (ctx : BitVec 12) (pkg : BitVec 9)
  /-- R342: A package disables, discards and releases everything of the launch. -/
  | launchAbort (ctx : BitVec 12)
  /-- R341: The host releases a context's cores and the agent clears its directory entries. -/
  | contextRelease (ctx : BitVec 12)
  /-- R377: A host acquire read of a sequence word orders later reads of its queue. -/
  | hostAcquireRead (id : Nat) (ctx : BitVec 12) (va : Word)
  /-- R378: The host agent performs an AMO or CAS on a host window line. -/
  | hostAtomic (req : HostAtomic)
  /-- R382: Matching grant requests make an endpoint delivered in GRANT messages. -/
  | grant (req : GrantReq)
  /-- R383: A withdrawn grant empties every endpoint entry holding it. -/
  | grantWithdraw (req : GrantReq)
  /-- R384: No line or stream uses a Retiring slot any longer; it becomes Revoked. -/
  | resealDone (slot : BitVec 10)
  /-- R384: A Revoked slot's key material is overwritten and it becomes Empty. -/
  | scrubDone (slot : BitVec 10)
  /-- R386: A 64-byte unit is unsealed and its tag checked, entering ERROR on failure. -/
  | secureStreamUnit (unit : SecureUnit)
  /-- R370: Every other package fences the package off and tells affected contexts. -/
  | packageFence (pkg : BitVec 9)
  /-- R370: All links to a package stay DOWN for LNKFENCE.timeout and the fence starts. -/
  | linkFenceTimeout (pkg : BitVec 9)
  /-- R365: At the end of each 4,096-cycle window the routing mode is recomputed. -/
  | routingWindow (idle : BitVec 8)
  /-- R367: A link receiver accepts or discards a flit and sends NAK on failure. -/
  | linkFlit (link : BitVec 7) (flit : LinkFlit)
  /-- R367: A NAK makes the sender replay every unacknowledged flit from the named seq. -/
  | nak (link : BitVec 7) (seq : BitVec 12)
  /-- R368: A lane over threshold is dropped from the map after any outstanding replay. -/
  | laneRepair (link : BitVec 7) (lane : BitVec 2)
  /-- R369: A first stream word reserves a route once channels are free. -/
  | streamRouteReserve (slot : BitVec 2)
  /-- R389: A start stage completes or fails and the next begins. -/
  | bootStageDone (result : StageResult)
  /-- R392: A verified firmware update is written in minimal mode. -/
  | firmwareUpdate (verified : Bool)
  /-- R395: The scrubber reads and corrects a sector once per scrub period. -/
  | scrubRead (place : ScrubPlace) (found : ScrubFinding)
  /-- R58: The revocation sweeper examines one 16-byte granule and clears its tag through the filter, as one indivisible owner store. -/
  | sweeperExamine (loc : Loc)
  /-- R118: A piece of a running copy-engine command's deposit lands in the issuer's own memory and is performed. -/
  | copyDeposit (id : Nat)
  /-- R206: Stops the executing stream; the task ends when both streams reach END. -/
  | endStream
  /-- R94: Keeps later loads until earlier stores have entered the store buffer. -/
  | fencel
  /-- R324: Resumes the task suspended at the BRK named by the activating report. -/
  | eret
  /-- R324: Suspends the task with cause BRK and reports to the supervisor channel. -/
  | brk
  /-- R325: Raises the package snapshot trigger. -/
  | snap
  /-- R325: Withholds its stream from issue until another slot is selected or 64 cycles pass. -/
  | idle
  /-- R314: Sends the closing marker of the stream, as a release. -/
  | sclose
  /-- R271: Engine copies a packed memory window into a tile. -/
  | tld
  /-- R271: Engine copies a tile window into own scratchpad. -/
  | tst
  /-- R272: Engine zeroes a tile window. -/
  | tzero
  /-- R272: Engine copies a tile window. -/
  | tcopy
  /-- R272: Engine transposes a tile window. -/
  | txp
  /-- R273: Engine converts a tile window to another format. -/
  | tcvt
  /-- R274: Engine adds the exact product of two tiles into an accumulator window. -/
  | mma
  /-- R277: Last member's arrival completes the join; slabs circulate and each member accumulates. -/
  | gangJoin
  /-- R276: Join timeout expires; every arrived member takes a command trap and the barrier resets. -/
  | gangTimeout
  /-- R278: Engine clears W and P of an accumulator window. -/
  | wzero
  /-- R279: Engine re-aligns an accumulator to a given anchor. -/
  | wanch
  /-- R279: Engine re-aligns an accumulator to an anchor chosen from its largest element. -/
  | wauto
  /-- R280: Engine converts an accumulator window and deposits it in scratchpad. -/
  | drain
  /-- R281: Row-handler drain deposits its next row once fewer than four are held, and sends a ROWDRAIN message. -/
  | rowdrainDeposit
  /-- R282: Releases a held row of a running row-handler drain. -/
  | drrel
  /-- R268: Engine starts the next queued command, sampling registers and making start checks. -/
  | matrixCommandStart
  /-- R117: Copy engine starts a queued command once its scoreboard entry and FIFO element are held. -/
  | copyCommandStart
  /-- R76: The oldest store-buffer entry is performed at the owner's memory point. -/
  | storePerformed
  /-- R70: PTWD with op WRITE writes a table entry, invalidating if narrowing. -/
  | ptwWrite
  /-- R73: PTWD with op MOVE moves a present page to a new frame. -/
  | ptwMove
  /-- R73: The slice finishes copying a moved page and releases held requests. -/
  | pageMoveDone
  /-- R71: The counted acknowledgement tree completes and PTWS.busy clears with OK. -/
  | invalidationComplete
  /-- R34: Write to OVFCFG, accepted only under its conditions. -/
  | ovfcfgWrite
  /-- R34: Read of OVFSTAT restarts peak from used. -/
  | ovfstatRead
  /-- R35: Write to SPILLOVF, refused when the area would pass 2^43. -/
  | spillovfWrite
  /-- R55: Write to RVCFG, refused unless IDLE and in range. -/
  | rvcfgWrite
  /-- R55: Read of RVCLR clears the sweeper's count. -/
  | rvclrRead
  /-- R69: Write to TBLCFG, refused while busy, out of range or overlapping the overflow store. -/
  | tblcfgWrite
  /-- R69: W1C write clears PTWS.lost. -/
  | ptwsWrite
  /-- R101: An accepted SPLIT change drains, discards cache lines, clears changed banks and installs the boundary. -/
  | splitWrite
  /-- R105: Write to VGROUP, changing victim pooling. -/
  | vgroupWrite
  /-- R114: Write to SPILLBASE or SPILLLIM, refused under its conditions. -/
  | spillBoundsWrite
  /-- R142: Write to a TSHAPE register, refused for invalid shapes. -/
  | tshapeWrite
  /-- R166: Write to WCTL reinterprets an accumulator at the new anchor. -/
  | wctlWrite
  /-- R144: Read of WCTL clears satcnt. -/
  | wctlRead
  /-- R169: Read of NUMSUM clears cvtsat. -/
  | numsumRead
  /-- R170: W1C write to NUMSUM flags, losing to a same-cycle OR. -/
  | numsumWrite
  /-- R127: W1C write clears CPSTAT.FAULT. -/
  | cpstatWrite
  /-- R275: Write to GANGCFG, refused under its conditions. -/
  | gangcfgWrite
  /-- R344: Write to CTXSAVE, refused under its conditions. -/
  | ctxsaveWrite
  /-- R346: Write to SLICE len or W1C of clamp. -/
  | sliceWrite
  /-- R353: Write to WDBUDGET replaces left only with a smaller value. -/
  | wdbudgetWrite
  /-- R331: Read of RUNQSTAT clears lost. -/
  | runqstatRead
  /-- R385: KEYCMD revoke bit revokes the selected slot of the own context. -/
  | keycmdRevoke
  /-- R395: Read of ECCCNT clears its counts. -/
  | ecccntRead
  /-- R395: Write to SCRUBCFG, refused for a zero period. -/
  | scrubcfgWrite
  /-- R396: W1C write of latched re-arms the snapshot. -/
  | snapstatWrite
  /-- R365: Write to ROUTECFG, refused for lo > hi or mode 3. -/
  | routecfgWrite
  /-- R365: Read of ROUTESTAT clears switches. -/
  | routestatRead
  /-- R368: Write to LNKCFG, refused for zero. -/
  | lnkcfgWrite
  /-- R370: Write to LNKFENCE, refused for zero. -/
  | lnkfenceWrite
  /-- R368: Read of LNKSTATn clears its error and replay counts. -/
  | lnkstatRead
  /-- R6: Write to any register with no row of its own, under its access codes and R8. -/
  | registerWrite
  /-- R295: The send engine reads the accumulator once earlier matrix commands complete and emits flits. -/
  | accumulateSendStart
  /-- R57: After all cores drained, each discards its filter cache and goes to SCAN. -/
  | sweepDrainDone
  /-- R57: The sweeper finishes scanning and goes to WAIT or REPORTED. -/
  | sweepScanDone
  /-- R57: Every core REPORTED: remote lines discarded, epoch incremented, IDLE. -/
  | sweepEpochEnd
  /-- R345: The resident context's slice expires and a switch-out is requested. -/
  | sliceExpiry
  /-- R342: A missing answer within the launch timeout aborts the launch. -/
  | launchTimeout
  /-- R376: Host doorbell write delivers a SYSTEM message acting as a release. -/
  | doorbell
  /-- R403: Takes a context's images to the host, making it absent. -/
  | ctxctlEvict
  /-- R403: Brings a context's images back and makes it resident again. -/
  | ctxctlRestore
  /-- R374: Setting valid registers a host window and deposits window roots. -/
  | hwinRegister
  /-- R375: Clearing valid retires a host window after pending device stores. -/
  | hwinUnregister
  /-- R387: Host binds or unbinds a secure stream. -/
  | ssbindWrite
  /-- R373: An untrusted private-page access is refused and logged in DENYLOG. -/
  | accessDenied
  /-- R381: The security core assigns a free context number and a Provisioned key slot. -/
  | contextCreate
  /-- R384: A signed key is provisioned into an Empty slot. -/
  | provision
  /-- R384: A slot becomes the context's Active slot, retiring the previous one. -/
  | activate
  /-- R384: The host revokes a key slot. -/
  | revoke
  /-- R370: The host asks that a package be fenced off. -/
  | fenceRequest
  /-- R394: Host admit request adds a reset package back to the member list. -/
  | admitPackage
  /-- R389: Power-on runs the start stages from the security core's ROM. -/
  | coldBoot
  /-- R389: A host-requested reset runs the stages, restoring HBM training. -/
  | warmReset
  /-- R389: A start not READY within 2^32 fabric cycles fails. -/
  | bootTimeout
  /-- R396: Host write raises the snapshot trigger. -/
  | snaptrig
  /-- R396: 64 fabric cycles after the trigger armed blocks latch their snapshots. -/
  | snapshotLatch
  /-- R397: A die at its junction limit steps its clock down by 0.3 GHz per 1,024 fabric cycles. -/
  | thermalStep
  deriving DecidableEq, Repr

end Sys2Proof
end

