-- ==== Sys2Proof/Machine/State.lean ====
section
/-! DEFINITION. The state of the machine: one core of one package, the units of that core, the slices and the memory
channel of its home, and the agents of its package. Plain data throughout. Fields marked MODEL are the model's own. -/
namespace Sys2Proof.Machine

/-- Sparse data by key: keys strictly rising, no entry equal to the default (Machine/Sparse.lean). -/
abbrev Sparse (α : Type) := List (Nat × α)

/-- One memory: bytes by address and the tag of each 16-byte granule (R27, R49), both in canonical form. An unlisted
byte reads 0 and an unlisted granule is untagged. -/
structure Mem where
  bytes : List Host.Cell
  tags : List (Nat × Bool)
  deriving DecidableEq, Repr

/-- Trap causes (R349 Table 1). -/
inductive Cause where
  | none | illegalOp | streamMismatch | priv | capTag | capSealed | capPerm | capBounds | foreignStore | misalign
  | pageNotPresent | pagePerm | fetchNx | seqRegress | chainNotArmed | chainConflict | chainAbsent | queueDeadlock
  | watchdog | numNan | numFlag | gangTimeout | endpoint | spillExhausted | stageFull | trap | brk | laneBounds
  | eccUncorrectable | sidingFull | launchAbort
  deriving DecidableEq, Repr

/-- A trap as it is raised: cause, detail (R355) and the first faulting byte of an access (R354). -/
structure TrapInfo where
  cause : Cause
  detail : BitVec 32
  addr : Word
  deriving DecidableEq, Repr

/-- A pending command trap or matrix numeric trap (R172, R269): what it is, the address of its MQ and the stream that
pushed it. -/
structure CmdTrap where
  info : TrapInfo
  pc : Word
  stream : Stream
  deriving DecidableEq, Repr

/-- What a stream waits on inside one instruction, with the answer once it is there. `read` is an access that left the
core (R78), `permit` a store's permit (R67), `atomic` an atomic at the host agent (R378). -/
inductive Wait where
  | ready
  | read (id : Nat) (reply : Option ReadReply)
  | permit (va : Word)
  | atomic (id : Nat) (old : Option Word)
  | spawn (id : Nat) (pkg : BitVec 9) (core : BitVec 10) (desc : Word) (dctx : BitVec 12)
    (granted : Option Bool)
  /-- the package that a SPAWN under way asked has been fenced off (R370) -/
  | unreachable
  /-- the first word of a stream waits for its route (R369) -/
  | route
  | epbind (cap : Cap) (dctx : Option (BitVec 12))
  | fenceh (id : Nat) (pkg : BitVec 9) (record : Option Record)
  | idle (left : BitVec 7)
  /-- the host agent has found the page of a store in space 2 present (R375) -/
  | hostOk (va : Word)
  /-- the atomic at issue met bytes that an error has lost (R28) -/
  | lost (va : Word)
  /-- RVMARK that has entered the bytes below `done` (R326) -/
  | marking (done : Nat)
  deriving DecidableEq, Repr

/-- Why an instruction at issue is held (R136, R139): on a queue or flag (with the code of R355), or otherwise. `absent`
marks an event whose subject does not exist: it has no effect. -/
inductive Hold where
  | none
  | queue (code : BitVec 8)
  | other
  | absent
  deriving DecidableEq, Repr

/-- One stream of a task: its program counter, the unsealed gate that authorises its fetches (R39, R205), whether it
stands at END (R206), and its wait. -/
structure StreamSt where
  pc : Word
  auth : Cap
  ended : Bool
  wait : Wait
  deriving DecidableEq, Repr

/-- A queue (R134): oldest first; `none` is an entry reserved by a load and not yet filled (R136). -/
abbrev Queue (α : Type) := List (Option α)

/-- A contribution staged or pushed by ASEND, AVSEND or an amax drain (R290, R293). -/
structure Contrib where
  num : Nat
  tid : Nat
  ctx : BitVec 12
  chain : BitVec 5
  hpkg : BitVec 9
  hcore : BitVec 10
  dctx : BitVec 12
  eidx : BitVec 14
  /-- some (n, row0, rows - 1): an ASEND of `wn`; none: the lanes -/
  rows : Option (Bool × BitVec 7 × BitVec 7)
  lanes : List (BitVec 32)
  /-- matrix commands with lower numbers were pushed before the ASEND issued (R295) -/
  after : Nat
  deriving DecidableEq, Repr

/-- A staged send (R308). -/
inductive Staged where
  | message (m : Message)
  | spawn (m : Message) (id : Nat)
  | contrib (c : Contrib)
  deriving DecidableEq, Repr

/-- An open stream port (R314): destination, words sent, which stream of the core it is, its SOPEN record, and
whether its route is held, with the links of this package on which it holds a channel (R369). -/
structure Port where
  chan : BitVec 6
  dcore : BitVec 10
  dpkg : BitVec 9
  dctx : BitVec 12
  words : Nat
  stream : Nat
  record : Record
  routed : Bool
  links : List Nat
  deriving DecidableEq, Repr

/-- The stage of a task's end (R207): not begun, step 1 (waiting for commands), step 3 (departures). -/
inductive EndStage where
  | running
  | draining
  | departing
  deriving DecidableEq, Repr

/-- A write of a task register that the other stream does not see yet (R218): the register's number, the value that the
other stream saw before the write, and who wrote. `ahead`: elements of each queue that were pushed before the write;
`quiet`: flags that the writer has not set since. -/
structure LateTask where
  num : BitVec 12
  before : Word
  by_ : Stream
  ahead : List Nat
  quiet : BitVec 16
  deriving DecidableEq, Repr

/-- A task and its context (R150). `tid` is a MODEL name, never reused. -/
structure Task where
  tid : Nat
  ctx : BitVec 12
  chan : BitVec 6
  prio : BitVec 2
  sup : Bool
  drop : Bool
  msgid : BitVec 16
  /-- started by SPAWN (R313): holds no ring record -/
  spawned : Bool
  /-- the suspended task that the activating BRK report names (R324) -/
  names : Option Nat
  /-- row that the activating ROWDRAIN message names (R281); the message is named by its msgid -/
  drainRow : Option (BitVec 9)
  sa : StreamSt
  se : StreamSt
  a : Vector Word 32
  c : Vector Cap 16
  e : Vector Word 32
  v : Vector VecWord 32
  m : Vector Word 8
  lq : Vector (Queue Word) 4
  sq : Vector (Queue Word) 2
  vlq : Queue VecWord
  vsq : Queue VecWord
  sf : BitVec 16
  deadlock : BitVec 17
  /-- MODEL: what its streams waited on when both were last queue-blocked, as the detail of R355 -/
  waitCodes : BitVec 16
  numflags : BitVec 5
  fpmode : BitVec 4
  trapcause : Word
  trapaddr : Word
  trapmsg : BitVec 22
  wdbudget : BitVec 32
  keysel : BitVec 10
  late : List LateTask
  obs : List (Owner × BitVec 48)
  obsOver : Bool
  horizons : List (Owner × BitVec 48)
  /-- raises of the horizons of all owners within a scope (R86, R92): the scope, and the pick of their current PUBs -/
  floors : List (Nat × Nat)
  spillDepth : Nat
  staged : List Staged
  /-- the offset that a load under way has popped, with its port (R136) -/
  popped : Option (Nat × Word)
  lastMsgid : Option (BitVec 16)
  port : Option Port
  cmdTrap : Option CmdTrap
  /-- began before the open sweep epoch (R57) -/
  preEpoch : Bool
  ending : EndStage
  deriving DecidableEq, Repr

/-- What a suspended task waits for (R357): a page, the ERET for the BRK that it executed in `slot`, or nothing, its
resumption being queued. -/
inductive SuspendOn where
  | page (va : Word) (listed : Bool)
  | brk (slot : BitVec 2)
  | woken
  deriving DecidableEq, Repr

/-- A task slot (R150, R312, R338): free, reserved for a SPAWN, running a task, or a HELD task. -/
inductive Slot where
  | free
  | reserved (id : Nat) (spkg : BitVec 9) (score : BitVec 10) (chan : BitVec 6)
  | running (t : Task)
  | held (t : Task) (on : SuspendOn)
  deriving DecidableEq, Repr

/-- A run-queue entry (R336): a dispatched channel record, or a resumption, with how far waiting has raised it. -/
inductive RunEntry where
  | chan (n : BitVec 6) (raised : BitVec 2) (seq : Nat)
  | resume (tid : Nat) (raised : BitVec 2)
  deriving DecidableEq, Repr

/-- One accumulator element (R144). -/
structure Acc where
  w : BitVec 128
  p : Bool
  deriving DecidableEq, Repr

/-- A chain entry (R287). The status word is held as its fields of R301 Table 4. -/
structure Chain where
  armed : Bool
  mode : BitVec 3
  base : BitVec 22
  /-- landing elements -/
  count : BitVec 15
  achan : BitVec 6
  akind : BitVec 2
  boff : BitVec 22
  anchor : Option (BitVec 16)
  status : Word
  /-- complete, its release waiting for so many store-buffer entries (R299 step 2) -/
  closing : Option Nat
  deriving DecidableEq, Repr

/-- An installed endpoint (R318). -/
structure Endpoint where
  pkg : BitVec 9
  core : BitVec 10
  lo : Nat
  top : Nat
  dctx : BitVec 12
  deriving DecidableEq, Repr

/-- A completion element of the result FIFO (R127); `obj` is the barrier object's offset, none for `c0`. -/
structure Completion where
  tid : Nat
  slot : BitVec 2
  obj : Option (BitVec 22)
  fault : Bool
  part : Bool
  /-- a pull's observations: source owner and its PUB when the last byte was read (R95) -/
  pairs : List (Owner × BitVec 48)
  deriving DecidableEq, Repr

/-- An inbound stream being gathered on a channel (R315). -/
structure InStream where
  chan : BitVec 6
  spkg : BitVec 9
  score : BitVec 10
  sctx : BitVec 12
  sup : Bool
  stream : Nat
  words : List Word
  seq : BitVec 32
  record : Record
  deriving DecidableEq, Repr

/-- An arrival that waits: held at the network interface (R335) or parked in the overflow store (R32). -/
inductive Parked where
  | message (m : Message)
  | chanop (p : ChanPacket)
  | flit (f : Flit)
  deriving DecidableEq, Repr

/-- Residency of a context on the core (R344): resident, switching out, out, or absent. -/
inductive Residency where
  | resident
  | out
  | absent
  deriving DecidableEq, Repr

/-- A context as this core holds it (R141, R146, R287, R306, R318, R330 to R345). Number 0 stands for none. -/
structure CtxState where
  num : BitVec 12
  residency : Residency
  sram : Mem
  /-- what the code of the local SRAM says of its 64-bit words (R395) -/
  sramErr : Sparse SectorHealth
  tshape : Vector Word 8
  wctl : Vector Word 2
  scalea : BitVec 22
  scaleb : BitVec 22
  numtrap : BitVec 6
  tiles : Vector (BitVec 262144) 8
  accs : Vector (Sparse Acc) 2
  /-- what the code says of the 4,096 words of each tile, and of each element of the accumulators (R285, R395), by number:
  4096 t + word, 8192 a + 64 i + j -/
  tileErr : Sparse SectorHealth
  accErr : Sparse SectorHealth
  chanbase : BitVec 22
  slice : Word
  numsum : Word
  split : BitVec 4
  vgroup : BitVec 7
  spillbase : BitVec 14
  spilllim : BitVec 15
  spillovf : Word
  pub : BitVec 48
  gangcfg : Word
  chains : Vector Chain 32
  endpoints : Vector (Option Endpoint) 32
  msgCounter : BitVec 16
  /-- the named regions: offset and size (R112) -/
  regions : List (Nat × Nat)
  /-- every core of the context, in every package (R322) -/
  cores : List (BitVec 9 × BitVec 10)
  rootRead : List Cap
  rootCode : Cap
  /-- entries that the level gives the suspend store (R329) -/
  suspCap : Nat
  susp : List (Task × SuspendOn)
  /-- the run queue, oldest first: its first 32 entries are the hardware queue, the rest the overflow ring (R336) -/
  runq : List RunEntry
  /-- MODEL: entries that have gone to the overflow ring so far -/
  runOvf : Nat
  results : List Completion
  /-- messages, and channel-bit operations behind them, held at the network interface, oldest first (R335) -/
  held : List Parked
  inStreams : List InStream
  /-- the releases of the latest record on a channel: MODEL copy of what a ring record carries beside its bytes
  (R85), by scratchpad offset -/
  ringRecords : List (Nat × Record)
  /-- arrivals at this core's gang barrier in this context (R276) -/
  gang : List GangArrival
  /-- a task has ended here since the restore (R346) -/
  taskEnded : Bool
  /-- place of its launch among those that reached the core (R344): a MODEL number -/
  launchNo : Nat
  /-- while it is out, the image of the save area that holds it (R344) -/
  image : Nat
  deriving DecidableEq, Repr

/-- What performing a store-buffer entry does (R76). -/
inductive SbKind where
  | data (bytes : List Byte) (tolerant : Bool)
  | cap (c : Cap)
  | seq (value : Word)
  | binit (expected : BitVec 32)
  | arrive
  | amo (op : BitVec 4) (wide : Bool) (y expected : Word) (id : Nat)
  deriving DecidableEq, Repr

/-- A store-buffer entry (R76): its virtual address and its place; none for the host agent (R375, R378). -/
structure SbEntry where
  ctx : BitVec 12
  tid : Nat
  va : Word
  loc : Option Loc
  kind : SbKind
  /-- X of the record of a SEQADV whose task has ended (R85) -/
  x : Bool
  deriving DecidableEq, Repr

/-- Kind of a copy-engine command (R115). -/
inductive CopyKind where
  | copy
  | pull
  | pull2 (rows : Nat) (rowlen : Nat) (sstride : Nat) (dstride : Nat)
  | gather (lane : Nat) (offsets : List Word)
  | pref (tier1 : Bool)
  | flush
  | inval
  deriving DecidableEq, Repr

/-- A part of a command's source: its first byte in the command's extent, its address and bytes (R119). -/
structure CopyPart where
  read : Nat
  pos : Nat
  va : Word
  len : Nat
  deriving DecidableEq, Repr

/-- What has been read of a part: the bytes up to the first that failed, the tag of each 16-byte granule from the one
that holds its first byte, and the cause of a failure (R120). -/
structure CopyData where
  part : CopyPart
  bytes : List Byte
  tags : List Bool
  fault : Option (BitVec 8)
  deriving DecidableEq, Repr

/-- A copy-engine command from its push to its retirement (R115 to R123). -/
structure CopyCmd where
  id : Nat
  tid : Nat
  slot : BitVec 2
  ctx : BitVec 12
  kind : CopyKind
  src : Cap
  dst : Cap
  len : Nat
  obj : Option (BitVec 22)
  /-- its entry of the range scoreboard (R109) -/
  entry : Option (BitVec 3)
  started : Bool
  /-- parts still to be asked of other owners, parts asked, and what has been read -/
  todo : List CopyPart
  parts : List CopyPart
  got : List CopyData
  /-- destination bytes passed, or for a gather lanes -/
  done : Nat
  /-- the command has stopped at a fault, or a prefetch before its end -/
  stopped : Bool
  fault : Bool
  cause : BitVec 8
  lanemask : Word
  faultaddr : Word
  pairs : List (Owner × BitVec 48)
  deriving DecidableEq, Repr

/-- A tile command (R185, R187): its four words with the slots substituted, the capability under `cap`, and the task,
stream and MQ address that pushed it. -/
structure MxCmd where
  num : Nat
  tid : Nat
  ctx : BitVec 12
  stream : Stream
  pc : Word
  w0 : Word
  w1 : Word
  w2 : Word
  w3 : Word
  cap : Cap
  /-- MODEL: names of copy commands below it were pushed before (R110, R270) -/
  stamp : Nat
  /-- scratchpad ranges held: offset, bytes, whether the command writes it (R270) -/
  holds : List (Nat × Nat × Bool)
  deriving DecidableEq, Repr

/-- A CRW to a register that matrix commands sample, waiting until no command numbered up to `upTo` is unstarted
(R145). -/
structure LateCrw where
  num : BitVec 12
  value : Word
  upTo : Nat
  deriving DecidableEq, Repr

/-- What a command records (R164, R169, R172): flags, write-back saturations, conversion saturations, and row and column
of the first element that raised an enabled flag and of the first whose output is a NaN. -/
structure MxReport where
  flags : Nat
  sats : Nat
  cvts : Nat
  flagAt : Option (Nat × Nat)
  nanAt : Option (Nat × Nat)
  deriving DecidableEq, Repr

/-- A command that has started (R268), with the values sampled and the exponents read at its start. -/
structure MxRun where
  cmd : MxCmd
  tshape : Vector Word 8
  wctl : Vector Word 2
  scalea : BitVec 22
  scaleb : BitVec 22
  numtrap : BitVec 6
  gangcfg : Word
  expsA : List Byte
  expsB : List Byte
  report : MxReport
  /-- next window row of a drain to deposit, the accumulator rows held, and the row-handler messages that it has sent:
  row and msgid (R281, R284) -/
  row : Nat
  heldRows : List (BitVec 9)
  rowMsgs : List (BitVec 9 × BitVec 16)
  /-- waits for the head's answer to its amax flit (R283) -/
  awaiting : Bool
  /-- arrived at the gang barrier (R276) -/
  arrived : Bool
  deriving DecidableEq, Repr

/-- A contribution being sent: flits not acknowledged, by sequence number (R298). -/
structure Sending where
  contrib : Contrib
  flits : List Flit
  next : Nat
  deriving DecidableEq, Repr

/-- A watch registry entry (R89). -/
structure Watch where
  spkg : BitVec 9
  score : BitVec 10
  ctx : BitVec 12
  va : Word
  threshold : Word
  chan : BitVec 6
  deriving DecidableEq, Repr

/-- A store permit (R67). -/
structure Permit where
  ctx : BitVec 12
  page : BitVec 27
  tol : Bool
  deriving DecidableEq, Repr

/-- A line of another owner held in the cache portion or the victim ways (R83, R102, R105), with its tags. -/
structure CacheLine where
  ctx : BitVec 12
  owner : Owner
  line : BitVec 58
  data : BitVec 512
  tags : BitVec 4
  stamp : BitVec 48
  /-- its set and way (R102), and whether that is a victim way of an active pool (R105) -/
  set : Nat
  way : Nat
  victim : Bool
  /-- its bytes are lost to an error that the code of the SRAM does not correct (R395) -/
  bad : Bool := false
  deriving DecidableEq, Repr

/-- A fetched code line (R71, R73). -/
structure FetchLine where
  ctx : BitVec 12
  line : BitVec 58
  data : BitVec 512
  deriving DecidableEq, Repr

/-- Who asked for a read that is under way. -/
inductive ReadFor where
  | load
  | fetch
  | copy (id : Nat)
  | pref (id : Nat)
  deriving DecidableEq, Repr

/-- What becomes of the answer to a read in flight: it is used; or the read is then made again, its bytes having come under an
old translation; or it goes to no one. -/
inductive Fate where
  | live
  | again
  | dead
  deriving DecidableEq, Repr

/-- A read in flight (R78, R363). -/
structure Pending where
  id : Nat
  slot : BitVec 2
  tid : Nat
  ctx : BitVec 12
  owner : Owner
  va : Word
  len : Nat
  cached : Bool
  purpose : ReadFor
  /-- the capability that the request carries (R45) -/
  cap : Cap
  fate : Fate := .live
  deriving DecidableEq, Repr

/-- An entry of the overflow store (R32): its place in the ring of 64-byte entries, its context and what it holds. -/
structure OvfEntry where
  place : Nat
  ctx : BitVec 12
  item : Parked
  deriving DecidableEq, Repr

/-- A table operation in progress (R71, R73): its range, whether it is a MOVE, its entry's table frame and index, what
is still to do. -/
structure TableOp where
  inv : Invalidation
  place : Nat × Nat
  oldEntry : Word
  newEntry : Word
  copying : Bool
  /-- this core has discarded what R71 step 2 names, and then its store buffer has drained -/
  acted : Bool
  acked : Bool
  deriving DecidableEq, Repr

/-- A line that a slice holds (R65): its context, address, whether it is changed, and whether its bytes are lost to an
error that the slice's code does not correct (R395). Its bytes are those of the channel, sealed under its key slot. -/
structure SliceLine where
  ctx : BitVec 12
  line : BitVec 58
  changed : Bool
  bad : Bool
  /-- the key slot under which the line is sealed (R68, R384) -/
  key : Nat
  deriving DecidableEq, Repr

/-- A fault-wait list entry (R66). -/
structure FaultWait where
  ctx : BitVec 12
  page : Word
  owner : Owner
  slot : BitVec 2
  tid : Nat
  deriving DecidableEq, Repr

/-- A shared cache slice, as far as it serves this core's pages (R60, R65, R66): lines, leaf translations kept, requesters
that wait for a page, and fills under way, each with the requests merged into it. -/
structure Slice where
  lines : List SliceLine
  leaves : List (BitVec 12 × Bool × BitVec 27)
  waiting : List FaultWait
  fills : List (SliceReq × List SliceReq)
  deriving DecidableEq, Repr

/-- Training results of a pseudo-channel as the storage holds them (R390): their digest, and the lanes that did not
train. -/
structure Training where
  result : List Byte
  digest : BitVec 512
  failing : BitVec 32
  deriving DecidableEq, Repr

/-- Sweep states (R57 Table 8); `draining` is the drain at the start of an epoch. -/
inductive Sweep where
  | idle
  | draining
  | scan
  | wait
  | reported
  deriving DecidableEq, Repr

/-- Key-slot states (R384 Table 4). -/
inductive KeyState where
  | empty
  | provisioned
  | active
  | retiring
  | revoked
  deriving DecidableEq, Repr

structure KeySlot where
  state : KeyState
  ctx : BitVec 12
  material : BitVec 768
  deriving DecidableEq, Repr

/-- A secure stream of a context on this package (R372 SSBINDm, R386). -/
structure SecureStream where
  ctx : BitVec 12
  m : BitVec 4
  queue : BitVec 8
  bound : Bool
  error : Bool
  unitsIn : Word
  unitsOut : Word
  deriving DecidableEq, Repr

/-- The host window registers of a context (R372). -/
structure HostWin where
  ctx : BitVec 12
  n : BitVec 4
  regA : Word
  regB : Word
  deriving DecidableEq, Repr

/-- A grant or a grant request (R382). -/
structure GrantRec where
  grantee : BitVec 12
  grantor : BitVec 12
  pkg : BitVec 9
  core : BitVec 10
  lo : BitVec 6
  hi : BitVec 6
  deriving DecidableEq, Repr

/-- The phase of a launch at its lead agent (R342). -/
inductive LaunchPhase where
  | preparing
  | committing
  | launched
  | aborted
  deriving DecidableEq, Repr

structure Launch where
  plan : LaunchPlan
  phase : LaunchPhase
  answered : List (BitVec 9)
  deriving DecidableEq, Repr

/-- One vendor link (R367, R368). -/
structure Link where
  state : BitVec 2
  lanes : BitVec 4
  crcerr : BitVec 16
  replays : BitVec 16
  txSeq : BitVec 12
  rxSeq : BitVec 12
  replay : List LinkFlit
  nakSent : Bool
  /-- flits sent in the running routing window (R365) -/
  sent : Nat
  /-- CRC failures of each lane, and flits received, in the running window of 2^20 flits -/
  laneErr : Vector Nat 4
  window : Nat
  /-- lanes that have exceeded the threshold and await their repair (R368) -/
  due : BitVec 4
  deriving DecidableEq, Repr

/-- What leaves the core or the package (MODEL view of the wires): packets, requests, replies, reports. -/
inductive Packet where
  | message (m : Message) (seq : Nat)
  | agentMessage (m : Message)
  | read (p : Pending) (cap : Cap)
  | readAnswer (r : ReadReply) (dest : Owner)
  | watch (r : WatchReq)
  | unwatch (r : WatchReq)
  | chanop (p : ChanPacket) (pkg : BitVec 9) (core : BitVec 10) (seq : Nat)
  | spawnReq (r : SpawnReq) (pkg : BitVec 9) (core : BitVec 10)
  | spawnRelease (id : Nat) (pkg : BitVec 9) (core : BitVec 10)
  | spawnAnswer (id : Nat) (grant : Bool) (pkg : BitVec 9) (core : BitVec 10)
  | fenceh (r : FencehReq) (pkg : BitVec 9) (core : BitVec 10)
  | fencehAnswer (id : Nat) (r : Record) (pkg : BitVec 9) (core : BitVec 10)
  | stream (f : StreamFlit) (pkg : BitVec 9) (core : BitVec 10) (seq : Nat)
  | flit (f : Flit) (pkg : BitVec 9) (core : BitVec 10)
  | flitAnswer (c : ContribId) (seq : Nat) (kind : BitVec 2)
  | epbind (slot : BitVec 2) (cap : Cap)
  /-- space-2 traffic with the secure stream that carries it (R386); none: the stream went to ERROR after the access was
  admitted, which then completes wholly (R387) -/
  | hostRead (p : Pending) (m : Option (BitVec 4))
  | hostStore (ctx : BitVec 12) (va : Word) (bytes : List Byte) (m : Option (BitVec 4))
  | hostAtomic (id : Nat) (va : Word) (op : BitVec 4) (wide : Bool) (s2 : Word) (exp : Word) (m : Option (BitVec 4))
  | invalidate (i : Invalidation)
  | invAck (i : Invalidation)
  | gang (a : GangArrival)
  | sweepStart (ctx : BitVec 12)
  /-- an epoch starts on the other cores of the context (R57) -/
  | sweepOpen (ctx : BitVec 12)
  | sweepReport (state : BitVec 2)
  | sweepTold (ctx : BitVec 12) (dest : BitVec 9 × BitVec 10) (epoch : BitVec 32) (status : Nat)
  | snapTrigger
  | registerRead (value : Word)
  | launchMsg (kind : BitVec 8) (ctx : BitVec 12) (pkg : BitVec 9)
  /-- a grant made or withdrawn, told to another package's security core (R382, R383) -/
  | grantTold (made : Bool) (g : GrantRec) (pkg : BitVec 9)
  /-- a package that has rejoined, told to another package's launch agent (R394) -/
  | rejoined (pkg : BitVec 9) (dest : BitVec 9)
  | launchReport (bytes : List Byte)
  | hostReport (ctx : BitVec 12) (cause : BitVec 8) (detail : BitVec 32)
  | contextWanted (m : Message)
  | fenceStart (pkg : BitVec 9)
  | wake (owner : Owner) (ctx : BitVec 12) (tid : Nat)
  | sliceAnswer (id : Nat) (va : Word) (cause : BitVec 8) (sealed : Option (BitVec 512)) (tags : BitVec 4)
  | linkFlit (link : BitVec 7) (f : LinkFlit)
  | reroute (payload : BitVec 960) (random : Bool)
  | delivered (link : BitVec 7) (payload : BitVec 960)
  | streamUnit (ctx : BitVec 12) (m : BitVec 4) (body : BitVec 512) (tag : BitVec 64)
  | contextImage (ctx : BitVec 12)
  | poolInval (ctx : BitVec 12) (va : Word) (len : Nat)
  /-- a cleaning of pooled lines (R84): of one owner's lines older than a stamp, or of every owner in a scope -/
  | poolClean (owner : Option Owner) (older : BitVec 48) (scope : Nat)
  | poolDeposit (core : BitVec 10) (l : CacheLine)
  /-- this core's part in the pool (R105): VGROUP, context, whether SPLIT.cache is nonzero -/
  | poolState (vgroup : BitVec 7) (ctx : BitVec 12) (cached : Bool)
  | poolProbe (core : BitVec 10) (p : Pending)
  | poolAnswer (core : BitVec 10) (id : Nat) (l : Option CacheLine)
  deriving DecidableEq, Repr

/-- The package's agents: link agent (R365 to R370), host agent and pages (R372 to R378), security core (R381 to
R387), launch agent (R339 to R343), start-up and power (R389 to R397). -/
structure Package where
  routecfg : Word
  routestat : Word
  lnkcfg : Word
  lnkfence : Word
  links : Vector Link 72
  bootstat : Word
  pwrstat : Word
  /-- clock steps of each compute die below 3.6 GHz (R397) -/
  throttle : Vector Nat 8
  /-- a start is under way (R389), and it began with power coming on -/
  starting : Bool
  cold : Bool
  /-- training results in non-volatile storage, by pseudo-channel; stack lanes that spare lanes replace, as (stack,
  channel, lane, spare); stacks out of service; spare cores mapped in, as (core, spare of its die) (R390, R393, R17) -/
  training : Sparse Training
  laneMap : List (Nat × Nat × Nat × Nat)
  stacksOut : List (BitVec 4)
  spares : List (BitVec 10 × BitVec 2)
  /-- a verified update was installed since minimal mode was entered (R392) -/
  updated : Bool
  /-- the snapshot trigger has been raised and not yet reached this package's blocks (R396); and if this core's block was
  armed then, the PCs at the trigger -/
  snapArmed : Bool
  snapHeld : Option (Vector Word 8)
  fenced : List (BitVec 9)
  denyhead : BitVec 32
  denylog : Vector (BitVec 128) 64
  wins : List HostWin
  /-- windows as they were when their valid was cleared (R375): their ranges are refused until registered again -/
  retired : List HostWin
  streams : List SecureStream
  fatals : List (BitVec 12)
  contexts : List (BitVec 12)
  keys : Sparse KeySlot
  grants : List GrantRec
  grantAsks : List (BitVec 12 × GrantRec)
  agentMsg : List (BitVec 12 × BitVec 16)
  launches : List Launch
  /-- plans that this package has prepared and that are neither committed nor aborted (R342) -/
  prepared : List LaunchPlan
  /-- open epochs of contexts of this package that this core does not hold, with who asked for them (R327) -/
  sweeps : List (BitVec 12 × (BitVec 9 × BitVec 10))
  deriving DecidableEq, Repr

/-- The home channel and its slices: memory, the bits of each sector's 288-bit codeword that have flipped, the slices by
number (R25 to R28, R60, R65, R66). -/
structure Home where
  mem : Mem
  errors : Sparse (BitVec 288)
  slices : Sparse Slice
  /-- the context whose tables or data a frame holds, by frame (R388): MODEL bookkeeping of the agents, 0 for none, 4096 for one
  that is gone -/
  holder : Sparse Nat
  deriving DecidableEq, Repr

/-- The registers of the core that no context holds (R146 Table 9, "Core"). -/
structure CoreRegs where
  ovfcfg : Word
  ovfpeak : BitVec 32
  rvcfg : Word
  rvepoch : BitVec 32
  rvclr : BitVec 32
  tblcfg : Word
  ptwa : Word
  ptwstatus : BitVec 3
  ptwlost : Bool
  sdtime : BitVec 32
  ctxsave : Word
  ecccnt : Word
  scrubcfg : Word
  snapstat : Word
  snappc : Vector Word 8
  runqlost : BitVec 16
  cpretired : BitVec 32
  cpfault : Bool
  deriving DecidableEq, Repr

/-- An event to be taken: its row and, for a register row, the access. -/
structure Event where
  row : Instr
  access : Access
  deriving DecidableEq, Repr

/-- The machine. -/
structure State where
  /-- identity of the core under model, the packages of the pod and the cores out of service (R15, R16, R21, R393) -/
  pkg : BitVec 9
  core : BitVec 10
  members : List (BitVec 9)
  outOfService : List (BitVec 10)
  /-- cores of other packages that are out of service, as far as this package knows (R393) -/
  farOut : List (BitVec 9 × BitVec 10)
  slots : Vector Slot 4
  /-- MODEL: slot and stream of the instruction being issued -/
  cur : BitVec 2 × Stream
  /-- MODEL: why that instruction is held; `none` outside a step -/
  hold : Hold
  /-- the slot that each pipeline took last (R337) -/
  lastA : BitVec 2
  lastE : BitVec 2
  cx : CtxState
  others : List CtxState
  regs : CoreRegs
  sb : List SbEntry
  copies : List CopyCmd
  mxQueue : List MxCmd
  mxRun : Option MxRun
  /-- MODEL: commands pushed so far, the number of the next one -/
  mxPushed : Nat
  /-- CRWs that have not taken effect for the matrix engine, oldest first (R145) -/
  lateCrws : List LateCrw
  sendQueue : List Contrib
  sending : List Sending
  /-- next flit expected of each contribution at this head (R298) -/
  flitNext : List (ContribId × Nat)
  /-- contributions of which this head has refused a flit (R297) -/
  flitRefused : List ContribId
  watches : List Watch
  /-- the number of the next message-class packet from each source core, and to each destination core (R364) -/
  packetNext : List ((BitVec 9 × BitVec 10) × Nat)
  packetSent : List ((BitVec 9 × BitVec 10) × Nat)
  /-- every other member of the victim pool meets R105, as the members have told -/
  poolPeers : Bool
  /-- watches of this core at other owners that have had no reply (R370) -/
  placed : List Watch
  permits : List Permit
  lines : List CacheLine
  fetchLines : List FetchLine
  filter : List (Owner × Nat × Byte)
  pending : List Pending
  ovf : List OvfEntry
  sweep : Sweep
  /-- the core whose RVSWEEP started the open epoch, at the leading agent (R327) -/
  sweepBy : Option (BitVec 9 × BitVec 10)
  /-- the context whose epoch is open on this core (R57) -/
  sweepCtx : BitVec 12
  tableOp : Option TableOp
  home : Home
  pk : Package
  /-- a switch-out has been requested (R345) -/
  switchReq : Bool
  /-- MODEL: events still to be taken, oldest first, each with the register access it carries -/
  inputs : List Event
  /-- MODEL: the register access of the row being taken -/
  access : Access
  /-- MODEL: what has left, newest last -/
  outbox : List Packet
  /-- MODEL: next name for a task, command, request or stream -/
  nextId : Nat
  /-- MODEL: whether a unit acts next, before the streams -/
  turn : Bool
  /-- MODEL: picks the free values of Config; no statement rests on it -/
  fresh : Nat
  deriving DecidableEq, Repr

/-- Why the machine stops with a fault: no case, for the spec lets no step stop the machine (R9, R349). Every trap is a
next state. -/
inductive Fault where
  deriving DecidableEq, Repr

/-- Why the model gives no meaning. -/
inductive Refusal where
  /-- Raised by an arm of exec that has no meaning yet. Safe: nothing is claimed of it. -/
  | notModelled (mnemonic : String)
  deriving DecidableEq, Repr

/-- The null capability (R37). -/
def Cap.null : Cap := { bits := 0, tag := false }

def Mem.empty : Mem := { bytes := [], tags := [] }

/-- A chain entry at context creation (R287). -/
def Chain.idle : Chain :=
  { armed := false, mode := 0, base := 0, count := 0, achan := 0, akind := 0, boff := 0, anchor := none, status := 0,
    closing := none }

/-- A context at its creation (R141, R287, R306), and the resets of its registers (R35, R100, R105, R114, R142, R144,
R169, R171, R275, R329, R346). -/
def CtxState.fresh (n : BitVec 12) : CtxState :=
  { num := n, residency := .resident, sram := Mem.empty, sramErr := [], tshape := Vector.replicate 8 0,
    wctl := Vector.replicate 2 0, scalea := 0, scaleb := 0, numtrap := 0, tiles := Vector.replicate 8 0,
    accs := Vector.replicate 2 [], tileErr := [], accErr := [], chanbase := 0, slice := 0x00100000, numsum := 0, split := 8, vgroup := 0,
    spillbase := 0, spilllim := 0, spillovf := 0, pub := 0, gangcfg := 0x0010000000000000,
    chains := Vector.replicate 32 Chain.idle, endpoints := Vector.replicate 32 none, msgCounter := 0, regions := [],
    cores := [], rootRead := [], rootCode := Cap.null, suspCap := 0, susp := [], runq := [], runOvf := 0, results := [],
    held := [], inStreams := [], ringRecords := [], gang := [], taskEnded := false, launchNo := 0, image := 0 }

/-- A link after reset: TRAINING, no lanes (R368 Table 3). -/
def Link.reset : Link :=
  { state := 3, lanes := 0, crcerr := 0, replays := 0, txSeq := 0, rxSeq := 0, replay := [], nakSent := false, sent := 0,
    laneErr := Vector.replicate 4 0, window := 0, due := 0 }

/-- The package after reset (R365, R368, R372, R373, R384, R394). -/
def Package.reset : Package :=
  { routecfg := 0x0408, routestat := 0, lnkcfg := 0x0010, lnkfence := 0x00100000,
    links := Vector.replicate 72 Link.reset, bootstat := 1, pwrstat := 0, throttle := Vector.replicate 8 0, starting := true,
    cold := true, training := [], laneMap := [], stacksOut := [], spares := [],
    updated := false, snapArmed := false, snapHeld := none, fenced := [], denyhead := 0, denylog := Vector.replicate 64 0, wins := [], retired := [],
    streams := [], fatals := [], contexts := [], keys := [], grants := [], grantAsks := [],
    agentMsg := [], launches := [], prepared := [], sweeps := [] }

/-- The home channel after reset: nothing listed. -/
def Home.reset : Home :=
  { mem := Mem.empty, errors := [], slices := [], holder := [] }

/-- A slice that holds nothing. -/
def Slice.none : Slice := { lines := [], leaves := [], waiting := [], fills := [] }

/-- The core registers after reset (R34, R55, R69, R127, R331, R344, R395). -/
def CoreRegs.reset : CoreRegs :=
  { ovfcfg := 0, ovfpeak := 0, rvcfg := 0, rvepoch := 0, rvclr := 0, tblcfg := 0, ptwa := 0, ptwstatus := 0,
    ptwlost := false, sdtime := 0x00100000, ctxsave := 0, ecccnt := 0, scrubcfg := 0x0100, snapstat := 0,
    snappc := Vector.replicate 8 0, runqlost := 0, cpretired := 0, cpfault := false }

/-- No register access. -/
def Access.none : Access :=
  { addr := .control 0, value := 0, slot := 0, write := false, request := .none, packet := Option.none }

/-- The machine right after reset. No context is resident and every slot is free: nothing runs before a launch
(R342). The identity, the member list and the round-robin pointers are named in the assumption log. -/
def State.reset : State :=
  { pkg := 0, core := 0, members := [0], outOfService := [], farOut := [], slots := Vector.replicate 4 .free, cur := (0, .A),
    hold := .none, lastA := 3, lastE := 3, cx := CtxState.fresh 0, others := [], regs := CoreRegs.reset, sb := [],
    copies := [], mxQueue := [], mxRun := none, mxPushed := 0, lateCrws := [], sendQueue := [], sending := [],
    flitNext := [], flitRefused := [], packetNext := [], packetSent := [], watches := [], poolPeers := false, placed := [], permits := [], lines := [], fetchLines := [], filter := [], pending := [],
    ovf := [], sweep := .idle, sweepBy := none, sweepCtx := 0, tableOp := none, home := Home.reset, pk := Package.reset,
    switchReq := false, inputs := [], access := Access.none, outbox := [], nextId := 0, turn := false, fresh := 0 }

end Sys2Proof.Machine
end

