-- ==== Sys2Proof/Machine/Bits.lean ====
section
/-! DEFINITION. Helpers on bits, bytes and sparse data that the meanings share. -/
namespace Sys2Proof.Machine

/-- The value at a key of a sparse map; `d` where the key is not listed. -/
def sparseGet {α : Type} (d : α) : Sparse α → Nat → α
  | [], _ => d
  | (k, v) :: r, n => if n = k then v else sparseGet d r n

/-- Sets a key; an entry equal to `d` is not listed. -/
def sparsePut {α : Type} [DecidableEq α] (d : α) : Sparse α → Nat → α → Sparse α
  | [], n, v => if v = d then [] else [(n, v)]
  | (k, x) :: r, n, v =>
    if n < k then (if v = d then (k, x) :: r else (n, v) :: (k, x) :: r)
    else if n = k then (if v = d then r else (n, v) :: r)
    else (k, x) :: sparsePut d r n v

/-- The canonical form: keys strictly rising and above `lo`, no entry equal to `d`. -/
def sparseWfFrom {α : Type} [DecidableEq α] (d : α) : Option Nat → Sparse α → Bool
  | _, [] => true
  | lo, (k, v) :: r =>
    (match lo with | none => true | some l => decide (l < k)) && decide (v ≠ d) && sparseWfFrom d (some k) r

/-- The canonical form of a sparse map. -/
def sparseWf {α : Type} [DecidableEq α] (d : α) (m : Sparse α) : Bool := sparseWfFrom d none m

/-- Bytes as a number, the byte at the lowest address least significant (R3). -/
def leNat : List Byte → Nat
  | [] => 0
  | b :: r => b.toNat + 256 * leNat r

/-- The `n` low bytes of a number, least significant first (R3). -/
def leBytes : Nat → Nat → List Byte
  | 0, _ => []
  | n + 1, x => BitVec.ofNat 8 x :: leBytes n (x / 256)

/-- The first `n` bytes, padded with zeros. -/
def takePad : Nat → List Byte → List Byte
  | 0, _ => []
  | n + 1, [] => 0#8 :: takePad n []
  | n + 1, b :: r => b :: takePad n r

/-- Bytes of a list from `i`, `n` of them, padded with zeros. -/
def slicePad (bs : List Byte) (i n : Nat) : List Byte := takePad n (bs.drop i)

/-- Number at bytes `i` to `i + n - 1` of a byte list, little-endian. -/
def leAt (bs : List Byte) (i n : Nat) : Nat := leNat (slicePad bs i n)

/-- A register value from its field of `hi - lo + 1 = n` bits. -/
def field (w : Word) (lo n : Nat) : Nat := (w.toNat >>> lo) % 2 ^ n

/-- Replaces the `n` bits of a number from bit `lo`. -/
def putBits (x lo n v : Nat) : Nat :=
  x - (((x >>> lo) % 2 ^ n) <<< lo) + ((v % 2 ^ n) <<< lo)

/-- The same on a word. -/
def putField (w : Word) (lo n v : Nat) : Word := BitVec.ofNat 64 (putBits w.toNat lo n v)

/-- Two's complement reading of the low `n` bits. -/
def signedOf (n x : Nat) : Int :=
  let y := x % 2 ^ n
  if y < 2 ^ (n - 1) then (y : Int) else (y : Int) - (2 ^ n : Nat)

/-- The low `n` bits of an integer. -/
def wrapInt (n : Nat) (z : Int) : Nat := (z % ((2 ^ n : Nat) : Int)).toNat

/-- A 64-bit word from an integer, modulo 2^64. -/
def wordOfInt (z : Int) : Word := BitVec.ofNat 64 (wrapInt 64 z)

/-- `sext(x)` to 64 bits. -/
def sext64 {n : Nat} (x : BitVec n) : Word := x.signExtend 64

/-- Sets one element of a list, if it is there. -/
def listSet {α : Type} (l : List α) (i : Nat) (x : α) : List α := l.set i x

/-- Element `i` of a vector of 2^w elements by a bit-vector index. -/
def vget {α : Type} {n : Nat} (v : Vector α n) (i : Nat) (d : α) : α := v.toList.getD i d

/-- Sets an element of a vector; out of range nothing changes. -/
def vset {α : Type} {n : Nat} (v : Vector α n) (i : Nat) (x : α) : Vector α n := v.setIfInBounds i x

/-- Adds saturating at a limit. -/
def satAdd (limit x y : Nat) : Nat := if x + y ≤ limit then x + y else limit

/-- Sums of lists of numbers below. -/
def natSum (l : List Nat) : Nat := l.foldl (· + ·) 0

/-- The numbers lo, lo + 1, …, n of them. -/
def rangeFrom (lo n : Nat) : List Nat := (List.range n).map (lo + ·)

/-- Number of set bits among the low `n`. -/
def popCount : Nat → Nat → Nat
  | 0, _ => 0
  | n + 1, x => x % 2 + popCount n (x / 2)

/-- Position of the highest set bit plus one, looking at the low `n` bits; 0 for zero. -/
def bitLength : Nat → Nat → Nat
  | 0, _ => 0
  | n + 1, x => if x = 0 then 0 else 1 + bitLength n (x / 2)

/-- Position of the lowest set bit among the low `n`, `n` when none. -/
def trailingZeros : Nat → Nat → Nat
  | 0, _ => 0
  | n + 1, x => if x % 2 = 1 then 0 else 1 + trailingZeros n (x / 2)

/-- Whether [a, a + n) and [b, b + m) share an address. -/
def overlaps (a n b m : Nat) : Bool := decide (0 < n ∧ 0 < m ∧ a < b + m ∧ b < a + n)

end Sys2Proof.Machine
end

