-- ==== Sys2Proof/Machine/Crypto.lean ====
section
/-! DEFINITION. The ciphers that the spec names: AES-256 in XTS mode over one 64-byte unit (IEEE 1619; R68, R386), and on
Keccak SHA3-512 (R390) and KMAC256 (NIST SP 800-185; R386). Byte strings are lists; keys and units are numbers whose byte 0
is the low byte (R3). -/
namespace Sys2Proof.Machine

/-! ### AES-256 -/

/-- Multiplication by x in the field of 2^8 elements. -/
def gfDouble (b : Byte) : Byte := if b.getLsbD 7 then (b <<< 1) ^^^ 0x1B#8 else b <<< 1

/-- Multiplication in the field. -/
def gfMul (a b : Byte) : Byte :=
  ((List.range 8).foldl (fun (p : Byte × Byte) i => (if b.getLsbD i then p.1 ^^^ p.2 else p.1, gfDouble p.2)) (0, a)).1

/-- The inverse, a^254; 0 for 0. -/
def gfInv (a : Byte) : Byte :=
  ((List.range 7).foldl (fun (p : Byte × Byte) _ => (gfMul p.1 p.2, gfMul p.2 p.2)) (1, gfMul a a)).1

def subByte (a : Byte) : Byte :=
  let b := gfInv a
  b ^^^ b.rotateLeft 1 ^^^ b.rotateLeft 2 ^^^ b.rotateLeft 3 ^^^ b.rotateLeft 4 ^^^ 0x63#8

def invSubByte (a : Byte) : Byte := gfInv (a.rotateLeft 1 ^^^ a.rotateLeft 3 ^^^ a.rotateLeft 6 ^^^ 0x05#8)

def xorBytes (a b : List Byte) : List Byte := List.zipWith (fun x y => x ^^^ y) a b

/-- Byte `i` of a block. -/
def byteAt (bs : List Byte) (i : Nat) : Byte := bs.getD i 0

/-- Row r of the block, the bytes 4c + r, moves r places to the left. -/
def shiftRows (b : List Byte) : List Byte := (List.range 16).map (fun i => byteAt b ((i + i % 4 * 4) % 16))

def invShiftRows (b : List Byte) : List Byte := (List.range 16).map (fun i => byteAt b ((i + 16 - i % 4 * 4) % 16))

/-- Each column times the circulant matrix whose first row is `m`. -/
def mixColumns (m : List Byte) (b : List Byte) : List Byte :=
  (List.range 16).map (fun i =>
    (List.range 4).foldl (fun acc j => acc ^^^ gfMul (byteAt m ((j + 4 - i % 4) % 4)) (byteAt b (i / 4 * 4 + j))) 0)

/-- The 60 words of the key schedule, 4 bytes each, newest first. -/
def aesSchedule (key : List Byte) : Nat → List (List Byte)
  | 0 => []
  | i + 1 =>
    let ws := aesSchedule key i
    if i < 8 then (key.drop (4 * i)).take 4 :: ws
    else
      let t := ws.headD []
      let u := if i % 8 = 0 then
          xorBytes ((t.drop 1 ++ t.take 1).map subByte)
            [(List.range (i / 8 - 1)).foldl (fun x _ => gfDouble x) 1, 0, 0, 0]
        else if i % 8 = 4 then t.map subByte
        else t
      xorBytes (ws.getD 7 []) u :: ws

/-- Round key `r` of the schedule in rising order. -/
def roundKey (ws : List (List Byte)) (r : Nat) : List Byte := ((ws.drop (4 * r)).take 4).flatten

/-- AES-256 of one block. -/
def aesEncrypt (key block : List Byte) : List Byte :=
  let ws := (aesSchedule key 60).reverse
  let b := (List.range 13).foldl
    (fun b r => xorBytes (mixColumns [2, 3, 1, 1] (shiftRows (b.map subByte))) (roundKey ws (r + 1)))
    (xorBytes block (roundKey ws 0))
  xorBytes (shiftRows (b.map subByte)) (roundKey ws 14)

/-- Its inverse. -/
def aesDecrypt (key block : List Byte) : List Byte :=
  let ws := (aesSchedule key 60).reverse
  let b := (List.range 13).foldl
    (fun b r => mixColumns [14, 11, 13, 9] (xorBytes ((invShiftRows b).map invSubByte) (roundKey ws (13 - r))))
    (xorBytes block (roundKey ws 14))
  xorBytes ((invShiftRows b).map invSubByte) (roundKey ws 0)

/-! ### XTS (IEEE 1619) over four blocks -/

/-- The tweak of the next block. -/
def xtsNext (t : BitVec 128) : BitVec 128 := if t.getLsbD 127 then (t <<< 1) ^^^ 0x87#128 else t <<< 1

/-- Block `i` of a unit goes through `f` between two additions of its tweak. -/
def xtsBlocks (f : List Byte → List Byte) (unit : BitVec 512) : Nat → BitVec 128 → List Byte
  | 0, _ => []
  | n + 1, t =>
    let tb := leBytes 16 t.toNat
    let b := leBytes 16 (unit.extractLsb' (128 * (3 - n)) 128).toNat
    xorBytes (f (xorBytes b tb)) tb ++ xtsBlocks f unit n (xtsNext t)

/-- The tweak, enciphered under the tweak key, bits [511:256] of the pair (R384). -/
def xtsTweak (pair : BitVec 512) (tweak : BitVec 128) : BitVec 128 :=
  BitVec.ofNat 128 (leNat (aesEncrypt (leBytes 32 (pair.extractLsb' 256 256).toNat) (leBytes 16 tweak.toNat)))

def dataKey (pair : BitVec 512) : List Byte := leBytes 32 (pair.extractLsb' 0 256).toNat

/-- Sealing of one 64-byte unit: key pair, tweak, plain. -/
def xtsSeal (pair : BitVec 512) (tweak : BitVec 128) (unit : BitVec 512) : BitVec 512 :=
  BitVec.ofNat 512 (leNat (xtsBlocks (aesEncrypt (dataKey pair)) unit 4 (xtsTweak pair tweak)))

/-- Unsealing. -/
def xtsOpen (pair : BitVec 512) (tweak : BitVec 128) (unit : BitVec 512) : BitVec 512 :=
  BitVec.ofNat 512 (leNat (xtsBlocks (aesDecrypt (dataKey pair)) unit 4 (xtsTweak pair tweak)))

/-! ### Keccak -/

/-- 25 lanes; lane (x, y) is number x + 5y. -/
abbrev Lanes := List Word

def laneAt (a : Lanes) (x y : Nat) : Word := a.getD (x % 5 + 5 * (y % 5)) 0

/-- One bit of the round constants: an 8-bit shift register after `n` steps. -/
def keccakBit (n : Nat) : Bool :=
  ((List.range n).foldl (fun (r : BitVec 8) _ => if r.getLsbD 7 then (r <<< 1) ^^^ 0x71#8 else r <<< 1) 1).getLsbD 0

def keccakRc (round : Nat) : Word :=
  (List.range 7).foldl (fun w j => if keccakBit (7 * round + j) then w ||| BitVec.twoPow 64 (2 ^ j - 1) else w) 0

def keccakTheta (a : Lanes) : Lanes :=
  let c := fun (x : Nat) => (List.range 5).foldl (fun w y => w ^^^ laneAt a x y) (0 : Word)
  (List.range 25).map (fun i => laneAt a (i % 5) (i / 5) ^^^ c (i % 5 + 4) ^^^ (c (i % 5 + 1)).rotateLeft 1)

/-- Rotation and place of the lanes (rho and pi), following lane (1, 0) through 24 steps. -/
def keccakRhoPi (a : Lanes) : Lanes :=
  ((List.range 24).foldl (fun (p : (Nat × Nat) × Lanes) t =>
    let x := p.1.1
    let y := p.1.2
    let nx := y
    let ny := (2 * x + 3 * y) % 5
    ((nx, ny), p.2.set (nx + 5 * ny) ((laneAt a x y).rotateLeft ((t + 1) * (t + 2) / 2 % 64)))) ((1, 0), a)).2

def keccakChi (a : Lanes) : Lanes :=
  (List.range 25).map (fun i =>
    laneAt a (i % 5) (i / 5) ^^^ (~~~(laneAt a (i % 5 + 1) (i / 5)) &&& laneAt a (i % 5 + 2) (i / 5)))

def keccakRound (a : Lanes) (r : Nat) : Lanes :=
  let b := keccakChi (keccakRhoPi (keccakTheta a))
  b.set 0 (laneAt b 0 0 ^^^ keccakRc r)

/-- The permutation of 1,600 bits. -/
def keccakF (a : Lanes) : Lanes := (List.range 24).foldl keccakRound a

/-- Padding to a multiple of the rate: the domain bits, zeros, a last 1. -/
def keccakPad (rate : Nat) (domain : Byte) (m : List Byte) : List Byte :=
  let q := rate - m.length % rate
  if q = 1 then m ++ [domain ||| 0x80#8] else m ++ domain :: List.replicate (q - 2) 0#8 ++ [0x80#8]

/-- Absorbs `n` blocks. -/
def keccakAbsorb (rate : Nat) : Nat → Lanes → List Byte → Lanes
  | 0, a, _ => a
  | n + 1, a, m =>
    let b := (List.range 25).map (fun i =>
      laneAt a (i % 5) (i / 5) ^^^ (if 8 * i < rate then BitVec.ofNat 64 (leAt m (8 * i) 8) else 0))
    keccakAbsorb rate n (keccakF b) (m.drop rate)

/-- The sponge, for an output that fits in one block. -/
def keccak (rate : Nat) (domain : Byte) (m : List Byte) (out : Nat) : List Byte :=
  let p := keccakPad rate domain m
  ((keccakAbsorb rate (p.length / rate) (List.replicate 25 0) p).flatMap (fun w => leBytes 8 w.toNat)).take out

/-- SHA3-512. -/
def sha3_512 (m : List Byte) : BitVec 512 := BitVec.ofNat 512 (leNat (keccak 72 0x06#8 m 64))

/-! ### KMAC256 (NIST SP 800-185) -/

/-- Bytes of a number, most significant first; one for 0. -/
def beBytes (n : Nat) : List Byte := (leBytes (max 1 ((Nat.log2 n) / 8 + 1)) n).reverse

def leftEncode (n : Nat) : List Byte := BitVec.ofNat 8 (beBytes n).length :: beBytes n
def rightEncode (n : Nat) : List Byte := beBytes n ++ [BitVec.ofNat 8 (beBytes n).length]
def encodeString (m : List Byte) : List Byte := leftEncode (8 * m.length) ++ m

/-- Pads with zeros to a multiple of `w` bytes, `w` in front. -/
def bytepad (w : Nat) (m : List Byte) : List Byte :=
  let x := leftEncode w ++ m
  x ++ List.replicate ((w - x.length % w) % w) 0#8

/-- KMAC256 of a message with a customisation string, `out` bytes. -/
def kmac256 (key m custom : List Byte) (out : Nat) : List Byte :=
  keccak 136 0x04#8
    (bytepad 136 (encodeString [0x4B, 0x4D, 0x41, 0x43] ++ encodeString custom) ++
      (bytepad 136 (encodeString key) ++ m ++ rightEncode (8 * out))) out

/-- "ALITH-SS" (R386). -/
def streamCustom : List Byte := [0x41, 0x4C, 0x49, 0x54, 0x48, 0x2D, 0x53, 0x53]

/-- The tag of a secure-stream unit: 16 tweak bytes, then the 64 sealed bytes (R386). -/
def kmac64 (key : BitVec 256) (tweak : BitVec 128) (sealedUnit : BitVec 512) : BitVec 64 :=
  BitVec.ofNat 64 (leNat (kmac256 (leBytes 32 key.toNat) (leBytes 16 tweak.toNat ++ leBytes 64 sealedUnit.toNat)
    streamCustom 8))

end Sys2Proof.Machine
end

