-- ==== Sys2Proof/Config.lean ====
section
/-! DEFINITION. What an implementation fixes and the values that the spec leaves open: constants with no body. The
counter `fresh` of State picks a new value at each use. -/
namespace Sys2Proof

/-- A revocation-map bit of another owner's memory as the filter sees it (R56): that memory is not in State. -/
opaque Config.foreignMark : Nat → Owner → Nat → Bool

/-- The current PUB of another owner (R86, R92). -/
opaque Config.foreignPub : Nat → Owner → BitVec 48

/-- A choice that the text lists as "any of these; which one is not fixed" (R11). -/
opaque Config.choice : Nat → Bool

/-- Whether the page at an own address whose fetch line is held may still be served from that line (R73): a fetch
line may be evicted at any time. -/
opaque Config.fetchKept : Nat → Bool

/-- The 16 bytes that an entry of the run-queue overflow ring takes (R329, R336), the 16 KiB of a task context in the
suspend store (R338), and the 64 bytes of a parked message or channel-bit operation (R32): the layouts are not given. -/
opaque Config.runBytes : Nat → Machine.RunEntry → BitVec 128
opaque Config.taskBytes : Nat → Machine.Task → BitVec 131072
opaque Config.parkedBytes : Nat → Machine.Parked → BitVec 512

/-- What the check bits of a codeword are (R27): the code is not given. -/
opaque Config.checkBits : BitVec 256 → BitVec 2 → BitVec 30

/-- What the code of R27 makes of errors in three symbols or more: found, or taken for the codeword that differs by
these bits. -/
opaque Config.beyondCode : BitVec 288 → Option (BitVec 288)

/-- The set of a line among `n`, and the way that it takes among `n` (R102): not fixed. -/
opaque Config.cacheSet : Nat → BitVec 58 → Nat → Nat
opaque Config.evictWay : Nat → Nat → Nat

/-- The member of a victim pool that a line address selects, by its place in the block (R106): not fixed. -/
opaque Config.poolHash : BitVec 58 → Nat → Nat

/-- Spare lanes of an HBM4 stack (R390). -/
opaque Config.spareLanes : Nat

/-- Save plus restore time of a context, in units of 64 cycles (R345, R346): timing is not modelled. -/
opaque Config.saveTime : Nat → BitVec 24

/-- What the CRC of a link flit starts from and how its remainder is taken: the polynomial alone is given (R367). -/
opaque Config.crcStart : BitVec 32
opaque Config.crcFinal : BitVec 32 → BitVec 32

/-- The supervisor channel of a context on another core of the package: its table is not in State. -/
opaque Config.otherSup : BitVec 10 → BitVec 12 → BitVec 6

/-- The number of the last epoch ended of a context that this core does not hold (R327): its cores' RVSTAT is not in State. -/
opaque Config.otherEpoch : Nat → BitVec 12 → BitVec 32

/-- The results of training a pseudo-channel (R390): not given. -/
opaque Config.trainResult : Nat → BitVec 10 → List Byte

/-- The fabric cycle of a snapshot trigger (R396): cycles are not counted. -/
opaque Config.fabricCycle : Nat → BitVec 32

/-- What SNAPPCk holds for a slot without a task (R396). -/
opaque Config.idlePc : Nat → BitVec 64

end Sys2Proof
end

