-- ==== Sys2Proof/Machine/Mem.lean ====
section
/-! DEFINITION. Bytes and tags of one memory (R3, R27, R49), and the two memories of the core. -/
namespace Sys2Proof.Machine

/-- What an unlisted address reads as: 0 (log entry 3, DESIGN CHOICE). -/
def unlistedByte : Byte := 0#8

def memByte (m : Mem) (a : Nat) : Byte := sparseGet unlistedByte m.bytes a

/-- `n` bytes from `a`. -/
def memBytes (m : Mem) : Nat → Nat → List Byte
  | _, 0 => []
  | a, n + 1 => memByte m a :: memBytes m (a + 1) n

/-- The tag of the granule that holds `a` (R49). -/
def memTag (m : Mem) (a : Nat) : Bool := sparseGet false m.tags (a / 16)

def setByte (m : Mem) (a : Nat) (b : Byte) : Mem := { m with bytes := sparsePut unlistedByte m.bytes a b }

def setTag (m : Mem) (a : Nat) (t : Bool) : Mem := { m with tags := sparsePut false m.tags (a / 16) t }

/-- Bytes alone, tags as they stand. -/
def putBytes (m : Mem) : Nat → List Byte → Mem
  | _, [] => m
  | a, b :: r => putBytes (setByte m a b) (a + 1) r

/-- Clears the tag of every granule that [a, a + n) touches. -/
def clearTags (m : Mem) (a : Nat) : Nat → Mem
  | 0 => m
  | n + 1 => setTag (clearTags m a n) (a + n) false

/-- A data write of any size clears the tag of every granule it touches (R49). -/
def memWrite (m : Mem) (a : Nat) (bs : List Byte) : Mem := clearTags (putBytes m a bs) a bs.length

/-- A whole-granule capability write (R49). -/
def memWriteCap (m : Mem) (a : Nat) (c : Cap) : Mem :=
  setTag (putBytes m a (leBytes 16 c.bits.toNat)) a c.tag

/-- A granule as a capability. -/
def memCap (m : Mem) (a : Nat) : Cap :=
  { bits := BitVec.ofNat 128 (leNat (memBytes m a 16)), tag := memTag m a }

/-- A 64-bit double. -/
def memDouble (m : Mem) (a : Nat) : Word := BitVec.ofNat 64 (leNat (memBytes m a 8))

/-- The canonical form of both lists. -/
def memWf (m : Mem) : Bool := sparseWf unlistedByte m.bytes && sparseWf false m.tags

/-- Bytes of a frame of the home channel (R25). -/
def frameBytes : Nat := 65536
/-- Frames of the home channel (R25). -/
def frameCount : Nat := 11444
/-- Bytes of local SRAM (R99). -/
def sramBytes : Nat := 4194304

/-- The memory that a location lies in. -/
def locMem (s : State) : Loc → Mem
  | .sram _ => s.cx.sram
  | .hbm _ => s.home.mem

def locAddr : Loc → Nat
  | .sram a => a
  | .hbm a => a

def readLoc (s : State) (l : Loc) (n : Nat) : List Byte := memBytes (locMem s l) (locAddr l) n

def capAtLoc (s : State) (l : Loc) : Cap := memCap (locMem s l) (locAddr l)

/-- Replaces the memory that a location lies in. -/
def setLocMem (s : State) (l : Loc) (m : Mem) : State :=
  match l with
  | .sram _ => { s with cx := { s.cx with sram := m } }
  | .hbm _ => { s with home := { s.home with mem := m } }

/-- Errors of units of `u` bytes that a write of [a, a + n) covers whole are gone (R28). -/
def rewritten {α : Type} (m : Sparse α) (u a n : Nat) : Sparse α :=
  m.filter (fun p => !decide (a ≤ p.1 * u ∧ p.1 * u + u ≤ a + n))

/-- A write of `n` bytes leaves good check bits where it covers a sector, or a word of SRAM. -/
def rewriteCheck (s : State) (l : Loc) (n : Nat) : State :=
  match l with
  | .sram a => { s with cx := { s.cx with sramErr := rewritten s.cx.sramErr 8 a n } }
  | .hbm a => { s with home := { s.home with errors := rewritten s.home.errors 32 a n } }

/-- Performs a data write at the memory point (R75, R49). -/
def writeLoc (s : State) (l : Loc) (bs : List Byte) : State :=
  rewriteCheck (setLocMem s l (memWrite (locMem s l) (locAddr l) bs)) l bs.length

def writeCapLoc (s : State) (l : Loc) (c : Cap) : State :=
  rewriteCheck (setLocMem s l (memWriteCap (locMem s l) (locAddr l) c)) l 16

/-- Writes to the resident scratchpad. -/
def sramWrite (s : State) (off : Nat) (bs : List Byte) : State := writeLoc s (.sram off) bs

/-! ### Tolerant pages (R29, R30) -/

/-- A 32-bit word as it leaves the store buffer for a tolerant page. -/
def roundTolerant (w : Nat) : Nat :=
  let hi := w / 65536
  let low := w % 65536
  let exp := w / 2 ^ 23 % 256
  let man := w % 2 ^ 23
  if exp = 255 ∧ man ≠ 0 then (hi ||| 0x40) * 65536
  else if exp = 255 then hi * 65536
  else if 32768 ≤ low ∧ (low ≠ 32768 ∨ hi % 2 = 1) then (hi + 1) % 65536 * 65536
  else hi * 65536

/-- Rounds `n` words of a byte list. -/
def roundWords : Nat → List Byte → List Byte
  | 0, _ => []
  | n + 1, bs => leBytes 4 (roundTolerant (leAt bs 0 4)) ++ roundWords n (bs.drop 4)

/-- `n` bytes from `a` of a tolerant page: every copy of a word outside the store buffer holds it rounded (R30), also where
no store has gone to it since its page became tolerant. -/
def roundedBytes (m : Mem) (a n : Nat) : List Byte :=
  let lo := a / 4 * 4
  let hi := (a + n + 3) / 4 * 4
  ((roundWords ((hi - lo) / 4) (memBytes m lo (hi - lo))).drop (a - lo)).take n

/-- `n` bytes from `a` of a page, tolerant or not. Words that were there before the page became tolerant read rounded, and whole
again once it no longer is (R30; log entry 182, DEDUCED). -/
def pageBytes (m : Mem) (tol : Bool) (a n : Nat) : List Byte := if tol then roundedBytes m a n else memBytes m a n

/-- `n` bytes at a location, rounded on a tolerant page. -/
def readPage (s : State) (l : Loc) (tol : Bool) (n : Nat) : List Byte := pageBytes (locMem s l) tol (locAddr l) n

/-- The tags of the granules that [a, a + n) touches; a tolerant page holds none (R31). -/
def pageTags (m : Mem) (tol : Bool) (a n : Nat) : List Bool :=
  (rangeFrom (a / 16) ((a + n + 15) / 16 - a / 16)).map (fun g => !tol && sparseGet false m.tags g)

/-! ### Errors (R27, R28, R395) -/

/-- ECCCNT counts a correction, or a finding that cannot be corrected (R395). -/
def countCorr (s : State) : State :=
  { s with regs := { s.regs with ecccnt := putField s.regs.ecccnt 0 32 (satAdd 0xFFFFFFFF (field s.regs.ecccnt 0 32) 1) } }

def countUncorr (s : State) : State :=
  { s with regs := { s.regs with ecccnt := putField s.regs.ecccnt 32 16 (satAdd 0xFFFF (field s.regs.ecccnt 32 16) 1) } }

/-- The codeword {check, tags, data} of a sector (R27). -/
def codeword (d : BitVec 256) (t : BitVec 2) : BitVec 288 := Config.checkBits d t ++ (t ++ d)

/-- Data and tags of sector `k` as last written. -/
def sectorData (m : Mem) (k : Nat) : BitVec 256 := BitVec.ofNat 256 (leNat (memBytes m (32 * k) 32))

def sectorTags (m : Mem) (k : Nat) : BitVec 2 :=
  BitVec.ofNat 2 ((memTag m (32 * k)).toNat + (memTag m (32 * k + 16)).toNat * 2)

/-- The bits that the channel holds of a sector: its codeword but for the bits that have flipped. -/
def storedWord (s : State) (k : Nat) : BitVec 288 :=
  codeword (sectorData s.home.mem k) (sectorTags s.home.mem k) ^^^ sparseGet 0 s.home.errors k

/-- Symbols of 4 bits in error. -/
def symbolsOf (e : BitVec 288) : Nat := (List.range 72).countP (fun k => decide (e.extractLsb' (4 * k) 4 ≠ 0))

/-- The code corrects an error in one symbol. -/
def healthOf (e : BitVec 288) : SectorHealth :=
  if e = 0 then .good else if symbolsOf e = 1 then .correctable else .uncorrectable

def sectorHealth (s : State) (k : Nat) : SectorHealth := healthOf (sparseGet 0 s.home.errors k)

def setErrors (s : State) (k : Nat) (e : BitVec 288) : State :=
  { s with home := { s.home with errors := sparsePut 0 s.home.errors k e } }

/-- Sector `k` as another codeword: data and tags that differ from it by `r`. -/
def otherWord (m : Mem) (k : Nat) (r : BitVec 288) : Mem :=
  let d := putBytes m (32 * k) (leBytes 32 (sectorData m k ^^^ r.extractLsb' 0 256).toNat)
  let t := sectorTags m k ^^^ r.extractLsb' 256 2
  setTag (setTag d (32 * k) (t.getLsbD 0)) (32 * k + 16) (t.getLsbD 1)

/-- Bits of sector `k` flip. Errors in two symbols are found; errors in more may pass for another codeword. -/
def flipBits (s : State) (k : Nat) (flips : BitVec 288) : State :=
  let e := sparseGet 0 s.home.errors k ^^^ flips
  match (if symbolsOf e < 3 then none else Config.beyondCode e) with
  | none => setErrors s k e
  | some r => setErrors { s with home := { s.home with mem := otherWord s.home.mem k r } } k (e ^^^ r)

/-- Sectors that [byte, byte + n) touches. -/
def sectorsOf (byte n : Nat) : List Nat := rangeFrom (byte / 32) ((byte + n + 31) / 32 - byte / 32)

/-- A sector of the home channel that cannot be corrected (R28). -/
def badSector (s : State) (byte n : Nat) : Bool :=
  (sectorsOf byte n).any (fun k => decide (sectorHealth s k = .uncorrectable))

/-- The sectors of a range that can be corrected are, and each correction is counted. -/
def correctSectors (s : State) (byte n : Nat) : State :=
  if s.home.errors.isEmpty then s
  else (sectorsOf byte n).foldl (fun s k =>
    if sectorHealth s k = .correctable then countCorr (setErrors s k 0) else s) s

/-- Words of SRAM that [off, off + n) touches. -/
def wordsOf (off n : Nat) : List Nat := rangeFrom (off / 8) ((off + n + 7) / 8 - off / 8)

def wordHealth (cx : CtxState) (w : Nat) : SectorHealth := sparseGet .good cx.sramErr w

/-- A word of a scratchpad that cannot be corrected (R395). -/
def badWord (cx : CtxState) (off n : Nat) : Bool := (wordsOf off n).any (fun w => decide (wordHealth cx w = .uncorrectable))

/-- A data write to the scratchpad of a context; words that it covers whole are right again (R395). -/
def scratchWrite (cx : CtxState) (off : Nat) (bs : List Byte) : CtxState :=
  { cx with sram := memWrite cx.sram off bs, sramErr := rewritten cx.sramErr 8 off bs.length }

/-- A capability write to it. -/
def scratchWriteCap (cx : CtxState) (off : Nat) (c : Cap) : CtxState :=
  { cx with sram := memWriteCap cx.sram off c, sramErr := rewritten cx.sramErr 8 off 16 }

def setWordHealth (cx : CtxState) (w : Nat) (h : SectorHealth) : CtxState :=
  { cx with sramErr := sparsePut .good cx.sramErr w h }

/-- The words of a range of the resident scratchpad that can be corrected are, and each correction is counted. -/
def correctWords (s : State) (off n : Nat) : State :=
  if s.cx.sramErr.isEmpty then s
  else (wordsOf off n).foldl (fun s w =>
    if wordHealth s.cx w = .correctable then countCorr { s with cx := setWordHealth s.cx w .good } else s) s

/-- Clears a range of a memory, with its tags. -/
def clearRange (m : Mem) (lo hi : Nat) : Mem :=
  { bytes := m.bytes.filter (fun p => decide (p.1 < lo ∨ hi ≤ p.1))
    tags := m.tags.filter (fun p => decide (p.1 * 16 < lo ∨ hi ≤ p.1 * 16)) }

end Sys2Proof.Machine
end

