-- ==== Sys2Proof/Machine/CapOps.lean ====
section
/-! DEFINITION. Addresses and capabilities: fields, bounds, permissions, derivation (R20, R37 to R43, R47, R48). -/
namespace Sys2Proof.Machine

def vaSpace (va : Word) : Nat := field va 62 2
def vaPkg (va : Word) : BitVec 9 := va.extractLsb' 53 9
def vaCore (va : Word) : BitVec 10 := va.extractLsb' 43 10
def vaOff (va : Word) : Nat := field va 0 43

/-- A virtual address from its fields (R20). -/
def mkVa (space : Nat) (pkg : BitVec 9) (core : BitVec 10) (off : Nat) : Word :=
  BitVec.ofNat 64 (space * 2 ^ 62 + pkg.toNat * 2 ^ 53 + core.toNat * 2 ^ 43 + off % 2 ^ 43)

def capAddr (c : Cap) : Word := c.bits.extractLsb' 0 64
def capPerms (c : Cap) : BitVec 16 := c.bits.extractLsb' 64 16
def capType (c : Cap) : BitVec 4 := c.bits.extractLsb' 80 4
def capG (c : Cap) : Nat := (c.bits.extractLsb' 84 6).toNat
def capB (c : Cap) : Nat := (c.bits.extractLsb' 90 14).toNat
def capL (c : Cap) : Nat := (c.bits.extractLsb' 104 15).toNat
def capX (c : Cap) : Nat := (c.bits.extractLsb' 119 1).toNat
def capReserved (c : Cap) : BitVec 8 := c.bits.extractLsb' 120 8

/-- Permission bits (R38 Table 2). -/
def permLD : Nat := 0
def permST : Nat := 1
def permTAGRD : Nat := 2
def permTAGWR : Nat := 3
def permEXE : Nat := 4
def permDEEP : Nat := 5
def permPULL : Nat := 6
def permWATCH : Nat := 7
def permSEQ : Nat := 8
def permWRAP : Nat := 9
def permUNWRAP : Nat := 10
def permROAM : Nat := 11
def permADMIN : Nat := 12

def hasPerm (c : Cap) (p : Nat) : Bool := (capPerms c).getLsbD p

/-- Sealed: the type is nonzero (R39). -/
def capSealed (c : Cap) : Bool := decide (capType c ≠ 0)

/-- Size of the container, 2^(G+14) (R40). -/
def contSize (c : Cap) : Nat := 2 ^ (capG c + 14)

/-- Malformed encodings (R41). -/
def capMalformed (c : Cap) : Bool :=
  decide (capReserved c ≠ 0) || decide (51 ≤ capG c) || decide (2 ^ 14 < capB c + capL c) ||
  (decide (capX c = 1) && (decide ((capAddr c).toNat % contSize c ≠ 0) || decide (capAddr c = 0) ||
    decide (capG c = 50)))

/-- Start of the container (R40); 0 for a malformed capability, whose container is empty (R41). -/
def contStart (c : Cap) : Nat :=
  if capMalformed c then 0
  else (capAddr c).toNat / contSize c * contSize c - capX c * contSize c

def contEnd (c : Cap) : Nat := if capMalformed c then 0 else contStart c + contSize c

def capBase (c : Cap) : Nat := if capMalformed c then 0 else contStart c + capB c * 2 ^ capG c

def capTop (c : Cap) : Nat := if capMalformed c then 0 else capBase c + capL c * 2 ^ capG c

/-- base ≤ a and a + n ≤ top (R44). -/
def inBounds (c : Cap) (a n : Nat) : Bool := decide (capBase c ≤ a ∧ a + n ≤ capTop c)

/-- Replaces `n` bits of a capability at bit `lo`. -/
def capPut (c : Cap) (lo n v : Nat) : Cap :=
  { c with bits := BitVec.ofNat 128 (putBits c.bits.toNat lo n v) }

/-- A change of address: R43. Untagged values only take the new address with X = 0 when it leaves the container. -/
def capSetAddr (c : Cap) (a : Word) : Cap :=
  let k := a.toNat
  let inside := !capMalformed c && decide (contStart c ≤ k ∧ k < contEnd c)
  let atEnd := !capMalformed c && decide (k = contEnd c)
  let d := capPut (capPut c 0 64 k) 119 1 (if atEnd then 1 else 0)
  { d with tag := c.tag && (inside || atEnd) }

/-- Rounded bounds at granule exponent `g`, and whether they lie in one container (R42 step 1). -/
def fitsAt (b t g : Nat) : Bool :=
  let u := 2 ^ g
  let b' := b / u * u
  let t' := (t + u - 1) / u * u
  decide (t' ≤ b' / (u * 2 ^ 14) * (u * 2 ^ 14) + u * 2 ^ 14)

/-- The smallest G from `g` on, with `fuel` values tried, 50 at the last (R42). -/
def findG (b t : Nat) : Nat → Nat → Nat
  | 0, g => g
  | fuel + 1, g => if fitsAt b t g then g else findG b t fuel (g + 1)

/-- G, base′ and top′ of a request (R42). -/
def encodeBounds (b t : Nat) : Nat × Nat × Nat :=
  let g := findG b t 50 0
  let u := 2 ^ g
  (g, b / u * u, (t + u - 1) / u * u)

/-- The capability with the bounds of R42, address `addr`, and the permissions and type given. -/
def capMake (addr : Word) (b t : Nat) (perms : BitVec 16) (type : BitVec 4) (tag : Bool) : Cap :=
  let r := encodeBounds b t
  let u := 2 ^ r.1
  let cs := r.2.1 / (u * 2 ^ 14) * (u * 2 ^ 14)
  let bf := (r.2.1 - cs) / u
  let lf := (r.2.2 - r.2.1) / u
  { bits := BitVec.ofNat 128 (addr.toNat + perms.toNat * 2 ^ 64 + type.toNat * 2 ^ 80 + r.1 * 2 ^ 84 +
      bf % 2 ^ 14 * 2 ^ 90 + lf % 2 ^ 15 * 2 ^ 104), tag := tag }

/-- Bounds narrowed to [b, t) of a request, keeping address, permissions and type (R47, R234). -/
def capWithBounds (c : Cap) (b t : Nat) : Cap := capMake (capAddr c) b t (capPerms c) (capType c) c.tag

/-- Clears permission bits. -/
def capDropPerms (c : Cap) (ps : List Nat) : Cap :=
  ps.foldl (fun d p => capPut d (64 + p) 1 0) c

/-- What arrives from elsewhere loses ST, TAGWR and SEQ (R52). -/
def capArrive (c : Cap) : Cap := if c.tag then capDropPerms c [permST, permTAGWR, permSEQ] else c

/-- A tagged value loaded through an authority without DEEP (R51). -/
def capShallow (c : Cap) : Cap :=
  if c.tag then capDropPerms c [permST, permTAGWR, permSEQ, permDEEP] else c

/-- LD ST TAGRD TAGWR DEEP PULL WATCH SEQ ROAM (R48 Table 5). -/
def ownRootPerms : BitVec 16 := 0x09EF#16
/-- LD TAGRD DEEP PULL WATCH ROAM. -/
def readRootPerms : BitVec 16 := 0x08E5#16
/-- LD EXE ROAM. -/
def codeRootPerms : BitVec 16 := 0x0811#16
/-- WRAP UNWRAP ADMIN. -/
def supRootPerms : BitVec 16 := 0x1600#16

/-- The own-SRAM root (R48). -/
def rootSram (pkg : BitVec 9) (core : BitVec 10) : Cap :=
  let b := (mkVa 1 pkg core 0).toNat
  capMake (mkVa 1 pkg core 0) b (b + sramBytes) ownRootPerms 0 true

/-- The own-HBM root (R48). -/
def rootHbm (pkg : BitVec 9) (core : BitVec 10) : Cap :=
  let b := (mkVa 0 pkg core 0).toNat
  capMake (mkVa 0 pkg core 0) b (b + 2 ^ 43) ownRootPerms 0 true

/-- The supervisor root: types 1 to 15, address type 1 (R48). -/
def rootSup : Cap := capMake 1 1 16 supRootPerms 0 true

end Sys2Proof.Machine
end

