-- ==== Sys2Proof/Machine/Walk.lean ====
section
/-! DEFINITION. Translation of this core's own space 0 and space 3 by its tables (R61 to R64), and the revocation
filter (R54, R56). -/
namespace Sys2Proof.Machine

def tblFirst (s : State) : Nat := field s.regs.tblcfg 0 14
def tblCount (s : State) : Nat := field s.regs.tblcfg 16 14
def ovfFirst (s : State) : Nat := field s.regs.ovfcfg 0 14
def ovfFrames (s : State) : Nat := field s.regs.ovfcfg 16 14

/-- A frame of the table area (R61). -/
def inTableArea (s : State) (f : Nat) : Bool := decide (tblFirst s ≤ f ∧ f < tblFirst s + tblCount s)

/-- A frame of the overflow store (R34). -/
def inOvfStore (s : State) (f : Nat) : Bool := decide (ovfFirst s ≤ f ∧ f < ovfFirst s + ovfFrames s)

/-- Entry `i` of the table at the start of a frame (R62). -/
def tableEntry (s : State) (frame i : Nat) : Word := memDouble s.home.mem (frame * frameBytes + 8 * i)

/-- Writes an entry: an owner store of 8 bytes (R71). -/
def putEntry (s : State) (frame i : Nat) (e : Word) : State :=
  writeLoc s (.hbm (frame * frameBytes + 8 * i)) (leBytes 8 e.toNat)

/-- The directory entry of a context (R61). -/
def dirEntry (s : State) (ctx : BitVec 12) : Word := tableEntry s (tblFirst s) ctx.toNat

/-- Root valid and level-1 frame of a context's space 0 or 3 (R62 Table 2). -/
def dirRoot (e : Word) (sp3 : Bool) : Bool × Nat :=
  if sp3 then (e.getLsbD 30, field e 16 14) else (e.getLsbD 14, field e 0 14)

/-- Validity and frame of a pointer (R62 Table 2). -/
def pointer (e : Word) : Bool × Nat := (e.getLsbD 0, field e 6 14)

/-- Frames of the context save area: 80 for each context that may share the core (R344). -/
def saveFirst (s : State) : Nat := field s.regs.ctxsave 0 14
def saveCount (s : State) : Nat := 80 * (field s.regs.ctxsave 16 2 + 1)

/-- A frame of a context save image. -/
def inSaveArea (s : State) (f : Nat) : Bool := decide (saveFirst s ≤ f ∧ f < saveFirst s + saveCount s)

/-- A frame that no root or pointer may name (R25, R34, R62, R70 order 4): one outside the table area, the directory's, or
one of a context save image. -/
def badTable (s : State) (f : Nat) : Bool := !inTableArea s f || decide (f = tblFirst s) || inSaveArea s f

/-- What a root or a pointer leads to: nothing; a frame where no table may lie, at which the walk is refused (R25, R34); or
the table in a frame. -/
inductive TableAt where
  | absent
  | refused
  | table (frame : Nat)
  deriving DecidableEq, Repr

/-- A root or pointer is followed. -/
def follow (s : State) (e : Bool × Nat) : TableAt :=
  if !e.1 then .absent else if badTable s e.2 || decide (frameCount ≤ e.2) || inOvfStore s e.2 then .refused else .table e.2

/-- The level-3 table of a page, below the root and the pointers above it (R62). -/
def leafTable (s : State) (ctx : BitVec 12) (sp3 : Bool) (page : Nat) : TableAt :=
  if tblCount s = 0 then .absent
  else match follow s (dirRoot (dirEntry s ctx) sp3) with
    | .table f1 =>
      match follow s (pointer (tableEntry s f1 (page / 2 ^ 18))) with
      | .table f2 => follow s (pointer (tableEntry s f2 (page / 2 ^ 9 % 2 ^ 9)))
      | x => x
    | x => x

/-- A translated page: its data frame and the leaf's bits (R62 Table 2). -/
structure Leaf where
  frame : Nat
  rv : Bool
  w : Bool
  x : Bool
  tol : Bool
  deriving DecidableEq, Repr

/-- The valid leaf of a page in a level-3 table, 2 MiB leaves included (R63). -/
def findLeaf (s : State) (t page : Nat) : Option Leaf :=
  let i := page % 512
  let big := tableEntry s t (i / 32 * 32)
  let e := if big.getLsbD 0 && big.getLsbD 2 then big else tableEntry s t i
  let f := if big.getLsbD 0 && big.getLsbD 2 then field big 6 14 + i % 32 else field e 6 14
  if e.getLsbD 0 then
    some { frame := f, rv := e.getLsbD 1, w := e.getLsbD 3, x := e.getLsbD 4, tol := e.getLsbD 5 }
  else none

/-- Bytes of the channel where the entries that a walk reads lie, as far as it gets (R62). -/
def walkEntries (s : State) (ctx : BitVec 12) (sp3 : Bool) (page : Nat) : List Nat :=
  if tblCount s = 0 then []
  else
    let at' := fun f i => f * frameBytes + 8 * i
    at' (tblFirst s) ctx.toNat :: (match follow s (dirRoot (dirEntry s ctx) sp3) with
      | .table f1 => at' f1 (page / 2 ^ 18) :: (match follow s (pointer (tableEntry s f1 (page / 2 ^ 18))) with
        | .table f2 => at' f2 (page / 2 ^ 9 % 2 ^ 9) ::
          (match follow s (pointer (tableEntry s f2 (page / 2 ^ 9 % 2 ^ 9))) with
           | .table f3 => [at' f3 (page % 512 / 32 * 32), at' f3 (page % 512)]
           | _ => [])
        | _ => [])
      | _ => [])

/-- What a walk gives (R64): a byte of the home channel, a page fault, a refusal at a foreign frame, one of the overflow
store (R25, R34) or one where no table may lie, or an entry that cannot be corrected: context state (R28). -/
inductive WalkResult where
  | ok (byte : Nat) (leaf : Leaf)
  | notPresent
  | refused
  | broken
  deriving DecidableEq, Repr

/-- The walk for one byte of own space 0 or 3; `isOwner` is false for a reader that does not own the page. -/
def walk (s : State) (ctx : BitVec 12) (sp3 isOwner : Bool) (off : Nat) : WalkResult :=
  if (walkEntries s ctx sp3 (off / 65536)).any (fun b => badSector s b 8) then .broken
  else match leafTable s ctx sp3 (off / 65536) with
  | .absent => .notPresent
  | .refused => .refused
  | .table t =>
    match findLeaf s t (off / 65536) with
    | none => .notPresent
    | some l =>
      if !l.rv && !isOwner then .notPresent
      else if decide (frameCount ≤ l.frame) || inOvfStore s l.frame then .refused
      else .ok (l.frame * frameBytes + off % 65536) l

/-- The entries of a walk that can be corrected are (R28). -/
def noteWalk (s : State) (ctx : BitVec 12) (sp3 : Bool) (off : Nat) : State :=
  if s.home.errors.isEmpty then s
  else (walkEntries s ctx sp3 (off / 65536)).foldl (fun s b => correctSectors s b 8) s

/-- The owner named by an address (R12, R21). -/
def vaOwner (va : Word) : Owner :=
  if vaSpace va = 2 then { pkg := vaPkg va, core := 0, host := true }
  else { pkg := vaPkg va, core := vaCore va, host := false }

def ownId (s : State) : Owner := { pkg := s.pkg, core := s.core, host := false }

/-- First byte of a host window in space 2, its bytes, and whether it is registered (R374). -/
def winBase (w : HostWin) : Nat := field w.regA 12 52 * 4096
def winBytes (w : HostWin) : Nat := field w.regB 0 20 * 4096
def winValid (w : HostWin) : Bool := w.regB.getLsbD 63

/-- A window of the context that holds the whole of [off, off + n). -/
def winHolds (ctx : BitVec 12) (off n : Nat) (w : HostWin) : Bool :=
  decide (w.ctx = ctx) && decide (winBase w ≤ off ∧ off + n ≤ winBase w + winBytes w)

/-- The valid host window of a context that holds an address of this package's space 2 (R374). -/
def windowAt (s : State) (ctx : BitVec 12) (va : Word) : Option HostWin :=
  s.pk.wins.find? (fun w => winValid w && winHolds ctx (vaOff va) 1 w)

/-- The owner of an address for a context: the writer core of a window with wdev set (R375). -/
def ownerOf (s : State) (ctx : BitVec 12) (va : Word) : Owner :=
  if vaSpace va = 2 ∧ vaPkg va = s.pkg then
    match windowAt s ctx va with
    | some w => if w.regB.getLsbD 30 then { pkg := s.pkg, core := w.regB.extractLsb' 20 10, host := false } else vaOwner va
    | none => vaOwner va
  else vaOwner va

/-- The Active key slot of a context (R384). -/
def activeKey (s : State) (ctx : BitVec 12) : Option KeySlot :=
  (s.pk.keys.find? (fun p => decide (p.2.state = .active) && decide (p.2.ctx = ctx))).map (·.2)

/-- Its number; slot 0 stands for none, which no caller meets. -/
def activeSlot (s : State) (ctx : BitVec 12) : Nat :=
  match s.pk.keys.find? (fun p => decide (p.2.state = .active) && decide (p.2.ctx = ctx)) with
  | some p => p.1
  | none => 0

/-- Something leaves the core. -/
def emit (s : State) (p : Packet) : State := { s with outbox := s.outbox ++ [p] }

/-- Whether VGROUP's pool is active (R105): this core's part, and that of the other members as they have told it. -/
def poolActive (s : State) : Bool := decide (s.cx.vgroup.toNat % 8 ≠ 0) && decide (s.cx.split ≠ 0) && s.poolPeers

/-- An event that this core's own units will meet. -/
def queueEvent (s : State) (i : Instr) : State := { s with inputs := s.inputs ++ [{ row := i, access := Access.none }] }

/-- A fresh read in flight (R78). -/
def isFreshRead (p : Pending) : Bool := !p.cached && decide (p.purpose ≠ .fetch)

/-- The reads that `p` names are given up: their answers go to no one, and a fresh one stays in flight until its answer has
come (R363). -/
def dropReads (p : Pending → Bool) (l : List Pending) : List Pending :=
  l.filterMap (fun x => if !p x then some x else if isFreshRead x then some { x with fate := .dead } else none)

/-- A context ends (R359): a slice finds no Active key slot of it (`key`), or its context state is met with an error that
cannot be corrected, a finding that ECCCNT counts (R395). -/
def endContext (s : State) (ctx : BitVec 12) (key : Bool) : State :=
  queueEvent (if key then s else countUncorr s) (.fatalContext ctx key)

/-- The other members of the victim pool no longer meet R105 as far as this core knows: every member discards its victim
ways (R106). -/
def leavePool (s : State) : State :=
  { s with poolPeers := false, lines := s.lines.filter (fun l => !l.victim) }

/-- This core tells its part in the pool (R105). -/
def tellPart (s : State) : State := emit s (.poolState s.cx.vgroup s.cx.num (decide (s.cx.split ≠ 0)))

/-! ### Slices (R60) -/

/-- The slice of an address for a context. -/
def sliceNo (ctx : BitVec 12) (va : Word) : Nat :=
  let x := va.toNat / 2 ^ 16 % 2 ^ 46
  let h := (List.range 8).foldl (fun h i => h ^^^ (x / 2 ^ (6 * i) % 64)) 0
  64 * (va.getLsbD 52).toNat + (h ^^^ (ctx.toNat % 64) ^^^ (ctx.toNat / 64))

def sliceAt (s : State) (n : Nat) : Slice := sparseGet Slice.none s.home.slices n

def putSlice (s : State) (n : Nat) (x : Slice) : State :=
  { s with home := { s.home with slices := sparsePut Slice.none s.home.slices n x } }

/-- Every slice is changed alike; one that then holds nothing is not listed. -/
def mapSlices (f : Slice → Slice) (s : State) : State :=
  { s with home := { s.home with slices :=
      (s.home.slices.map (fun p => (p.1, f p.2))).filter (fun p => decide (p.2 ≠ Slice.none)) } }

/-- A line's address. -/
def lineVa (l : BitVec 58) : Word := BitVec.ofNat 64 (l.toNat * 64)

/-- The entry of a line in the slice that serves it. -/
def heldLine (s : State) (ctx : BitVec 12) (l : BitVec 58) : Option SliceLine :=
  (sliceAt s (sliceNo ctx (lineVa l))).lines.find? (fun x => decide (x.ctx = ctx) && decide (x.line = l))

/-- A line of a context as a slice holds it once it has been filled: sealed under the Active key slot (R68). -/
def SliceLine.filled (s : State) (ctx : BitVec 12) (l : BitVec 58) : SliceLine :=
  { ctx := ctx, line := l, changed := false, bad := false, key := activeSlot s ctx }

/-- Lines of 64 bytes that [va, va + n) touches. -/
def linesIn (va : Word) (n : Nat) : List (BitVec 58) :=
  (rangeFrom (va.toNat / 64) ((va.toNat + n + 63) / 64 - va.toNat / 64)).map (BitVec.ofNat 58)

/-- A fill of a line of the range is under way: the requests for a line are handled in the order they arrive (R65). -/
def filling (s : State) (ctx : BitVec 12) (va : Word) (n : Nat) : Bool :=
  (linesIn va n).any (fun l => (sliceAt s (sliceNo ctx (lineVa l))).fills.any (fun f =>
    decide (f.1.ctx = ctx) && decide (f.1.va.extractLsb' 6 58 = l)))

/-- Lines of the slice capacity of 8 MiB (R18). -/
def sliceLines : Nat := 131072

/-- A slice holds a line more; the oldest goes when it is full, for it is in the channel too. -/
def keepLine (s : State) (x : SliceLine) : State :=
  let n := sliceNo x.ctx (lineVa x.line)
  let z := sliceAt s n
  let rest := z.lines.filter (fun y => !(decide (y.ctx = x.ctx) && decide (y.line = x.line)))
  putSlice s n { z with lines := (if rest.length < sliceLines then rest else rest.drop 1) ++ [x] }

/-- A sector that a read of `n` bytes at `va` meets is lost: in the channel, or with the line that a slice holds (R28,
R395). -/
def badRead (s : State) (ctx : BitVec 12) (va : Word) (byte n : Nat) : Bool :=
  badSector s byte n ||
    (linesIn va n).any (fun l =>
      match heldLine s ctx l with
      | some x => x.bad
      | none => false)

/-- A package that this one has fenced off (R370). -/
def fencedOff (s : State) (pkg : BitVec 9) : Bool := s.pk.fenced.contains pkg && decide (pkg ≠ s.pkg)

/-- The address names this core's own memory: space 0, 1 or 3. -/
def isOwn (s : State) (va : Word) : Bool :=
  decide (vaSpace va ≠ 2) && decide (vaPkg va = s.pkg) && decide (vaCore va = s.core)

/-- The map byte that covers an address of own space 0 or 1 (R54), by its offset in the map. -/
def markByteOff (va : Word) : Nat :=
  let g := vaOff va / 64
  if vaSpace va = 1 then g / 8 else 0x10000 + g / 8

/-- The own revocation-map bit of an address: 0 while RVCFG.en is 0 and on a page not present (R54, R55). A map byte that
cannot be read for an error is no data (R28): the granule counts as marked (log entry 164, DESIGN CHOICE). -/
def ownMark (s : State) (ctx : BitVec 12) (va : Word) : Bool :=
  if s.regs.rvcfg.getLsbD 0 then
    match walk s ctx false true (field s.regs.rvcfg 16 27 * 65536 + markByteOff va) with
    | .ok b _ => badSector s b 1 || (memByte s.home.mem b).getLsbD (vaOff va / 64 % 8)
    | .broken => true
    | _ => false
  else false

/-- The lookup of an own map byte leaves its sector, and the entries of the walk, corrected where they can be (R28). -/
def noteOwnMark (s : State) (ctx : BitVec 12) (va : Word) : State :=
  let off := field s.regs.rvcfg 16 27 * 65536 + markByteOff va
  if !s.regs.rvcfg.getLsbD 0 || s.home.errors.isEmpty then s
  else match walk s ctx false true off with
    | .ok b _ => if badSector s b 1 then countUncorr s else correctSectors (noteWalk s ctx false off) b 1
    | _ => s

/-- A map byte of another owner that the core has cached for the filter (R56). -/
def cachedMark (s : State) (o : Owner) (i : Nat) : Option Byte :=
  (s.filter.find? (fun p => decide (p.1 = o) && decide (p.2.1 = i))).map (·.2.2)

/-- The mark of the granule that holds an address, as the filter looks it up (R56): in another owner's map from the cache,
which serves the resident context, or anew. -/
def filterMark (s : State) (ctx : BitVec 12) (a : Nat) : Bool :=
  let va := BitVec.ofNat 64 a
  if vaSpace va = 2 || vaSpace va = 3 then false
  else if isOwn s va then ownMark s ctx va
  else match (if ctx = s.cx.num then cachedMark s (vaOwner va) (markByteOff va) else none) with
    | some b => b.getLsbD (vaOff va / 64 % 8)
    | none => Config.foreignMark s.fresh (vaOwner va) (a / 64)

/-- The revocation filter (R56): clears the tag of a capability whose first or last byte lies in a marked granule. -/
def filterCap (s : State) (ctx : BitVec 12) (c : Cap) : Cap :=
  if c.tag && (filterMark s ctx (capBase c) ||
      (decide (capBase c < capTop c) && filterMark s ctx (capTop c - 1))) then { c with tag := false }
  else c

/-- The map byte as eight lookups give it. -/
def foreignByte (s : State) (a : Nat) : Byte :=
  let g := a / 64 / 8 * 8
  BitVec.ofNat 8 (natSum ((List.range 8).map (fun j =>
    if Config.foreignMark s.fresh (vaOwner (BitVec.ofNat 64 a)) (g + j) then 2 ^ j else 0)))

/-- A lookup in another owner's map leaves its byte in the cache. -/
def cacheMark (s : State) (ctx : BitVec 12) (a : Nat) : State :=
  let va := BitVec.ofNat 64 a
  if vaSpace va = 2 || vaSpace va = 3 then s
  else if isOwn s va then noteOwnMark s ctx va
  else if (cachedMark s (vaOwner va) (markByteOff va)).isSome then s
  else { s with filter := s.filter ++ [(vaOwner va, markByteOff va, foreignByte s a)] }

/-- The lookups that the filter makes for a capability (R56). -/
def cacheMarks (s : State) (ctx : BitVec 12) (c : Cap) : State :=
  if !c.tag then s
  else if capBase c < capTop c then cacheMark (cacheMark s ctx (capBase c)) ctx (capTop c - 1)
  else cacheMark s ctx (capBase c)

end Sys2Proof.Machine
end

