-- ==== Sys2Proof/Machine/Chan.lean ====
section
/-! DEFINITION. Messages, channel entries, receive rings, the run queue and activation (R151, R304 to R307, R329 to
R337). Operations on a context work on its image too, so they take the context. -/
namespace Sys2Proof.Machine

/-! ### Headers (R304 Table 1) -/

def msgCore (m : Message) : BitVec 10 := m.hdr0.extractLsb' 0 10
def msgPkg (m : Message) : BitVec 9 := m.hdr0.extractLsb' 10 9
def msgChan (m : Message) : BitVec 6 := m.hdr0.extractLsb' 19 6
def msgSrcCore (m : Message) : BitVec 10 := m.hdr0.extractLsb' 32 10
def msgSrcPkg (m : Message) : BitVec 9 := m.hdr0.extractLsb' 42 9
def msgId (m : Message) : BitVec 16 := m.hdr1.extractLsb' 0 16
def msgKind (m : Message) : Nat := field m.hdr1 24 4
def msgSctx (m : Message) : BitVec 12 := m.hdr1.extractLsb' 28 12
def msgSup (m : Message) : Bool := m.hdr1.getLsbD 40
def msgDctx (m : Message) : BitVec 12 := m.hdr1.extractLsb' 41 12

def mkHdr0 (dcore : BitVec 10) (dpkg : BitVec 9) (chan : BitVec 6) (score : BitVec 10) (spkg : BitVec 9) : Word :=
  BitVec.ofNat 64 (dcore.toNat + dpkg.toNat * 2 ^ 10 + chan.toNat * 2 ^ 19 + score.toNat * 2 ^ 32 + spkg.toNat * 2 ^ 42)

def mkHdr1 (id : BitVec 16) (len kind : Nat) (sctx : BitVec 12) (sup : Bool) (dctx : BitVec 12) : Word :=
  BitVec.ofNat 64 (id.toNat + len % 64 * 2 ^ 16 + kind % 16 * 2 ^ 24 + sctx.toNat * 2 ^ 28 + sup.toNat * 2 ^ 40 +
    dctx.toNat * 2 ^ 41)

/-- Message kinds (R305 Table 2). -/
def kindData : Nat := 0
def kindSpawn : Nat := 1
def kindWatchReply : Nat := 2
def kindAnnounce : Nat := 3
def kindRowDrain : Nat := 4
def kindStream : Nat := 5
def kindFault : Nat := 6
def kindSweep : Nat := 7
def kindSystem : Nat := 8

/-- A payload of 48 bytes as three untagged slots. -/
def slotsOf (bs : List Byte) : Cap × Cap × Cap :=
  let at_ := fun i => ({ bits := BitVec.ofNat 128 (leAt bs (16 * i) 16), tag := false } : Cap)
  (at_ 0, at_ 1, at_ 2)

def mkMessage (h0 h1 : Word) (payload : List Byte) (r : Option Record) : Message :=
  let p := slotsOf payload
  { hdr0 := h0, hdr1 := h1, slot0 := p.1, slot1 := p.2.1, slot2 := p.2.2, record := r }

/-- The 48 payload bytes of a message. -/
def payloadBytes (m : Message) : List Byte :=
  leBytes 16 m.slot0.bits.toNat ++ leBytes 16 m.slot1.bits.toNat ++ leBytes 16 m.slot2.bits.toNat

/-! ### Channel entries (R330 Table 2) -/

def chanAddr (cx : CtxState) (n : Nat) : Nat := cx.chanbase.toNat + 64 * n

/-- The double at byte `b` of entry `n`. -/
def chanDouble (cx : CtxState) (n b : Nat) : Word := memDouble cx.sram (chanAddr cx n + b)

/-- Replaces the double at byte `b` of entry `n`: a store by the owner (R329). -/
def setChanDouble (cx : CtxState) (n b : Nat) (w : Word) : CtxState :=
  { cx with sram := memWrite cx.sram (chanAddr cx n + b) (leBytes 8 w.toNat) }

def chanFlags (cx : CtxState) (n : Nat) : Word := chanDouble cx n 32
def chanEn (cx : CtxState) (n : Nat) : Bool := (chanFlags cx n).getLsbD 0
def chanHold (cx : CtxState) (n : Nat) : Bool := (chanFlags cx n).getLsbD 1
def chanPrio (cx : CtxState) (n : Nat) : BitVec 2 := (chanFlags cx n).extractLsb' 2 2
def chanSup (cx : CtxState) (n : Nat) : Bool := (chanFlags cx n).getLsbD 4
def chanDrop (cx : CtxState) (n : Nat) : Bool := (chanFlags cx n).getLsbD 5
def chanActive (cx : CtxState) (n : Nat) : Bool := (chanFlags cx n).getLsbD 6
def chanPending (cx : CtxState) (n : Nat) : Nat := field (chanFlags cx n) 16 16
def chanRbase (cx : CtxState) (n : Nat) : Nat := field (chanDouble cx n 40) 0 22
def chanRsize (cx : CtxState) (n : Nat) : Nat := field (chanDouble cx n 40) 24 13 * 16
def chanHead (cx : CtxState) (n : Nat) : Nat := field (chanDouble cx n 48) 0 22
def chanUsed (cx : CtxState) (n : Nat) : Nat := field (chanDouble cx n 48) 22 22
def chanBudget (cx : CtxState) (n : Nat) : BitVec 32 := (chanDouble cx n 56).extractLsb' 0 32
def chanGateA (cx : CtxState) (n : Nat) : Cap := memCap cx.sram (chanAddr cx n)
def chanGateE (cx : CtxState) (n : Nat) : Cap := memCap cx.sram (chanAddr cx n + 16)

/-- The context has a channel table: a level was placed on the core. -/
def hasChannels (cx : CtxState) : Bool := decide (cx.num ≠ 0) && cx.rootCode.tag

/-- A channel that the level declares (R330): an absent entry has ring size 0. -/
def chanPresent (cx : CtxState) (n : Nat) : Bool := hasChannels cx && decide (0 < chanRsize cx n)

def setChanFlagBits (cx : CtxState) (n lo w v : Nat) : CtxState :=
  setChanDouble cx n 32 (putField (chanFlags cx n) lo w v)

def setChanActive (cx : CtxState) (n : Nat) (b : Bool) : CtxState := setChanFlagBits cx n 6 1 b.toNat

def setChanRing (cx : CtxState) (n head used : Nat) : CtxState :=
  setChanDouble cx n 48 (BitVec.ofNat 64 (head % 2 ^ 22 + used % 2 ^ 22 * 2 ^ 22))

/-- The states of a channel, first match (R332). -/
inductive ChanState where
  | busy | off | held | gated | opened
  deriving DecidableEq, Repr

def chanState (cx : CtxState) (n : Nat) : ChanState :=
  if chanActive cx n then .busy
  else if !chanEn cx n then .off
  else if chanHold cx n then .held
  else if 0 < chanPending cx n then .gated
  else .opened

/-- The lowest-numbered present supervisor channel (R331). -/
def supChannel (cx : CtxState) : Option Nat :=
  (List.range 64).find? (fun n => chanPresent cx n && chanSup cx n)

/-- Applies a channel-bit operation to an entry (R316). -/
def applyChanOp (cx : CtxState) (n : Nat) (op : ChanOp) : CtxState :=
  match op with
  | .enable => setChanFlagBits cx n 0 1 1
  | .disable => setChanFlagBits cx n 0 1 0
  | .hold => setChanFlagBits cx n 1 1 1
  | .release => setChanFlagBits cx n 1 1 0
  | .pend d =>
    let z : Int := (chanPending cx n : Int) + d.toInt
    setChanFlagBits cx n 16 16 (min (max z 0) 0xFFFF).toNat

/-! ### Receive rings (R334) -/

/-- Where a record goes: `write at`, `write at after a pad marker`, or hold. -/
inductive RingPlace where
  | write (off used : Nat)
  | padThen (padAt off used : Nat)
  | hold
  deriving DecidableEq, Repr

/-- R334 for a ring of `rsz` bytes. -/
def ringPlace (rsz head0 used : Nat) : RingPlace :=
  let head := if used = 0 then 0 else head0
  let tail := if rsz = 0 then 0 else (head + used) % rsz
  if used = rsz then .hold
  else if used = 0 ∨ head < tail then
    let toend := rsz - tail
    if 64 ≤ toend then .write tail (used + 64)
    else if 64 ≤ head then .padThen tail 0 (used + toend + 64)
    else .hold
  else if 64 ≤ head - tail then .write tail (used + 64)
  else .hold

/-- Tags that a payload slot keeps when it is deposited: ROAM in transit (R53), ST TAGWR SEQ cleared (R52), the filter
(R56). -/
def arriveSlot (s : State) (ctx : BitVec 12) (c : Cap) : Cap :=
  filterCap s ctx (capArrive { c with tag := c.tag && hasPerm c permROAM })

/-- While an epoch is open for the context, what is parked for it and what activates a task passes the filter first: the
sweeper may have been there before (R57, R59). -/
def epochFilter (s : State) (ctx : BitVec 12) (m : Message) : Message :=
  if ctx = s.sweepCtx ∧ s.sweep ≠ .idle then
    { m with slot0 := filterCap s ctx m.slot0, slot1 := filterCap s ctx m.slot1, slot2 := filterCap s ctx m.slot2 }
  else m

/-- Writes the 64 bytes of a message at a scratchpad offset, with its tags, and keeps its release record beside. -/
def writeRecord (s : State) (cx : CtxState) (off : Nat) (m : Message) : CtxState :=
  let c0 := scratchWrite cx off (leBytes 8 m.hdr0.toNat ++ leBytes 8 m.hdr1.toNat)
  let c1 := scratchWriteCap c0 (off + 16) (arriveSlot s cx.num m.slot0)
  let c2 := scratchWriteCap c1 (off + 32) (arriveSlot s cx.num m.slot1)
  let c3 := scratchWriteCap c2 (off + 48) (arriveSlot s cx.num m.slot2)
  let rs := cx.ringRecords.filter (fun p => decide (p.1 ≠ off))
  { c3 with ringRecords := match m.record with | some r => (off, r) :: rs | none => rs }

/-- A pad marker: bytes 0 to 7 all ones, the rest of the ring to its end zero (R334). -/
def padBytes (n : Nat) : List Byte := List.replicate (min 8 n) 0xFF#8 ++ List.replicate (n - 8) 0#8

/-- Deposits a record in the ring of channel `n`; none where R334 holds it. -/
def ringDeposit (s : State) (cx : CtxState) (n : Nat) (m : Message) : Option CtxState :=
  let rb := chanRbase cx n
  let used := chanUsed cx n
  let head := if used = 0 then 0 else chanHead cx n
  match ringPlace (chanRsize cx n) (chanHead cx n) used with
  | .write off u => some (setChanRing (writeRecord s cx (rb + off) m) n head u)
  | .padThen p off u =>
    let cx1 := scratchWrite cx (rb + p) (padBytes (chanRsize cx n - p))
    some (setChanRing (writeRecord s cx1 (rb + off) m) n head u)
  | .hold => none

/-- Frees the head record: head moves past it and past a pad marker that follows (R332). -/
def freeHead (cx : CtxState) (n : Nat) : CtxState :=
  let rsz := chanRsize cx n
  let used := chanUsed cx n
  let h1 := if rsz = 0 then 0 else (chanHead cx n + 64) % rsz
  let u1 := used - 64
  if u1 = 0 then setChanRing cx n 0 0
  else if memDouble cx.sram (chanRbase cx n + h1) = 0xFFFFFFFFFFFFFFFF#64 then
    let u2 := u1 - (rsz - h1)
    setChanRing cx n 0 u2
  else setChanRing cx n h1 u1

/-! ### Dispatch and the run queue (R332, R336, R337) -/

/-- Entries of the hardware run queue, and of its overflow ring (R336). -/
def runDepth : Nat := 32
def runRingDepth : Nat := 512

/-- An entry joins the run queue; beyond 32 it is written into the next place of the overflow ring, a store by the owner
(R12, R329, R336). -/
def pushRun (cx : CtxState) (en : RunEntry) : CtxState :=
  if cx.runq.length < runDepth then { cx with runq := cx.runq ++ [en] }
  else
    { scratchWrite cx (cx.chanbase.toNat + 4096 + 16 * (cx.runOvf % runRingDepth))
        (leBytes 16 (Config.runBytes cx.runOvf en).toNat) with
      runq := cx.runq ++ [en]
      runOvf := cx.runOvf + 1 }

/-- An OPEN channel with a record dispatches: the record becomes a run-queue entry and active becomes 1 (R332). -/
def dispatch (cx : CtxState) (n seq : Nat) : CtxState :=
  if chanPresent cx n && decide (chanState cx n = .opened) && decide (0 < chanUsed cx n) then
    pushRun (setChanActive cx n true) (.chan (BitVec.ofNat 6 n) 0 seq)
  else cx

/-- Channel `n` of the resident context is re-evaluated. -/
def dispatchChan (s : State) (n : Nat) : State := { s with cx := dispatch s.cx n s.nextId, nextId := s.nextId + 1 }

/-- Effective priority of an entry (R337): its channel's prio raised by ageing, to at most 3. A resumption carries
the priority of its task's channel. -/
def entryPrio (cx : CtxState) : RunEntry → Nat
  | .chan n raised _ => min 3 ((chanPrio cx n.toNat).toNat + raised.toNat)
  | .resume tid raised =>
    match cx.susp.find? (fun p => decide (p.1.tid = tid)) with
    | some p => min 3 (p.1.prio.toNat + raised.toNat)
    | none => 0

/-- A resumption counts as older than every channel entry (R337). -/
def isResume : RunEntry → Bool
  | .resume _ _ => true
  | _ => false

/-- The entry that a free slot takes: highest effective priority, resumptions first, then the oldest (R337). -/
def bestEntry (cx : CtxState) : List RunEntry → Option RunEntry
  | [] => none
  | x :: r =>
    match bestEntry cx r with
    | none => some x
    | some y =>
      if entryPrio cx x < entryPrio cx y then some y
      else if entryPrio cx y < entryPrio cx x then some x
      else if isResume y && !isResume x then some y
      else some x

def slotAt (s : State) (k : Nat) : Slot := vget s.slots k .free
def setSlot (s : State) (k : Nat) (x : Slot) : State := { s with slots := vset s.slots k x }

def slotFree (s : State) (k : Nat) : Bool := decide (slotAt s k = .free)

/-- Doubles of a payload slot: zero for `e` registers when the slot is tagged (R133, R151). -/
def slotDouble (c : Cap) (hi : Bool) : Word := c.bits.extractLsb' (if hi then 64 else 0) 64

def hideTagged (c : Cap) (w : Word) : Word := if c.tag then 0 else w

/-- It waits at a BRK for its ERET. -/
def atBrk : SuspendOn → Bool
  | .brk _ => true
  | _ => false

/-- The task that a BRK report names (R324): suspended at that BRK, with the report's channel, msgid and address. -/
def brkNames (s : State) (m : Message) : Option Nat :=
  if msgKind m = kindFault ∧ leAt (payloadBytes m) 0 1 = 0x1A then
    let pc := BitVec.ofNat 64 (leAt (payloadBytes m) 16 8)
    let hit := fun (t : Task) (on : SuspendOn) => atBrk on && decide (t.msgid.toNat = leAt (payloadBytes m) 4 2) &&
      decide (t.chan.toNat = leAt (payloadBytes m) 3 1) && decide (t.trapaddr = pc)
    match s.cx.susp.find? (fun p => hit p.1 p.2) with
    | some p => some p.1.tid
    | none =>
      (List.range 4).findSome? (fun k => match slotAt s k with
        | .held t on => if hit t on then some t.tid else none
        | _ => none)
  else none

/-- The row that a ROWDRAIN message names (R281 Table 6). -/
def drainNames (m : Message) : Option (BitVec 9) :=
  if msgKind m = kindRowDrain then some (BitVec.ofNat 9 (leAt (payloadBytes m) 16 2)) else none

def streamAt (g : Cap) : StreamSt :=
  { pc := capAddr g, auth := capPut { g with tag := g.tag } 80 4 0, ended := !g.tag, wait := .ready }

/-- The task that channel entry `n` starts with message `m` (R151 Table 12): registers from the message, roots, gates
and budget. `off` is the offset of its record; a SPAWN has none (R313). -/
def activate (s : State) (cx : CtxState) (n : Nat) (m : Message) (off : Option Nat) : Task :=
  let w := fun (c : Cap) (hi : Bool) => slotDouble c hi
  let a := #v[0, w m.slot0 false, w m.slot0 true, w m.slot1 false, w m.slot1 true, w m.slot2 false, w m.slot2 true,
    m.hdr0, m.hdr1, 0, 0, 0, 0, 0, 0, 0, 0, 0, 0, 0, 0, 0, 0, 0, 0, 0, 0, 0, 0, 0, 0, 0]
  let h := fun (c : Cap) (hi : Bool) => hideTagged c (slotDouble c hi)
  let e := #v[0, h m.slot0 false, h m.slot0 true, h m.slot1 false, h m.slot1 true, h m.slot2 false, h m.slot2 true,
    m.hdr0, m.hdr1, 0, 0, 0, 0, 0, 0, 0, 0, 0, 0, 0, 0, 0, 0, 0, 0, 0, 0, 0, 0, 0, 0, 0]
  let rd := fun i => cx.rootRead.getD i Cap.null
  let c5 := match off with
    | none => Cap.null
    | some o =>
      let b := (mkVa 1 s.pkg s.core o).toNat
      capMake (BitVec.ofNat 64 b) b (b + 64) 0x0001#16 0 true
  let sup := chanSup cx n
  let c := #v[Cap.null, rootSram s.pkg s.core, rootHbm s.pkg s.core, rd 0, cx.rootCode, c5,
    (if sup then rootSup else Cap.null), Cap.null, m.slot0, m.slot1, m.slot2, rd 1, rd 2, rd 3, rd 4, rd 5]
  { tid := s.nextId, ctx := cx.num, chan := BitVec.ofNat 6 n, prio := chanPrio cx n, sup := sup, drop := chanDrop cx n,
    msgid := msgId m, spawned := off.isNone,
    names := if off.isSome then brkNames s m else none, drainRow := drainNames m,
    sa := streamAt (chanGateA cx n), se := streamAt (chanGateE cx n), a := a, c := c, e := e,
    v := Vector.replicate 32 0, m := vset (Vector.replicate 8 0) 0 (BitVec.allOnes 64),
    lq := Vector.replicate 4 [], sq := Vector.replicate 2 [], vlq := [], vsq := [], sf := 0, deadlock := 0,
    waitCodes := 0, numflags := 0, fpmode := 0, trapcause := 0, trapaddr := 0, trapmsg := 0, wdbudget := chanBudget cx n, keysel := 0,
    late := [],
    obs := [], obsOver := false, horizons := [], floors := [], spillDepth := 0, staged := [], popped := none, lastMsgid := none,
    port := none,
    cmdTrap := none, preEpoch := false,
    ending := if (chanGateA cx n).tag || (chanGateE cx n).tag then .running else .draining }

/-! ### Acquires (R84, R86, R87) -/

/-- `a` is older than `b` (R82). -/
def pubOlder (a b : BitVec 48) : Bool := decide (1 ≤ (b - a).toNat ∧ (b - a).toNat < 2 ^ 47)

def lookupPub (l : List (Owner × BitVec 48)) (o : Owner) : BitVec 48 :=
  match l.find? (fun p => decide (p.1 = o)) with
  | some p => p.2
  | none => 0

/-- Raises the entry for `o` to `q` when `q` is newer, or adds it. -/
def raisePair : List (Owner × BitVec 48) → Owner → BitVec 48 → List (Owner × BitVec 48)
  | [], o, q => [(o, q)]
  | (x, p) :: r, o, q => if x = o then (x, if pubOlder p q then q else p) :: r else (x, p) :: raisePair r o q

/-- Adds a pair to the observation table (R87): none for the own core; a ninth owner sets the overflow bit. -/
def observe (s : State) (t : Task) (o : Owner) (q : BitVec 48) : Task :=
  if o = ownId s then t
  else if t.obs.any (fun p => decide (p.1 = o)) || decide (t.obs.length < 8) then { t with obs := raisePair t.obs o q }
  else { t with obsOver := true }

/-- A clean of pooled lines reaches every member of the pool (R84). -/
def tellPool (s : State) (o : Option Owner) (p : BitVec 48) (scope : Nat) : State :=
  if poolActive s then emit s (.poolClean o p scope) else s

/-- Cleans the core for (o, p) (R84). -/
def cleanPair (s : State) (o : Owner) (p : BitVec 48) : State :=
  tellPool { s with lines := s.lines.filter (fun l => !(decide (l.owner = o) && pubOlder l.stamp p)) } (some o) p 0

/-- Whether an owner lies within a fence scope of this core (R92 Table 7). -/
def inScope (s : State) (scope : Nat) (o : Owner) : Bool :=
  let same := decide (o.pkg = s.pkg) && !o.host
  let shr := fun k => decide (o.core.toNat >>> k = s.core.toNat >>> k)
  match scope with
  | 0 => same && shr 0
  | 1 => same && shr 2
  | 2 => same && shr 4
  | 3 => same && shr 6
  | 4 => same && shr 7
  | 5 => same && shr 9
  | 6 => decide (o.pkg = s.pkg)
  | _ => true

/-- A global clean within a scope (R84). -/
def globalClean (s : State) (scope : Nat) : State :=
  tellPool { s with lines := s.lines.filter (fun l => !inScope s scope l.owner) } none 0 scope

/-- Horizons of all owners within scope are raised to their current PUB (R86, R92): a free value for each. -/
def raiseAll (s : State) (scope : Nat) (t : Task) : Task := { t with floors := t.floors ++ [(scope, s.fresh)] }

/-- The horizon of a task for an owner (R81): zero until raised. -/
def horizonOf (s : State) (t : Task) (o : Owner) : BitVec 48 :=
  t.floors.foldl (fun h f =>
    let p := Config.foreignPub f.2 o
    if inScope s f.1 o && pubOlder h p then p else h) (lookupPub t.horizons o)

/-- The acquire of a record by a task (R86). -/
def acquire (s : State) (t : Task) (r : Record) : State × Task :=
  let s1 := cleanPair s r.owner r.pub
  let t1 := { observe s t r.owner r.pub with
    horizons := if r.owner = ownId s then t.horizons else raisePair t.horizons r.owner r.pub }
  if r.x then ({ globalClean s1 7 with fresh := s.fresh + 1 }, raiseAll s 7 t1) else (s1, t1)

/-! ### The overflow store (R32 to R35, R335) -/

/-- Entries of the overflow store (R34 Table 5). -/
def ovfCapacity (s : State) : Nat := ovfFrames s * 1024

/-- The next place of the ring that no entry takes, from `p` on. -/
def freePlace (s : State) : Nat → Nat → Nat
  | 0, p => p
  | fuel + 1, p =>
    if s.ovf.any (fun e => decide (e.place = p)) then freePlace s fuel ((p + 1) % ovfCapacity s) else p

/-- The place that the next entry takes: after the newest. -/
def nextPlace (s : State) : Nat :=
  match s.ovf.getLast? with
  | some e => freePlace s s.ovf.length ((e.place + 1) % ovfCapacity s)
  | none => 0

/-- The entry of an accumulate flit (R296, 15_goods_line.md Table 5). A first landing index from 16,384 on does not fit its
14-bit eidx: the entry holds the low bits, and the replay takes the flit as it came (log entry 174, DESIGN CHOICE). -/
def flitEntry (f : Flit) : List Byte :=
  let n := if f.wide then 16 else 4
  let pbit := fun i => (f.poison.getD i false).toNat
  takePad 32 (f.elems.flatMap (fun x => leBytes n x.toNat)) ++ leBytes 2 (f.eidx.toNat % 2 ^ 14) ++
    leBytes 1 (f.chain.toNat + (if f.wide then 0 else 1) * 2 ^ 5) ++
    leBytes 1 (f.elems.length % 16 + (pbit 0 + pbit 1 * 2) * 2 ^ 4 + f.last.toNat * 2 ^ 6) ++
    leBytes 2 (if f.wide then f.anchor.toNat else 0) ++
    leBytes 4 (f.contrib.core.toNat + f.contrib.pkg.toNat * 2 ^ 10) ++ leBytes 2 f.dctx.toNat ++
    leBytes 2 f.sctx.toNat ++ List.replicate 17 0#8 ++ [0x01#8]

/-- The 64 bytes of an entry. -/
def entryBytes (s : State) : Parked → List Byte
  | .flit f => flitEntry f
  | item => leBytes 64 (Config.parkedBytes s.fresh item).toNat

/-- Parks an arrival in the overflow store, a store by the owner (R32); none when no entry is free. -/
def park (s : State) (ctx : BitVec 12) (item : Parked) : Option State :=
  if s.ovf.length < ovfCapacity s then
    let p := nextPlace s
    some { writeLoc s (.hbm (ovfFirst s * frameBytes + 64 * p)) (entryBytes s item) with
      ovf := s.ovf ++ [{ place := p, ctx := ctx, item := item }]
      regs := { s.regs with ovfpeak := BitVec.ofNat 32 (max s.regs.ovfpeak.toNat (s.ovf.length + 1)) }
      fresh := s.fresh + 1 }
  else none

/-- The channel of a message or a channel-bit operation. -/
def parkedChan : Parked → Option Nat
  | .message m => some (msgChan m).toNat
  | .chanop p => some p.chan.toNat
  | .flit _ => none

/-- The entry is a message or a channel-bit operation for channel `n` of a context. -/
def parkedFor (ctx : BitVec 12) (n : Nat) (e : OvfEntry) : Bool :=
  decide (e.ctx = ctx) && decide (parkedChan e.item = some n)

/-- A remote channel-bit operation at its entry; on a supervisor channel only a supervisor task's counts (R316). -/
def applyRemote (cx : CtxState) (p : ChanPacket) : CtxState :=
  if chanSup cx p.chan.toNat && !p.sup then cx else applyChanOp cx p.chan.toNat p.op

/-- A message or an operation takes its effect at channel `n` of the resident context, which is then re-evaluated; none
while the ring has no room (R334). -/
def takeParked (s : State) (n : Nat) : Parked → Option State
  | .message m => (ringDeposit s s.cx n m).map (fun cx => dispatchChan { s with cx := cx } n)
  | .chanop p => some (dispatchChan { s with cx := applyRemote s.cx p } n)
  | .flit _ => none

/-- Where an entry of the overflow store lies in the home channel (R32). -/
def entryByte (s : State) (e : OvfEntry) : Nat := ovfFirst s * frameBytes + 64 * e.place

/-- An entry is read for replay: without its sectors' errors; none when they cannot be corrected, and then the entry is lost
and its context ends (R28; log entry 172, DESIGN CHOICE: an entry is context state). -/
def readEntry (s : State) (e : OvfEntry) : State ⊕ State :=
  let s1 := { s with ovf := s.ovf.erase e }
  if badSector s (entryByte s e) 64 then .inl (endContext s1 e.ctx false)
  else .inr (correctSectors s1 (entryByte s e) 64)

/-- The first parked entry of channel `n`, then those behind it, are replayed while they fit; each takes its effect, and
the channel dispatches, before the next (R33, R332, R335). -/
def replay (s : State) (n : Nat) : Nat → State
  | 0 => s
  | fuel + 1 =>
    match s.ovf.find? (parkedFor s.cx.num n) with
    | none => s
    | some e =>
      match readEntry s e with
      | .inl s1 => s1
      | .inr s0 =>
        match takeParked s0 n e.item with
        | some s1 => replay s1 n fuel
        | none => s

/-- Then what is held at the network interface (R335). -/
def replayHeld (s : State) (n : Nat) : Nat → State
  | 0 => s
  | fuel + 1 =>
    if s.ovf.any (parkedFor s.cx.num n) then s
    else match s.cx.held.find? (fun p => decide (parkedChan p = some n)) with
    | none => s
    | some p =>
      match takeParked { s with cx := { s.cx with held := s.cx.held.erase p } } n p with
      | some s1 => replayHeld s1 n fuel
      | none => s

/-- Channel `n` of the resident context is re-evaluated; ring space has freed on it. -/
def refill (s : State) (n : Nat) : State :=
  let s1 := replay (dispatchChan s n) n s.ovf.length
  replayHeld s1 n s1.cx.held.length

/-! ### Giving slots (R337) -/

/-- A message as it stands in a ring record, with its tags and its release record. -/
def recordAt (cx : CtxState) (off : Nat) : Message :=
  { hdr0 := memDouble cx.sram off, hdr1 := memDouble cx.sram (off + 8), slot0 := memCap cx.sram (off + 16),
    slot1 := memCap cx.sram (off + 32), slot2 := memCap cx.sram (off + 48),
    record := (cx.ringRecords.find? (fun p => decide (p.1 = off))).map (·.2) }

/-- Puts a new task in slot `k`; its activating message is acquired (R86 Table 3). -/
def startTask (s : State) (k : Nat) (t : Task) (r : Option Record) : State :=
  let s0 := { s with nextId := s.nextId + 1 }
  match r with
  | none => setSlot s0 k (.running t)
  | some rec =>
    let p := acquire s0 t rec
    setSlot p.1 k (.running p.2)

/-- Gives slot `k` to a run-queue entry (R337). -/
def giveSlot (s : State) (k : Nat) (en : RunEntry) : State :=
  let q := s.cx.runq.erase en
  match en with
  | .chan n _ _ =>
    let off := chanRbase s.cx n.toNat + chanHead s.cx n.toNat
    let m := epochFilter s s.cx.num (recordAt s.cx off)
    let t := activate s s.cx n.toNat m (some off)
    startTask { s with cx := { s.cx with runq := q } } k t m.record
  | .resume tid _ =>
    match s.cx.susp.find? (fun p => decide (p.1.tid = tid)) with
    | none => { s with cx := { s.cx with runq := q } }
    | some p =>
      let cx := { s.cx with runq := q, susp := s.cx.susp.filter (fun x => decide (x.1.tid ≠ tid)) }
      setSlot { s with cx := cx } k (.running p.1)

/-- The running drain sent the row-handler message with this row and msgid (R281, R284). -/
def ofRunningDrain (s : State) (row : Option (BitVec 9)) (id : BitVec 16) : Bool :=
  match s.mxRun, row with
  | some r, some x => r.rowMsgs.contains (x, id)
  | _, _ => false

/-- Entries that may take a slot: all, or after a switch-out request only the tasks that the messages of the running
row-handler drain activate (R284, R345). -/
def eligible (s : State) (en : RunEntry) : Bool :=
  if !s.switchReq then true
  else match en with
    | .chan n _ _ =>
      let m := recordAt s.cx (chanRbase s.cx n.toNat + chanHead s.cx n.toNat)
      ofRunningDrain s (drainNames m) (msgId m)
    | .resume tid _ =>
      match s.cx.susp.find? (fun p => decide (p.1.tid = tid)) with
      | some p => ofRunningDrain s p.1.drainRow p.1.msgid
      | none => false

/-- One free slot takes an entry of the hardware run queue, if there is one (R336). -/
def fillSlot (s : State) (k : Nat) : State :=
  if slotFree s k then
    match bestEntry s.cx ((s.cx.runq.take runDepth).filter (eligible s)) with
    | some en => giveSlot s k en
    | none => s
  else s

/-- Free slots take entries (R337); the lowest-numbered slot first (R11 leaves the slot open). -/
def giveSlots (s : State) : State := fillSlot (fillSlot (fillSlot (fillSlot s 0) 1) 2) 3

/-- Re-evaluates channel `n` of the resident context and gives free slots. -/
def reevaluate (s : State) (n : Nat) : State := giveSlots (dispatchChan s n)

end Sys2Proof.Machine
end

