-- ==== Sys2Proof/Machine/Ops.lean ====
section
/-! DEFINITION. The named operations over the state: how a meaning runs, sending, reports, taking a trap (R349 to R357)
and returning from a break (R324). -/
namespace Sys2Proof.Machine

/-- What one step answers. -/
abbrev Out := Host.Outcome State Fault Refusal

/-- How a meaning stops short: held at issue, trapped, an event without a subject (it has no effect), or with a state
of its own (a request has left and the stream waits; or effects stand although the instruction does not complete). -/
inductive Stop where
  | hold (h : Hold)
  | trap (t : TrapInfo)
  | noSubject
  | ask (s : State)
  deriving DecidableEq, Repr

/-- An effect over the state. A stop discards the state it had written (R9). -/
abbrev Eff (α : Type) := StateT State (Except Stop) α

def trapWith {α : Type} (c : Cause) (detail : Nat) (addr : Word := 0) : Eff α :=
  throw (.trap { cause := c, detail := BitVec.ofNat 32 detail, addr := addr })

def holdOther {α : Type} : Eff α := throw (.hold .other)

def holdQueue {α : Type} (code : Nat) : Eff α := throw (.hold (.queue (BitVec.ofNat 8 code)))

/-- The thing that the event is about is not there: nothing happens. -/
def noSubject {α : Type} : Eff α := throw .noSubject

/-- Codes of causes (R349 Table 1). -/
def causeCode : Cause → Nat
  | .none => 0x00 | .illegalOp => 0x01 | .streamMismatch => 0x02 | .priv => 0x03 | .capTag => 0x04
  | .capSealed => 0x05 | .capPerm => 0x06 | .capBounds => 0x07 | .foreignStore => 0x08 | .misalign => 0x09
  | .pageNotPresent => 0x0A | .pagePerm => 0x0B | .fetchNx => 0x0C | .seqRegress => 0x0D | .chainNotArmed => 0x0E
  | .chainConflict => 0x0F | .chainAbsent => 0x10 | .queueDeadlock => 0x11 | .watchdog => 0x12 | .numNan => 0x13
  | .numFlag => 0x14 | .gangTimeout => 0x15 | .endpoint => 0x16 | .spillExhausted => 0x17 | .stageFull => 0x18
  | .trap => 0x19 | .brk => 0x1A | .laneBounds => 0x1B | .eccUncorrectable => 0x1C | .sidingFull => 0x1D
  | .launchAbort => 0x1E

/-- Details (R355 Table 6). -/
def dtlCrNumber : Nat := 0x07
def dtlTcwReserved : Nat := 0x08
def dtlOperand : Nat := 0x09
def dtlTcwValue : Nat := 0x0A
def dtlShape : Nat := 0x0B
def dtlGangShape : Nat := 0x0C
def dtlPortState : Nat := 0x0D
def dtlNoBreak : Nat := 0x0E
def dtlNoPackage : Nat := 0x01
def dtlSramRange : Nat := 0x02
def dtlHostCore : Nat := 0x03
def dtlReadOnly : Nat := 0x04
def dtlTolerant : Nat := 0x05
def dtlNoTags : Nat := 0x06
def dtlCachePortion : Nat := 0x07
def dtlNotScratchpad : Nat := 0x08
def dtlEngineSpace : Nat := 0x09
def dtlSeqSpace : Nat := 0x0A
def dtlSchedArea : Nat := 0x0B

/-! ### Tasks -/

/-- The task that runs in slot `k`. -/
def taskIn (s : State) (k : Nat) : Option Task :=
  match slotAt s k with
  | .running t => some t
  | _ => none

def putTask (s : State) (k : Nat) (t : Task) : State := setSlot s k (.running t)

def curK (s : State) : Nat := s.cur.1.toNat

/-- The task whose instruction is being issued. -/
def theTask : Eff Task := do
  let s ← get
  match taskIn s (curK s) with
  | some t => pure t
  | none => noSubject

def setTheTask (t : Task) : Eff Unit := modify (fun s => putTask s (curK s) t)

def modTask (f : Task → Task) : Eff Unit := do
  let t ← theTask
  setTheTask (f t)

def theStream : Eff Stream := do
  let s ← get
  pure s.cur.2

def streamOf (t : Task) : Stream → StreamSt
  | .A => t.sa
  | .E => t.se

def setStream (t : Task) (st : Stream) (x : StreamSt) : Task :=
  match st with
  | .A => { t with sa := x }
  | .E => { t with se := x }

def setPc (t : Task) (st : Stream) (pc : Word) : Task := setStream t st { streamOf t st with pc := pc }

def setWait (t : Task) (st : Stream) (w : Wait) : Task := setStream t st { streamOf t st with wait := w }

def curPc (t : Task) (st : Stream) : Word := (streamOf t st).pc

/-- The next instruction in program order. -/
def advance : Eff Unit := do
  let st ← theStream
  modTask (fun t => setPc t st (curPc t st + 4))

def jumpTo (pc : Word) : Eff Unit := do
  let st ← theStream
  modTask (fun t => setPc t st pc)

def setTheWait (w : Wait) : Eff Unit := do
  let st ← theStream
  modTask (fun t => setWait t st w)

/-- A request leaves with the changes of `f`, and the issuing stream waits. -/
def askAndWait {α : Type} (f : State → State) (w : Wait) : Eff α := do
  let s ← get
  let t ← theTask
  throw (.ask (f (putTask s (curK s) (setWait t s.cur.2 w))))

def theWait : Eff Wait := do
  let t ← theTask
  let st ← theStream
  pure (streamOf t st).wait

/-- The scalar queue of a port: 0 to 3 `lq`, 4 and 5 `sq` (R134 Table 3). -/
def portQueue (t : Task) (p : Nat) : Queue Word :=
  if p < 4 then vget t.lq p [] else vget t.sq (p - 4) []

def setPortQueue (t : Task) (p : Nat) (q : Queue Word) : Task :=
  if p < 4 then { t with lq := vset t.lq p q } else { t with sq := vset t.sq (p - 4) q }

/-- Every task of this core: in a slot, suspended, or in the image of a context. -/
def mapTasks (f : Task → Task) (s : State) : State :=
  { s with
    slots := s.slots.map (fun x => match x with
      | .running t => .running (f t)
      | .held t o => .held (f t) o
      | x => x)
    cx := { s.cx with susp := s.cx.susp.map (fun p => (f p.1, p.2)) }
    others := s.others.map (fun c => { c with susp := c.susp.map (fun p => (f p.1, p.2)) }) }

/-- The stream that waits as `w` has its answer `v`. -/
def answerWait (s : State) (w v : Wait) : State :=
  let f := fun (z : StreamSt) => if z.wait = w then { z with wait := v } else z
  mapTasks (fun t => { t with sa := f t.sa, se := f t.se }) s

/-! ### Sending -/

/-- A number kept for a pair of cores; 0 for a pair that has none (R364). -/
def pairNo (l : List ((BitVec 9 × BitVec 10) × Nat)) (k : BitVec 9 × BitVec 10) : Nat :=
  match l.find? (fun q => decide (q.1 = k)) with
  | some q => q.2
  | none => 0

def setPairNo (l : List ((BitVec 9 × BitVec 10) × Nat)) (k : BitVec 9 × BitVec 10) (n : Nat) :
    List ((BitVec 9 × BitVec 10) × Nat) := l.filter (fun q => decide (q.1 ≠ k)) ++ [(k, n)]

/-- A message-class packet leaves this core with the number of its pair (R309, R364); one to this core itself comes back
as its arrival, numbered the same way. -/
def sendPacket (s : State) (pkg : BitVec 9) (core : BitVec 10) (own : Instr) (p : Nat → Packet) : State :=
  let n := pairNo s.packetSent (pkg, core)
  let s1 := { s with packetSent := setPairNo s.packetSent (pkg, core) (n + 1) }
  if pkg = s.pkg ∧ core = s.core then
    { s1 with inputs := s1.inputs ++
        [{ row := own, access := { Access.none with packet := some { pkg := pkg, core := core, seq := n } } }] }
  else emit s1 (p n)

/-- How a message arrives. -/
def arrivalOf (m : Message) : Instr := if msgKind m = kindSpawn then .spawnArrival m else .messageArrival m

/-- A message leaves. -/
def sendMessage (s : State) (m : Message) : State :=
  sendPacket s (msgPkg m) (msgCore m) (arrivalOf m) (fun n => .message m n)

/-- A stream flit leaves (R314). -/
def sendStream (s : State) (p : Port) (ctx : BitVec 12) (sup : Bool) (item : StreamItem) : State :=
  let f : StreamFlit :=
    { spkg := s.pkg, score := s.core, sctx := ctx, dctx := p.dctx, chan := p.chan, sup := sup,
      stream := p.stream, openRecord := p.record, item := item }
  sendPacket s p.dpkg p.dcore (.streamWordArrival f) (fun n => .stream f p.dpkg p.dcore n)

/-- A report payload (R354 Table 5). -/
def reportPayload (cause cls who chan msgid : Nat) (detail : BitVec 32) (pc addr : Word) (extra : List Byte) :
    List Byte :=
  leBytes 1 cause ++ leBytes 1 cls ++ leBytes 1 who ++ leBytes 1 chan ++ leBytes 2 msgid ++ leBytes 2 0 ++
    leBytes 4 detail.toNat ++ leBytes 4 0 ++ leBytes 8 pc.toNat ++ leBytes 8 addr.toNat ++ takePad 16 extra

/-- A message that the core itself makes for context `cx`, taking its counter (R306). -/
def coreMessage (s : State) (cx : CtxState) (chan kind : Nat) (payload : List Byte) (r : Option Record) : Message :=
  mkMessage (mkHdr0 s.core s.pkg (BitVec.ofNat 6 chan) s.core s.pkg)
    (mkHdr1 cx.msgCounter 48 kind cx.num false cx.num) payload r

/-- The launch agent's message counter of a context (R307). -/
def agentCounter (s : State) (ctx : BitVec 12) : BitVec 16 :=
  match s.pk.agentMsg.find? (fun p => decide (p.1 = ctx)) with
  | some p => p.2
  | none => 0

def bumpAgent (s : State) (ctx : BitVec 12) : State :=
  let rest := s.pk.agentMsg.filter (fun p => decide (p.1 ≠ ctx))
  { s with pk := { s.pk with agentMsg := rest ++ [(ctx, agentCounter s ctx + 1)] } }

/-- A FAULT report to the supervisor channel of this core in the resident context; with none it is lost (R331). -/
def faultReport (s : State) (payload : List Byte) : State :=
  match supChannel s.cx with
  | some n =>
    sendMessage { s with cx := { s.cx with msgCounter := s.cx.msgCounter + 1 } }
      (coreMessage s s.cx n kindFault payload none)
  | none =>
    { s with regs := { s.regs with runqlost := BitVec.ofNat 16 (satAdd 0xFFFF s.regs.runqlost.toNat 1) } }

/-! ### NUMSUM (R169, R170) -/

def orNumsum (cx : CtxState) (flags : Nat) : CtxState :=
  { cx with numsum := cx.numsum ||| BitVec.ofNat 64 (flags % 32) }

def addCvtsat (cx : CtxState) (n : Nat) : CtxState :=
  { cx with numsum := putField cx.numsum 32 32 (satAdd 0xFFFFFFFF (field cx.numsum 32 32) n) }

/-! ### Leaving a slot -/

/-- The slot that a reservation of core (`spkg`, `score`) under the name `id` holds is free (R313). -/
def freeReserved (s : State) (id : Nat) (spkg : BitVec 9) (score : BitVec 10) : State :=
  { s with slots := s.slots.map (fun x => match x with
      | .reserved i p c _ => if i = id ∧ p = spkg ∧ c = score then .free else x
      | _ => x) }

/-- A reservation is given back to its target (R313). -/
def releaseSpawn (s : State) (id : Nat) (pkg : BitVec 9) (core : BitVec 10) : State :=
  if pkg = s.pkg ∧ core = s.core then freeReserved s id s.pkg s.core else emit s (.spawnRelease id pkg core)

/-- The reservations of staged SPAWN messages are released (R313, R350). -/
def releaseStaged (s : State) : List Staged → State
  | [] => s
  | .spawn m id :: r => releaseStaged (releaseSpawn s id (msgPkg m) (msgCore m)) r
  | _ :: r => releaseStaged s r

/-- Closes an open port (R314): SCLOSE's marker, or ABORT. -/
def abortPort (s : State) (t : Task) : State :=
  match t.port with
  | none => s
  | some p => sendStream s p t.ctx t.sup .abort

/-- A held drain row is released when the task that the row's message activated is aborted as DROP (R281). -/
def releaseRow (s : State) (row : BitVec 9) (id : BitVec 16) : State :=
  match s.mxRun with
  | some r =>
    if r.rowMsgs.contains (row, id) then
      { s with mxRun := some { r with heldRows := r.heldRows.filter (fun x => decide (x ≠ row)) } }
    else s
  | none => s

/-- A pre-epoch task has gone (R57): with none left the sweeper that waits has reported. -/
def noPreEpoch (s : State) : Bool :=
  (List.range 4).all (fun k => match slotAt s k with
    | .running t => !t.preEpoch
    | .held t _ => !t.preEpoch
    | _ => true) && s.cx.susp.all (fun p => !p.1.preEpoch)

def retireEpoch (s : State) : State :=
  if s.sweep = .wait ∧ s.cx.num = s.sweepCtx ∧ noPreEpoch s = true then { emit s (.sweepReport 3) with sweep := .reported } else s

/-- A reservation that a SPAWN under way has asked for is given back (R313). -/
def releaseAsked (s : State) (w : Wait) : State :=
  match w with
  | .spawn id pkg core _ _ g => if g = some false then s else releaseSpawn s id pkg core
  | _ => s

/-- The SPAWN reservations of a task, staged or asked for, are released (R313, R350). -/
def releaseSpawns (s : State) (t : Task) : State :=
  releaseAsked (releaseAsked (releaseStaged s t.staged) t.sa.wait) t.se.wait

/-- The record's X (R85): the observation table holds a pair, or has overflowed. -/
def recordX (t : Task) : Bool := t.obsOver || !t.obs.isEmpty

/-- The stores of a task that ends keep what its observation table says of their records (R85). -/
def keepX (s : State) (t : Task) : State :=
  { s with sb := s.sb.map (fun e => if e.tid = t.tid then { e with x := recordX t } else e) }

/-- What an abort does to all that the task leaves behind (R350 Table 2), its slot apart. Every abort counts as a task that has
ended since the restore (R346; log entry 180, DESIGN CHOICE). -/
def abortEffects (s : State) (t : Task) (drop : Bool) : State :=
  let s1 := abortPort (releaseSpawns (keepX s t) t) t
  let s2 := { s1 with
    cx := orNumsum { s1.cx with results := s1.cx.results.filter (fun r => decide (r.tid ≠ t.tid)), taskEnded := true }
      t.numflags.toNat,
    pending := dropReads (fun p => decide (p.tid = t.tid) && (decide (p.purpose = .load) || decide (p.purpose = .fetch)))
      s1.pending }
  let s3 := match t.drainRow with
    | some row => if drop then releaseRow s2 row t.msgid else s2
    | none => s2
  if t.spawned then s3
  else
    let c1 := if drop then freeHead s3.cx t.chan.toNat else s3.cx
    refill { s3 with cx := setChanActive c1 t.chan.toNat false } t.chan.toNat

/-- Class of an abort: 1 RETURN, 2 DROP (R352). -/
def abortClass (t : Task) : Nat := if t.drop then 2 else 1

def whoByte (st : Stream) (k : Nat) (cmd task : Bool) : Nat :=
  (match st with | .A => 0 | .E => 1) + k % 4 * 2 + cmd.toNat * 8 + task.toNat * 16

/-- The entry is the resumption of a task. -/
def resumes (tid : Nat) : RunEntry → Bool
  | .resume t _ => decide (t = tid)
  | .chan _ _ _ => false

/-- Removes a suspended or HELD task by its name. -/
def dropSuspended (s : State) (tid : Nat) : State :=
  let cx1 := { s.cx with
    susp := s.cx.susp.filter (fun p => decide (p.1.tid ≠ tid))
    runq := s.cx.runq.filter (fun en => !resumes tid en) }
  let s1 := { s with cx := cx1 }
  { s1 with slots := s1.slots.map (fun x => match x with
      | .held t _ => if t.tid = tid then .free else x
      | _ => x) }

/-- A task found among the suspended and HELD ones. -/
def findSuspended (s : State) (tid : Nat) : Option (Task × SuspendOn) :=
  match s.cx.susp.find? (fun p => decide (p.1.tid = tid)) with
  | some p => some p
  | none => (List.range 4).findSome? (fun k => match slotAt s k with
      | .held t on => if t.tid = tid then some (t, on) else none
      | _ => none)

/-- The supervisor task of a BRK report ended without ERET: the suspended task is aborted with cause BRK (R324). -/
def abortBroken (s : State) (t : Task) : State :=
  match t.names with
  | none => s
  | some tid =>
    match findSuspended s tid with
    | some (b, .brk k) =>
      let st : Stream := if b.trapcause.getLsbD 10 then .E else .A
      let s1 := abortEffects (dropSuspended s tid) b b.drop
      faultReport s1 (reportPayload 0x1A (abortClass b) (whoByte st k.toNat false true) b.chan.toNat b.msgid.toNat 0
        b.trapaddr 0 [])
    | _ => s

/-- Takes an abort in slot `k`: the effects of Table 2 of R350, the FAULT report of R354, the slot freed and given. -/
def takeAbort (s : State) (k : Nat) (t : Task) (st : Stream) (cmd : Bool) (info : TrapInfo) (pc : Word) : State :=
  let s1 := setSlot s k .free
  let s2 := abortEffects s1 t t.drop
  let s3 := faultReport s2 (reportPayload (causeCode info.cause) (abortClass t) (whoByte st k cmd true) t.chan.toNat
    t.msgid.toNat info.detail pc info.addr [])
  let s4 := if t.drop then abortBroken s3 t else s3
  giveSlots (retireEpoch s4)

/-- The trap registers as a SUSPEND writes them (R352 Table 3). -/
def trapRegs (t : Task) (st : Stream) (info : TrapInfo) (pc : Word) : Task :=
  { t with
    trapcause := BitVec.ofNat 64 (causeCode info.cause + (match st with | .A => 0 | .E => 1) * 2 ^ 10 +
      info.detail.toNat * 2 ^ 32),
    trapaddr := pc,
    trapmsg := BitVec.ofNat 22 (t.msgid.toNat + t.chan.toNat * 2 ^ 16),
    late := t.late.filter (fun l => decide (l.num.toNat < 2 ∨ 4 < l.num.toNat)) }

/-- A reservation that a load has made and not filled is given up (R9, R136). -/
def dropReserved {α : Type} (q : Queue α) : Queue α := q.filter (fun x => x.isSome)

/-- The trapping instruction pops and pushes nothing (R9, R136): a load under way in stream `st` gives its reserved entry
up, and the offset that it popped is back at the head of its queue. -/
def undoIssue (t : Task) (st : Stream) : Task :=
  match st, (streamOf t st).wait with
  | .A, .read _ _ =>
    let t1 := { t with lq := t.lq.map dropReserved, vlq := dropReserved t.vlq, popped := none }
    match t.popped with
    | some (p, w) => setWait (setPortQueue t1 p (some w :: portQueue t1 p)) st .ready
    | none => setWait t1 st .ready
  | _, _ => setWait t st .ready

/-- What a stopped stream still waits on: a load that has issued, an atomic that has entered the store buffer, a
reservation or a fence under way; anything else is asked again (R150, R357). -/
def keptWait (s : State) (w : Wait) : Wait :=
  match w with
  | .read id none => if s.pending.any (fun p => decide (p.id = id) && decide (p.purpose = .load)) then w else .ready
  | .read _ (some _) => w
  | .atomic _ _ => w
  | .lost _ => w
  | .spawn _ _ _ _ _ _ => w
  | .unreachable => w
  | .fenceh _ _ _ => w
  | _ => .ready

/-- Both streams of a task stop. -/
def stopStreams (s : State) (t : Task) : Task :=
  { t with sa := { t.sa with wait := keptWait s t.sa.wait }, se := { t.se with wait := keptWait s t.se.wait } }

/-- A free entry of the suspend store of the resident context: entries hold 16 KiB each (R329, R338). -/
def suspPlace (cx : CtxState) : Nat := cx.chanbase.toNat + 4096 + 8192 + 16384 * cx.susp.length

/-- The task context is saved into the suspend store, a store by the owner (R12, R150, R329). -/
def saveTask (cx : CtxState) (t : Task) (on : SuspendOn) : CtxState :=
  { scratchWrite cx (suspPlace cx) (leBytes 16384 (Config.taskBytes cx.susp.length t).toNat) with
    susp := cx.susp ++ [(t, on)] }

/-- Takes a SUSPEND in slot `k` (R350, R352, R357): into the suspend store, or HELD when it is full (R338). -/
def takeSuspend (s : State) (k : Nat) (t : Task) (st : Stream) (info : TrapInfo) (pc : Word) (on : SuspendOn) :
    State :=
  let t1 := stopStreams s (undoIssue (trapRegs t st info pc) st)
  let s0 := { s with pending := s.pending.filter (fun p => !(decide (p.tid = t.tid) && decide (p.purpose = .fetch))) }
  if s0.cx.susp.length < s0.cx.suspCap then giveSlots (setSlot { s0 with cx := saveTask s0.cx t1 on } k .free)
  else setSlot s0 k (.held t1 on)

/-- Entries of the fault-wait list of a slice (R66). -/
def faultWaitDepth : Nat := 256

/-- Enters a requester of `va` in the fault-wait list of the covering slice, when there is room (R66). -/
def enterWaitList (s : State) (va : Word) (w : FaultWait) : State × Bool :=
  let n := sliceNo w.ctx va
  let z := sliceAt s n
  if z.waiting.length < faultWaitDepth then (putSlice s n { z with waiting := z.waiting ++ [w] }, true) else (s, false)

/-- A task of this core that faults at its own page enters the list. -/
def enterFaultWait (s : State) (t : Task) (k : Nat) (va : Word) : State × Bool :=
  if isOwn s va then
    enterWaitList s va { ctx := t.ctx, page := va >>> 16, owner := ownId s, slot := BitVec.ofNat 2 k, tid := t.tid }
  else (s, true)

/-- TAKING A TRAP (R350 to R357), the one operation for every cause: in slot `k`, by stream `st`, with the PC that
TRAPADDR records. PAGE_NOT_PRESENT and BRK suspend; every other cause aborts by the channel's policy. -/
def takeTrapAt (s : State) (k : Nat) (st : Stream) (cmd : Bool) (info : TrapInfo) (pc : Word) : State :=
  match taskIn s k with
  | none => s
  | some t =>
    match info.cause with
    | .eccUncorrectable => takeAbort (if isOwn s info.addr then countUncorr s else s) k t st cmd info pc
    | .pageNotPresent =>
      let p := enterFaultWait s t k info.addr
      takeSuspend p.1 k t st info pc (.page info.addr p.2)
    | .brk =>
      let s1 := faultReport s (reportPayload 0x1A 0 (whoByte st k false true) t.chan.toNat t.msgid.toNat 0 pc 0 [])
      takeSuspend s1 k (setPc t st (pc + 4)) st info pc (.brk (BitVec.ofNat 2 k))
    | _ => takeAbort s k t st cmd info pc

/-- A trap of stream `st`'s instruction in slot `k`: a pending command trap is taken in its place (R351). -/
def takeOwnTrap (s : State) (k : Nat) (st : Stream) (info : TrapInfo) (pc : Word) : State :=
  match taskIn s k with
  | none => s
  | some t =>
    match t.cmdTrap with
    | some c => takeTrapAt s k c.stream true c.info c.pc
    | none => takeTrapAt s k st false info pc

/-- A trap of the instruction being issued: TRAPADDR is its own address. -/
def takeTrap (s : State) (info : TrapInfo) : State :=
  match taskIn s (curK s) with
  | none => s
  | some t => takeTrapAt s (curK s) s.cur.2 false info (curPc t s.cur.2)

/-- Wakes a suspended or HELD task (R338): a resumption entry, or RUNNING again in its slot. A HELD one whose context is
switching runs in its slot too, and the save waits for it (R338 against Table 7 of R361; log entry 181, DEDUCED). -/
def wakeTask (s : State) (tid : Nat) : State :=
  let s1 := if s.cx.susp.any (fun p => decide (p.1.tid = tid) && decide (p.2 ≠ .woken)) then
      { s with cx := pushRun { s.cx with
          susp := s.cx.susp.map (fun p => if p.1.tid = tid then (p.1, .woken) else p) } (.resume tid 0) }
    else s
  giveSlots { s1 with slots := s1.slots.map (fun x => match x with
      | .held t _ => if t.tid = tid then .running t else x
      | _ => x) }

/-- RETURN FROM A BREAK (R324): the task that the activating BRK report names goes on at the instruction after its
BRK. Refused when the message is no BRK report or the task is no longer suspended there. -/
def returnFromBreak : Eff Unit := do
  let t ← theTask
  let s ← get
  match t.names with
  | none => trapWith .illegalOp dtlNoBreak
  | some tid =>
    match findSuspended s tid with
    | some (_, .brk _) => do
      modTask (fun t => { t with names := none })
      modify (fun s => wakeTask s tid)
    | _ => trapWith .illegalOp dtlNoBreak

/-! ### How a meaning answers -/

/-- An instruction at issue: its effect, its trap taken, or held (which leaves the state as it was). -/
def issue (m : Eff Unit) (s : State) : Out :=
  match m.run s with
  | .ok (_, s') => .next s'
  | .error (.hold h) => .next { s with hold := h }
  | .error (.trap i) => .next (takeTrap s i)
  | .error .noSubject => .next { s with hold := .absent }
  | .error (.ask s') => .next s'

/-- The same for an instruction that goes on to the next one. -/
def issueSeq (m : Eff Unit) (s : State) : Out := issue (do m; advance) s

/-- An event: it happens, it waits (the state stays), or it has no subject. -/
def event (m : Eff Unit) (s : State) : Out :=
  match m.run s with
  | .ok (_, s') => .next s'
  | .error (.hold h) => .next { s with hold := h }
  | .error (.trap i) => .next (takeTrap s i)
  | .error .noSubject => .next { s with hold := .absent }
  | .error (.ask s') => .next s'

/-- A slice finds no Active key slot of the context (`key`), or context state that cannot be corrected: the context ends,
and with it what the instruction would do (R65, R28, R359). -/
def fatalNow {α : Type} (key : Bool) : Eff α := do
  let s ← get
  let t ← theTask
  throw (.ask (endContext s t.ctx key))

/-- A task is a supervisor task (R147, R316). -/
def needSupervisor : Eff Unit := do
  let t ← theTask
  if t.sup then pure () else trapWith .priv 0

end Sys2Proof.Machine
end

