-- ==== Sys2Proof/Machine/Operands.lean ====
section
/-! DEFINITION. Operand forms: the register files with their zero registers (R131, R132), capability registers (R37),
the queues and their ports (R134 to R137, R175). -/
namespace Sys2Proof.Machine

/-! ### Registers -/

/-- `a` or `e` register of a task; register 0 reads 0 (R131). -/
def regVal (t : Task) (st : Stream) (r : BitVec 5) : Word :=
  if r = 0 then 0
  else match st with
    | .A => t.a[r.toNat]
    | .E => t.e[r.toNat]

/-- Writes a register; register 0 discards (R131). -/
def setReg (t : Task) (st : Stream) (r : BitVec 5) (v : Word) : Task :=
  if r = 0 then t
  else match st with
    | .A => { t with a := t.a.set r.toNat v }
    | .E => { t with e := t.e.set r.toNat v }

/-- `c` register; `c0` is the null capability (R37). -/
def capVal (t : Task) (r : Nat) : Cap := if r = 0 then Cap.null else vget t.c r Cap.null

/-- Writes a `c` register; `c0` discards (R37). -/
def setCap (t : Task) (r : Nat) (c : Cap) : Task := if r = 0 then t else { t with c := vset t.c r c }

def vecVal (t : Task) (r : BitVec 5) : VecWord := t.v[r.toNat]

def setVec (t : Task) (r : BitVec 5) (x : VecWord) : Task := { t with v := t.v.set r.toNat x }

/-- `m` register; `m0` reads all ones (R131). -/
def maskVal (t : Task) (r : BitVec 3) : Word := if r = 0 then BitVec.allOnes 64 else t.m[r.toNat]

def setMask (t : Task) (r : BitVec 3) (x : Word) : Task := if r = 0 then t else { t with m := t.m.set r.toNat x }

def readReg (r : BitVec 5) : Eff Word := do
  let t ← theTask
  let st ← theStream
  pure (regVal t st r)

def writeReg (r : BitVec 5) (v : Word) : Eff Unit := do
  let st ← theStream
  modTask (fun t => setReg t st r v)

/-- The capability that a 5-bit field names (R176). -/
def readCap (r : BitVec 5) : Eff Cap := do
  let t ← theTask
  pure (capVal t r.toNat)

def writeCap (r : BitVec 5) (c : Cap) : Eff Unit := modTask (fun t => setCap t r.toNat c)

/-! ### Queues -/

/-- Depth of the scalar queues and of the vector queues (R134). -/
def scalarDepth : Nat := 8
def vectorDepth : Nat := 4

/-- Pops the oldest element; waits while there is none or it is reserved (R136). -/
def popPort (p : Nat) : Eff Word := do
  let t ← theTask
  match portQueue t p with
  | some w :: r => do
    setTheTask (setPortQueue t p r)
    pure w
  | _ => holdQueue (0x10 + p)

/-- Element `i` of a queue, left in it; waits while it is not there. -/
def peekPort (p i : Nat) : Eff Word := do
  let t ← theTask
  match (portQueue t p)[i]? with
  | some (some w) => pure w
  | _ => holdQueue (0x10 + p)

/-- Removes the oldest element of a queue. -/
def dropPort (p : Nat) : Eff Unit := modTask (fun t => setPortQueue t p ((portQueue t p).drop 1))

/-- A source that is popped only when the instruction completes. -/
def peekSrc (r : BitVec 5) (marked : Bool) : Eff Word :=
  if marked then peekPort r.toNat 0 else readReg r

def dropSrc (r : BitVec 5) (marked : Bool) : Eff Unit :=
  if marked then dropPort r.toNat else pure ()

/-- The destination queue has a free entry (R136). -/
def needRoom (p : Nat) : Eff Unit := do
  let t ← theTask
  if (portQueue t p).length < scalarDepth then pure () else holdQueue (0x10 + p)

def pushPort (p : Nat) (w : Word) : Eff Unit := do
  needRoom p
  modTask (fun t => setPortQueue t p (portQueue t p ++ [some w]))

/-- Fills the entry that was reserved (R136): the first one without a value. -/
def fillFirst {α : Type} (x : α) : Queue α → Queue α
  | [] => []
  | none :: r => some x :: r
  | some y :: r => some y :: fillFirst x r

/-- Reserves an entry of a scalar queue (R136). -/
def reservePort (p : Nat) : Eff Unit := do
  needRoom p
  modTask (fun t => setPortQueue t p (portQueue t p ++ [none]))

def fillPort (p : Nat) (w : Word) : Eff Unit :=
  modTask (fun t => setPortQueue t p (fillFirst w (portQueue t p)))

/-- The vector queues: code 0x16 `vlq`, 0x17 `vsq` (R355). -/
def reserveVlq : Eff Unit := do
  let t ← theTask
  if t.vlq.length < vectorDepth then modTask (fun t => { t with vlq := t.vlq ++ [none] }) else holdQueue 0x16

def fillVlq (x : VecWord) : Eff Unit := modTask (fun t => { t with vlq := fillFirst x t.vlq })

def popVlq : Eff VecWord := do
  let t ← theTask
  match t.vlq with
  | some x :: r => do
    setTheTask { t with vlq := r }
    pure x
  | _ => holdQueue 0x16

def pushVsq (x : VecWord) : Eff Unit := do
  let t ← theTask
  if t.vsq.length < vectorDepth then setTheTask { t with vsq := t.vsq ++ [some x] } else holdQueue 0x17

/-- The oldest element of `vsq`, left in it. -/
def peekVsq : Eff VecWord := do
  let t ← theTask
  match t.vsq with
  | some x :: _ => pure x
  | _ => holdQueue 0x17

def dropVsq : Eff Unit := modTask (fun t => { t with vsq := t.vsq.drop 1 })

/-- A source: a register, or a pop when it is marked (R135). -/
def readSrc (r : BitVec 5) (marked : Bool) : Eff Word :=
  if marked then popPort r.toNat else readReg r

/-- Room for a marked destination. -/
def needDst (r : BitVec 5) (marked : Bool) : Eff Unit :=
  if marked then needRoom r.toNat else pure ()

/-- A destination: a register, or a push when it is marked (R135). -/
def writeDst (r : BitVec 5) (marked : Bool) (v : Word) : Eff Unit :=
  if marked then pushPort r.toNat v else writeReg r v

/-- Bit `k` of a mark field. -/
def marked {n : Nat} (q : BitVec n) (k : Nat) : Bool := q.getLsbD k

/-- An operation of two sources and one destination, each of which may be a queue (R175, R195). -/
def binaryOp (f : Word → Word → Word) (d a b : BitVec 5) (q : BitVec 3) : Eff Unit := do
  needDst d (marked q 0)
  let x ← readSrc a (marked q 1)
  let y ← readSrc b (marked q 2)
  writeDst d (marked q 0) (f x y)

/-- An operation of one source and one destination. -/
def unaryOp (f : Word → Word) (d a : BitVec 5) (q : BitVec 2) : Eff Unit := do
  needDst d (marked q 0)
  let x ← readSrc a (marked q 1)
  writeDst d (marked q 0) (f x)

/-- A source register and an immediate: I format carries no marks (R175). -/
def immOp (f : Word → Word) (d a : BitVec 5) : Eff Unit := do
  let x ← readReg a
  writeReg d (f x)

end Sys2Proof.Machine
end

