-- ==== Sys2Proof/Machine/Flags.lean ====
section
/-! DEFINITION. Numeric flags: the sticky flags of a task, the counts of the context and their traps (R168 to R171). -/
namespace Sys2Proof.Machine

/-- Flags in NUMFLAGS order (R168 Table 8). -/
def flInvalid : Nat := 1
def flOverflow : Nat := 2
def flUnderflow : Nat := 4
def flInexact : Nat := 8
def flSat : Nat := 16

/-- Union of two flag sets. -/
def orFlags (f g : Nat) : Nat := f ||| g

/-- The newest value written to a register that matrix commands sample, while it waits (R145). -/
def lateValue (s : State) (n : BitVec 12) : Option Word :=
  (s.lateCrws.reverse.find? (fun p => decide (p.num = n))).map (·.value)

/-- NUMTRAP as the tasks see it. -/
def numtrapNow (s : State) : BitVec 6 :=
  match lateValue s 0x10C#12 with
  | some v => v.extractLsb' 0 6
  | none => s.cx.numtrap

/-- Entries that a queue holds or has reserved, by the numbers of QTEST (R219). -/
def queueCount (t : Task) (q : Nat) : Nat :=
  if q < 6 then (portQueue t q).length else if q = 6 then t.vlq.length else t.vsq.length

/-! ### Task registers between the streams (R218)

A field of the task holds the newest value written. `late` holds the writes that the other stream does not see yet, oldest
first; those of one register are all by one stream. -/

def isLateReg (n : BitVec 12) : Bool := decide (n.toNat ≤ 5) || decide (n = 0xA00)

def setTaskReg (t : Task) (n : BitVec 12) (v : Word) : Task :=
  match n.toNat with
  | 0 => { t with numflags := v.extractLsb' 0 5 }
  | 1 => { t with fpmode := v.extractLsb' 0 4 }
  | 2 => { t with trapcause := v &&& 0xFFFFFFFF00000FFF }
  | 3 => { t with trapaddr := v }
  | 4 => { t with trapmsg := v.extractLsb' 0 22 }
  | 5 => { t with wdbudget := v.extractLsb' 0 32 }
  | k => if k = 0xA00 then { t with keysel := v.extractLsb' 0 10 } else t

def taskReg (t : Task) (n : BitVec 12) : Word :=
  match n.toNat with
  | 0 => t.numflags.setWidth 64
  | 1 => t.fpmode.setWidth 64
  | 2 => t.trapcause
  | 3 => t.trapaddr
  | 4 => t.trapmsg.setWidth 64
  | 5 => t.wdbudget.setWidth 64
  | k => if k = 0xA00 then t.keysel.setWidth 64 else 0

/-- The task as a stream sees its registers: as they were before the oldest write that it does not see. -/
def taskView (t : Task) (st : Stream) : Task :=
  t.late.reverse.foldl (fun u l => if l.by_ = st then u else setTaskReg u l.num l.before) t

/-- FPMODE as the execute stream sees it (R168, R263). -/
def modeOf (t : Task) : BitVec 4 := (taskView t .E).fpmode

/-- Stream `st` writes a register; the other sees it at once, or with `late` as R138 orders it. The writer now sees no
older write of the register. -/
def crwTask (t : Task) (st : Stream) (late : Bool) (n : BitVec 12) (v : Word) : Task :=
  let mine := t.late.filter (fun l => decide (l.num ≠ n) || decide (l.by_ = st))
  let rest := t.late.filter (fun l => decide (l.num ≠ n))
  if !late then { setTaskReg t n v with late := rest }
  else { setTaskReg t n v with
    late := mine ++ [{ num := n, before := taskReg t n, by_ := st, ahead := (List.range 8).map (queueCount t), quiet := 0xFFFF }] }

/-- The machine changes a register beside the streams' writes: whatever each stream sees of it is changed (R170). -/
def changeViews (t : Task) (n : BitVec 12) (f : Word → Word) : Task :=
  { setTaskReg t n (f (taskReg t n)) with
    late := t.late.map (fun l => if l.num = n then { l with before := f l.before } else l) }

/-- Flags set in NUMFLAGS (R168). -/
def setFlags (t : Task) (f : BitVec 5) : Task := changeViews t 0 (fun w => w ||| f.setWidth 64)

/-- What stream `st` makes known of its earlier writes, and sees of the other's, by an instruction that took the task from
`pre` to `post` (R138): `obs` is the flag that it observed, `raised` the flag that it set; `any i` lets it see the i-th
write before it has to. -/
def settleTask (pre post : Task) (st : Stream) (obs raised : Option (BitVec 4)) (any : Nat → Bool) : Task :=
  let pops := fun q => queueCount pre q - queueCount post q
  let seen := fun (l : LateTask) (i : Nat) => any i || (List.range 8).any (fun q => decide (l.ahead.getD q 0 < pops q)) ||
    (match obs with | some f => !l.quiet.getLsbD f.toNat | none => false)
  let mark := fun (l : LateTask) =>
    match raised with
    | none => l
    | some f =>
      if l.by_ = st then { l with quiet := l.quiet &&& ~~~(BitVec.twoPow 16 f.toNat) }
      else if pre.sf.getLsbD f.toNat then l else { l with quiet := l.quiet ||| BitVec.twoPow 16 f.toNat }
  let keep := fun (p : LateTask × Nat) =>
    if p.1.by_ = st then some (mark p.1)
    else if seen p.1 p.2 then none
    else some { mark p.1 with ahead := (List.range 8).map (fun q => p.1.ahead.getD q 0 - pops q) }
  { post with late := post.late.zipIdx.filterMap keep }

/-- NUM_FLAG when an enabled flag would be set, else the flags are ORed into NUMFLAGS and the saturations counted in
NUMSUM.cvtsat (R168, R169, R171). -/
def raiseFlags (f : Nat) (sats : Nat := 0) : Eff Unit := do
  let s ← get
  if (f &&& (numtrapNow s).toNat) % 32 ≠ 0 then trapWith .numFlag (f % 32)
  else do
    modTask (fun t => setFlags t (BitVec.ofNat 5 f))
    if sats = 0 then pure () else modify (fun s => { s with cx := addCvtsat s.cx sats })

end Sys2Proof.Machine
end

