-- ==== Sys2Proof/Machine/Access.lean ====
section
/-! DEFINITION. Accesses to memory: the checks of R44 and R414, translation and permits (R64, R67), the store buffer and
its forwarding (R76, R230), stalls on copies and matrix commands (R110, R270), and reads of another owner's memory
(R78, R81). -/
namespace Sys2Proof.Machine

/-! ### Ranges of the resident scratchpad -/

/-- First byte of the cache portion (R100). -/
def scratchEnd (cx : CtxState) : Nat := sramBytes - cx.split.toNat * 0x40000

/-- Bytes of the scheduler area: table, run-queue overflow ring, suspend store (R329). -/
def schedAreaBytes (cx : CtxState) : Nat := 4096 + 8192 + 16384 * cx.suspCap

/-- The scheduler ranges: receive rings and scheduler area (R329), offset and bytes. -/
def schedRanges (cx : CtxState) : List (Nat × Nat) :=
  if hasChannels cx then
    (cx.chanbase.toNat, schedAreaBytes cx) ::
      ((List.range 64).filter (fun n => chanPresent cx n)).map (fun n => (chanRbase cx n, chanRsize cx n))
  else []

/-- The range overlaps a scheduler range. -/
def inSched (cx : CtxState) (off n : Nat) : Bool := (schedRanges cx).any (fun r => overlaps off n r.1 r.2)

/-- Bytes of a chain's landing range (R288). -/
def chainBytes (c : Chain) : Nat := c.count.toNat * (if c.mode = 0 then 16 else 4)

/-- The range overlaps an armed landing range (R97). -/
def inArmed (cx : CtxState) (off n : Nat) : Bool :=
  cx.chains.toList.any (fun c => c.armed && overlaps off n c.base.toNat (chainBytes c))

/-! ### The checks of R44 -/

/-- What an access asks: authority, address, bytes, permissions needed, alignment, whether it stores, and whether the
value stored fails row 4 (R228). -/
structure Access44 where
  cap : Cap
  va : Word
  len : Nat
  perms : List Nat
  align : Nat
  store : Bool
  badValue : Bool := false

/-- This core is the window's registered device-side writer. -/
def winMine (s : State) (w : HostWin) : Bool := w.regB.getLsbD 30 && decide (field w.regB 20 10 = s.core.toNat)

/-- The range lies in a host window whose registered writer is this core (R22, R374). A window whose valid has been cleared
still counts while no window is registered over the range: the access is then refused as a translation is, by row 8
(R375). -/
def inWriterWindow (s : State) (ctx : BitVec 12) (va : Word) (n : Nat) : Bool :=
  let here := fun (w : HostWin) => winHolds ctx (vaOff va) n w && winMine s w
  decide (vaPkg va = s.pkg) &&
    (s.pk.wins.any (fun w => winValid w && here w) ||
      (!(s.pk.wins.any (fun w => winValid w && decide (w.ctx = ctx) && overlaps (vaOff va) n (winBase w) (winBytes w))) &&
        s.pk.retired.any here))

/-- Row 1: FOREIGN_STORE (R22). -/
def foreignStore (s : State) (ctx : BitVec 12) (va : Word) (n : Nat) : Bool :=
  match vaSpace va with
  | 0 => !(decide (vaPkg va = s.pkg) && decide (vaCore va = s.core))
  | 1 => !(decide (vaPkg va = s.pkg) && decide (vaCore va = s.core))
  | 2 => !inWriterWindow s ctx va n
  | _ => true

/-- Package absent or fenced off, or core out of service (R21, R370, R393). -/
def noPackage (s : State) (va : Word) : Bool :=
  !(s.members.contains (vaPkg va)) ||
    (decide (vaSpace va ≠ 2) && (if vaPkg va = s.pkg then s.outOfService.contains (vaCore va)
      else s.farOut.contains (vaPkg va, vaCore va)))

/-- Rows 2 to 6 of R44 Table 4: the cause that applies first, with its detail. -/
def capRows (a : Access44) : Option (Cause × Nat) :=
  if !a.cap.tag then some (.capTag, 0)
  else if capSealed a.cap then some (.capSealed, 0)
  else if !(a.perms.all (hasPerm a.cap)) || a.badValue then some (.capPerm, 0)
  else if !inBounds a.cap a.va.toNat a.len then some (.capBounds, 0)
  else if a.align ≠ 0 ∧ a.va.toNat % a.align ≠ 0 then some (.misalign, 0)
  else none

/-- Row 7 in the order of R414; `space` is the detail of an instruction that does not accept the space. -/
def row7 (s : State) (a : Access44) (space : Option Nat) : Option (Cause × Nat) :=
  match space with
  | some d => some (.pagePerm, d)
  | none =>
    if noPackage s a.va then some (.pagePerm, dtlNoPackage)
    else if vaSpace a.va = 2 ∧ vaCore a.va ≠ 0 then some (.pagePerm, dtlHostCore)
    else if vaSpace a.va = 1 ∧ sramBytes < vaOff a.va + a.len then some (.pagePerm, dtlSramRange)
    else if vaSpace a.va = 1 ∧ isOwn s a.va = true ∧ scratchEnd s.cx < vaOff a.va + a.len then
      some (.pagePerm, dtlCachePortion)
    else if a.store ∧ vaSpace a.va = 1 ∧ isOwn s a.va = true ∧ inSched s.cx (vaOff a.va) a.len = true then
      some (.pagePerm, dtlSchedArea)
    else none

/-- Rows 1 to 7 of R44, first failure. -/
def accessCheck (s : State) (ctx : BitVec 12) (a : Access44) (space : Option Nat) : Option (Cause × Nat) :=
  if a.store && foreignStore s ctx a.va a.len then some (.foreignStore, 0)
  else match capRows a with
    | some x => some x
    | none => row7 s a space

/-- First byte of an access from the limit on, where its start lies below it. -/
def fromLimit (va : Word) (off limit : Nat) : Word := va + BitVec.ofNat 64 (limit - off)

/-- The first byte of an access that meets a failure (R354): the first beyond the bounds or the range, else its own
first byte. -/
def faultByte (s : State) (a : Access44) (c : Cause) (d : Nat) : Word :=
  if c = .capBounds then
    if capBase a.cap ≤ a.va.toNat then fromLimit a.va a.va.toNat (capTop a.cap) else a.va
  else if c = .pagePerm ∧ d = dtlSramRange then fromLimit a.va (vaOff a.va) sramBytes
  else if c = .pagePerm ∧ d = dtlCachePortion then fromLimit a.va (vaOff a.va) (scratchEnd s.cx)
  else a.va

/-- The pieces of a range, one for each owner that it runs through: an owner's part of a space is 2^43 bytes (R21). -/
def ownerPieces (va : Word) (n : Nat) : List (Word × Nat) :=
  let a := va.toNat
  let k := a / 2 ^ 43
  if n = 0 then [(va, 0)]
  else (List.range ((a % 2 ^ 43 + n + (2 ^ 43 - 1)) / 2 ^ 43)).map (fun i =>
    (BitVec.ofNat 64 (max a ((k + i) * 2 ^ 43)), min (a + n) ((k + i + 1) * 2 ^ 43) - max a ((k + i) * 2 ^ 43)))

/-- The place of a detail in the order of R414. -/
def row7Rank (d : Nat) : Nat :=
  ([dtlNoPackage, dtlHostCore, dtlSramRange, dtlCachePortion, dtlSchedArea].findIdx? (fun x => decide (x = d))).elim 0 (· + 1)

/-- The checks of an engine's range, which may run through the memory of several owners (R45, R115): each row of R44 over all
of it, with the first byte that fails. -/
def rangeCheck (s : State) (ctx : BitVec 12) (a : Access44) (space : Word → Option Nat) : Option (Cause × Nat × Word) :=
  let ps := (ownerPieces a.va a.len).map (fun p => { a with va := p.1, len := p.2 })
  match (if a.store then ps.find? (fun p => foreignStore s ctx p.va p.len) else none), capRows a with
  | some p, _ => some (.foreignStore, 0, p.va)
  | none, some (c, d) => some (c, d, faultByte s a c d)
  | none, none =>
    let fails := ps.filterMap (fun p => (row7 s p (space p.va)).map (fun x => (x.1, x.2, faultByte s p x.1 x.2)))
    fails.find? (fun x => fails.all (fun y => decide (row7Rank x.2.1 ≤ row7Rank y.2.1)))

/-- The same as an effect. -/
def checkRange (a : Access44) (space : Word → Option Nat := fun _ => none) : Eff Unit := do
  let s ← get
  let t ← theTask
  match rangeCheck s t.ctx a space with
  | some (c, d, va) => trapWith c d va
  | none => pure ()

/-- The check as an effect: traps with the first cause that applies. -/
def checkAccess (a : Access44) (space : Option Nat := none) : Eff Unit := do
  let s ← get
  let t ← theTask
  match accessCheck s t.ctx a space with
  | some (c, d) => trapWith c d (faultByte s a c d)
  | none => pure ()

/-! ### Stalls (R110, R270) -/

/-- Rounded outward to 64-byte granules (R109). -/
def gran64 (a n : Nat) : Nat × Nat := (a / 64 * 64, (a + n + 63) / 64 * 64 - a / 64 * 64)

/-- Bytes that a command writes: its destination range (R109, R115). -/
def copyDstLen (c : CopyCmd) : Nat :=
  match c.kind with
  | .pull2 rows rowlen _ dstride => if rows = 0 then 0 else (rows - 1) * dstride + rowlen
  | .gather lane offs => lane * offs.length
  | _ => c.len

/-- COPY, PULL, PULL2 and GATHER hold a scoreboard entry (R109). -/
def holdsScore (c : CopyCmd) : Bool :=
  match c.kind with
  | .copy => true
  | .pull => true
  | .pull2 _ _ _ _ => true
  | .gather _ _ => true
  | _ => false

/-- The range at `va` overlaps the granules of a scoreboard entry (R109, R110). -/
def onScoreboard (s : State) (va : Word) (n : Nat) : Bool :=
  s.copies.any (fun c => holdsScore c &&
    let d := gran64 (capAddr c.dst).toNat (copyDstLen c)
    decide (0 < copyDstLen c) && overlaps va.toNat n d.1 d.2)

/-- The scratchpad range overlaps one that a matrix command holds, and one of the two writes (R270). -/
def onMatrixHold (s : State) (off n : Nat) (write : Bool) : Bool :=
  let hit := fun (h : Nat × Nat × Bool) => (write || h.2.2) && overlaps off n h.1 h.2.1
  s.mxQueue.any (fun c => c.holds.any hit) ||
    (match s.mxRun with | some r => r.cmd.holds.any hit | none => false)

/-- An own access waits on copies and matrix commands (R110, R270). -/
def stallOwn (va : Word) (n : Nat) (write : Bool) : Eff Unit := do
  let s ← get
  if isOwn s va && onScoreboard s va n then holdOther
  else if isOwn s va && decide (vaSpace va = 1) && onMatrixHold s (vaOff va) n write then holdOther
  else pure ()

/-! ### Own memory -/

/-- An address of the owner's space 0 or 3 lies in the range of an invalidation. -/
def inRange (inv : Invalidation) (va : Word) : Bool :=
  decide (vaPkg va = inv.pkg) && decide (vaCore va = inv.core) &&
    (if inv.level = 0 then decide (vaSpace va = 0) || decide (vaSpace va = 3)
     else decide (vaSpace va = if inv.sp3 then 3 else 0)) &&
    decide (inv.page.toNat ≤ vaOff va / 65536 ∧ vaOff va / 65536 < inv.page.toNat + inv.pages)

/-- A page that is being moved: the slice holds every new request for it until the move has been acknowledged (R73). -/
def moveHolds (s : State) (ctx : BitVec 12) (va : Word) : Bool :=
  match s.tableOp with
  | some op => op.inv.move && decide (op.inv.ctx = ctx) && inRange op.inv va
  | none => false

/-- Where an own address lies: the scratchpad directly, space 0 and 3 by the tables (R62, R64). -/
def resolveOwn (va : Word) : Eff (Loc × Bool) := do
  let s ← get
  let t ← theTask
  if vaSpace va = 1 then pure (.sram (vaOff va), false)
  else if moveHolds s t.ctx va then holdOther
  else if (activeKey s t.ctx).isNone then fatalNow true
  else match walk s t.ctx (decide (vaSpace va = 3)) true (vaOff va) with
    | .ok b l => pure (.hbm b, l.tol)
    | .notPresent => trapWith .pageNotPresent 0 va
    | .refused => trapWith .pagePerm 0 va
    | .broken => fatalNow false

/-- Bytes that an entry holds for forwarding (R76); an AMO, a BINIT or an arrival is waited for (R230, R124). -/
def sbBytes (e : SbEntry) : Option (List Byte) :=
  match e.kind with
  | .data bs _ => some bs
  | .cap c => some (leBytes 16 c.bits.toNat)
  | .seq v => some (leBytes 8 v.toNat)
  | _ => none

/-- Bytes that an entry covers. -/
def sbLen (e : SbEntry) : Nat :=
  match e.kind with
  | .data bs _ => bs.length
  | .cap _ => 16
  | .seq _ => 8
  | .binit _ => 32
  | .arrive => 32
  | .amo _ wide _ _ _ => if wide then 8 else 4

def sbOverlaps (e : SbEntry) (ctx : BitVec 12) (va : Word) (n : Nat) : Bool :=
  decide (e.ctx = ctx) && overlaps e.va.toNat (sbLen e) va.toNat n

/-- A load waits for overlapping entries that are not forwarded (R230). -/
def sbMustWait (s : State) (ctx : BitVec 12) (va : Word) (n : Nat) : Bool :=
  s.sb.any (fun e => (sbBytes e).isNone && sbOverlaps e ctx va n)

/-- The newest buffered byte at an address, if any (R76). -/
def sbByte : List SbEntry → BitVec 12 → Nat → Option Byte
  | [], _, _ => none
  | e :: r, ctx, a =>
    match sbByte r ctx a with
    | some b => some b
    | none =>
      if e.ctx = ctx ∧ e.va.toNat ≤ a then
        match sbBytes e with
        | some bs => bs[a - e.va.toNat]?
        | none => none
      else none

/-- Overlays the store buffer on bytes read from memory (R76, R30). -/
def forward (s : State) (ctx : BitVec 12) (va : Nat) : List Byte → List Byte
  | [] => []
  | b :: r => (sbByte s.sb ctx va).getD b :: forward s ctx (va + 1) r

/-- An own load of n bytes (R76, R78, R28), rounded on a tolerant page where the store buffer does not forward (R30). -/
def loadOwn (va : Word) (n : Nat) : Eff (List Byte) := do
  stallOwn va n false
  let p ← resolveOwn va
  let s ← get
  let t ← theTask
  match p.1 with
  | .hbm b =>
    if badRead s t.ctx va b n then trapWith .eccUncorrectable 0 va
    else modify (fun s => correctSectors (noteWalk s t.ctx (decide (vaSpace va = 3)) (vaOff va)) b n)
  | .sram a =>
    if badWord s.cx a n then trapWith .eccUncorrectable 0 va else modify (fun s => correctWords s a n)
  if sbMustWait s t.ctx va n then holdOther
  else pure (forward s t.ctx va.toNat (readPage s p.1 p.2 n))

/-- The newest tag of a granule: a buffered capability, else a buffered data write, else memory (R49, R76). -/
def sbTag : List SbEntry → BitVec 12 → Nat → Option Bool
  | [], _, _ => none
  | e :: r, ctx, a =>
    match sbTag r ctx a with
    | some b => some b
    | none =>
      if e.ctx = ctx ∧ overlaps e.va.toNat (sbLen e) (a / 16 * 16) 16 then
        match e.kind with
        | .cap c => some c.tag
        | _ => some false
      else none

/-- An own granule with its tag (R77). A tolerant page holds none (R31). -/
def loadOwnCap (va : Word) : Eff Cap := do
  let bs ← loadOwn va 16
  let p ← resolveOwn va
  let s ← get
  let t ← theTask
  let tag := (sbTag s.sb t.ctx va.toNat).getD (memTag (locMem s p.1) (locAddr p.1))
  pure { bits := BitVec.ofNat 128 (leNat bs), tag := tag && !p.2 }

/-! ### The store buffer (R76, R67) -/

def sbDepth : Nat := 16

/-- Enters the store buffer, stalling while it is full. -/
def pushStore (e : SbEntry) : Eff Unit := do
  let s ← get
  if s.sb.length < sbDepth then set { s with sb := s.sb ++ [e] } else holdOther

def pageOf (va : Word) : BitVec 27 := va.extractLsb' 16 27

def findPermit (s : State) (ctx : BitVec 12) (va : Word) : Option Permit :=
  s.permits.find? (fun p => decide (p.ctx = ctx) && decide (p.page = pageOf va))

/-- Space 2 of this package at an address: a registered window of the context holds the range, and a bound secure
stream carries its traffic (R374, R375, R386). -/
def hostReady (s : State) (ctx : BitVec 12) (va : Word) (n : Nat) : Bool :=
  s.pk.wins.any (fun w => winValid w && winHolds ctx (vaOff va) n w) &&
  s.pk.streams.any (fun x => decide (x.ctx = ctx) && x.bound && !x.error)

/-- The walk of a page of own space 0 for a store: while the invalidation of a narrowing write has not been acted on here,
a permit that is still held gives the old entry (R74). -/
def storeWalk (s : State) (ctx : BitVec 12) (va : Word) : WalkResult :=
  match s.tableOp with
  | some op =>
    if !op.copying && !op.acted && decide (op.inv.ctx = ctx) && inRange op.inv va then
      walk (putEntry s op.place.1 op.place.2 op.oldEntry) ctx false true (vaOff va)
    else walk s ctx false true (vaOff va)
  | none => walk s ctx false true (vaOff va)

/-- The place of an own store: row 8 of R44. A page of space 0 needs a permit, asked for on a miss (R67); a page of a host
window the answer of the host agent, which translates it (R375). -/
def resolveStore (va : Word) : Eff (Option Loc × Bool) := do
  let s ← get
  let t ← theTask
  if vaSpace va = 1 then pure (some (.sram (vaOff va)), false)
  else if vaSpace va = 2 then do
    let w ← theWait
    if !hostReady s t.ctx va 1 then trapWith .pagePerm 0 va
    else if w = .hostOk va then do
      setTheWait .ready
      pure (none, false)
    else askAndWait id (.permit va)
  else if moveHolds s t.ctx va then holdOther
  else match findPermit s t.ctx va with
    | none => askAndWait id (.permit va)
    | some p =>
      match storeWalk s t.ctx va with
      | .ok b _ => pure (some (.hbm b), p.tol)
      | .notPresent => trapWith .pageNotPresent 0 va
      | .refused => trapWith .pagePerm 0 va
      | .broken => fatalNow false

/-- CHAIN_CONFLICT for an owner write of an armed range (R97). -/
def chainCheck (va : Word) (n : Nat) : Eff Unit := do
  let s ← get
  if isOwn s va && decide (vaSpace va = 1) && inArmed s.cx (vaOff va) n then trapWith .chainConflict 0 va
  else pure ()

/-- After the checks of R44: CHAIN_CONFLICT, the stalls, the permit; then the entry (R225). -/
def storeChecked (va : Word) (n : Nat) (kind : Bool → SbKind) (noTol : Bool) : Eff Unit := do
  chainCheck va n
  stallOwn va n true
  let p ← resolveStore va
  if p.2 && noTol then trapWith .pagePerm dtlTolerant va
  else do
    let t ← theTask
    pushStore { ctx := t.ctx, tid := t.tid, va := va, loc := p.1, kind := kind p.2,
                x := t.obsOver || !t.obs.isEmpty }

/-! ### Reads of another owner's memory (R78, R81, R83) -/

/-- In the same super-group, so a plain load of its SRAM is fresh (R78, R108). -/
def sameSuperGroup (s : State) (va : Word) : Bool :=
  decide (vaPkg va = s.pkg) && decide (vaCore va >>> 6 = s.core >>> 6)

/-- A host window that this core writes is its own memory (R375). -/
def ownWindow (s : State) (ctx : BitVec 12) (va : Word) : Bool :=
  decide (vaSpace va = 2) && decide (ownerOf s ctx va = ownId s)

/-- Whether a plain load is served from copies (R78). -/
def isCached (s : State) (ctx : BitVec 12) (va : Word) (nc : Bool) : Bool :=
  !nc && !isOwn s va && !ownWindow s ctx va && !(decide (vaSpace va = 1) && sameSuperGroup s va)

def lineOf (va : Word) : BitVec 58 := va.extractLsb' 6 58

/-- A held line of the context, primary or victim (R83, R102, R104). -/
def findLine (s : State) (ctx : BitVec 12) (va : Word) : Option CacheLine :=
  s.lines.find? (fun l => decide (l.ctx = ctx) && decide (l.line = lineOf va))

/-- A held line that a task may read: its stamp is not older than the task's horizon for its owner (R81, R83). -/
def readableLine (s : State) (t : Task) (va : Word) : Option CacheLine :=
  (findLine s t.ctx va).filter (fun l => !pubOlder l.stamp (horizonOf s t l.owner))

/-- All lines of the range are held; the first and the bytes. -/
def heldBytes (s : State) (t : Task) (va : Word) : Nat → Option (List Byte × List CacheLine)
  | 0 => some ([], [])
  | n + 1 =>
    match heldBytes s t va n with
    | none => none
    | some (bs, ls) =>
      let a := va + BitVec.ofNat 64 n
      match readableLine s t a with
      | none => none
      | some l => some (bs ++ [l.data.extractLsb' (a.toNat % 64 * 8) 8],
          if ls.contains l then ls else ls ++ [l])

/-- Observation pairs of the lines used (R87). -/
def observeLines (s : State) (t : Task) (ls : List CacheLine) : Task :=
  ls.foldl (fun u l => observe s u l.owner l.stamp) t

/-- A cause from its code. -/
def causeOf (n : Nat) : Cause :=
  match n with
  | 0x06 => .capPerm | 0x07 => .capBounds | 0x04 => .capTag | 0x05 => .capSealed
  | 0x0A => .pageNotPresent | 0x0B => .pagePerm | 0x0C => .fetchNx | 0x1C => .eccUncorrectable
  | _ => .pagePerm

/-- The reply to a read: a trap, or its data with the wait ended. -/
def takeReply (va : Word) (r : ReadReply) : Eff ReadReply := do
  setTheWait .ready
  match r.fault with
  | some (c, d) => trapWith (causeOf c.toNat) d.toNat va
  | none => pure r

/-- A reply read from an aligned base, cut to start at `va`. -/
def cutReply (va : Word) (base : Word) (r : ReadReply) : ReadReply :=
  let k := va.toNat - base.toNat
  { r with data := r.data.drop k, tags := r.tags.drop (k / 16) }

/-- First byte and length that a read asks for: whole lines when it is cached (R78). -/
def askRange (va : Word) (n : Nat) (cached : Bool) : Word × Nat :=
  if cached then
    let b := (va >>> 6) <<< 6
    (b, (va.toNat + n + 63 - b.toNat) / 64 * 64)
  else (va, n)

/-- A fresh read of a line of the range is in flight (R363). -/
def freshInFlight (s : State) (va : Word) (n : Nat) : Bool :=
  let g := gran64 va.toNat n
  s.pending.any (fun p => isFreshRead p && (let q := gran64 p.va.toNat p.len; overlaps g.1 g.2 q.1 q.2))

/-- The member of the pool that the hash of a line's address selects (R106). -/
def poolMember (s : State) (l : BitVec 58) : BitVec 10 :=
  let k := s.cx.vgroup.toNat % 8
  BitVec.ofNat 10 (s.core.toNat / 2 ^ k * 2 ^ k + Config.poolHash l (2 ^ k) % 2 ^ k)

/-- The secure stream that carries a context's space-2 traffic: its lowest-numbered bound one that is not in ERROR (R386). -/
def hostStream (s : State) (ctx : BitVec 12) : Option (BitVec 4) :=
  ((List.range 16).map (BitVec.ofNat 4)).find? (fun m =>
    s.pk.streams.any (fun x => decide (x.ctx = ctx) && decide (x.m = m) && x.bound && !x.error))

/-- A read leaves: a cached one of an active pool to the member that may hold the line (R106), one of this package's host
memory over the context's secure stream, else to the owner. -/
def sendRead (s : State) (p : Pending) : State :=
  if vaSpace p.va = 2 ∧ vaPkg p.va = s.pkg then emit s (.hostRead p (hostStream s p.ctx))
  else if p.cached && poolActive s && decide (poolMember s (lineOf p.va) ≠ s.core) then
    emit s (.poolProbe (poolMember s (lineOf p.va)) p)
  else emit s (.read p p.cap)

/-- Sends a read of `n` bytes and waits; one fresh read of a line at a time (R363). -/
def askRead (va : Word) (n : Nat) (cached : Bool) (cap : Cap) (purpose : ReadFor) : Eff ReadReply := do
  let s ← get
  let t ← theTask
  if !cached && decide (purpose ≠ .fetch) && freshInFlight s va n then holdOther
  else
    let k := s.cur.1
    let p : Pending :=
      { id := s.nextId, slot := k, tid := t.tid, ctx := t.ctx, owner := ownerOf s t.ctx va, va := va, len := n,
        cached := cached, purpose := purpose, cap := cap }
    askAndWait (fun u => sendRead { u with pending := u.pending ++ [p], nextId := u.nextId + 1 } p)
      (.read s.nextId none)

/-- The bytes of an own writer window that the store buffer forwards; none while some byte is not in it or is written by
an entry that is waited for (R76, R230). -/
def bufferedBytes (s : State) (ctx : BitVec 12) (va : Word) (n : Nat) : Option (List Byte) :=
  if sbMustWait s ctx va n then none else (List.range n).mapM (fun i => sbByte s.sb ctx (va.toNat + i))

/-- A read of another owner's memory: from held lines, from the reply that has come, or asked for. -/
def loadForeign (cap : Cap) (va : Word) (n : Nat) (nc : Bool) : Eff ReadReply := do
  let s ← get
  let t ← theTask
  let w ← theWait
  match w with
  | .read _ (some r) =>
    let b := (askRange va n (isCached s t.ctx va nc)).1
    takeReply (if va.toNat < b.toNat + r.data.length then b + BitVec.ofNat 64 r.data.length else va) (cutReply va b r)
  | _ =>
    let cached := isCached s t.ctx va nc
    if decide (vaSpace va = 2) && decide (vaPkg va = s.pkg) && !hostReady s t.ctx va n then trapWith .pagePerm 0 va
    else if ownWindow s t.ctx va && s.sb.any (fun e => sbOverlaps e t.ctx va n) then
      match bufferedBytes s t.ctx va n with
      | some bs => pure { id := 0, data := bs, tags := [], fault := none, pub := 0 }
      | none => holdOther
    else match (if cached then heldBytes s t va n else none) with
    | some (bs, ls) =>
      if ls.any (·.bad) then trapWith .eccUncorrectable 0 va else do
      setTheTask (observeLines s t ls)
      pure { id := 0, data := bs, tags := ls.map (fun l => l.tags.getLsbD (va.toNat % 64 / 16)), fault := none,
             pub := 0 }
    | none => askRead (askRange va n cached).1 (askRange va n cached).2 cached cap .load

/-- Data of a load after its checks: own or foreign (R224). -/
def loadData (cap : Cap) (va : Word) (n : Nat) (nc : Bool) : Eff (List Byte) := do
  let s ← get
  if isOwn s va then loadOwn va n
  else do
    let r ← loadForeign cap va n nc
    pure (takePad n r.data)

/-- A granule with its tag after its checks (R227 step 2). -/
def loadGranule (cap : Cap) (va : Word) (nc : Bool) : Eff Cap := do
  let s ← get
  if isOwn s va then loadOwnCap va
  else do
    let r ← loadForeign cap va 16 nc
    pure { bits := BitVec.ofNat 128 (leAt r.data 0 16), tag := r.tags.headD false && decide (vaSpace va ≠ 2) }

end Sys2Proof.Machine
end

