-- ==== Sys2Proof/Machine/Tables.lean ====
section
/-! DEFINITION. The page tables and their writes: frames in use, PTWD, invalidations (R61 to R63, R66, R69 to R74). -/
namespace Sys2Proof.Machine

/-! ### Frames -/

/-- The table that a root or pointer leads to, if any. -/
def childOf (s : State) (e : Bool × Nat) : Option Nat :=
  match follow s e with
  | .table f => some f
  | _ => none

/-- Roots of every context that its directory entry holds valid, as (context, space 3, frame). -/
def allRoots (s : State) : List (Nat × Bool × Nat) :=
  if tblCount s = 0 then []
  else (List.range 4096).flatMap (fun c =>
    let e := dirEntry s (BitVec.ofNat 12 c)
    [false, true].filterMap (fun sp3 => (childOf s (dirRoot e sp3)).map (fun f => (c, sp3, f))))

/-- Frames of the tables that the valid pointers of a table name. The names count as they were written, whatever errors
their sectors hold (log entry 165, DESIGN CHOICE). -/
def childFrames (s : State) (f : Nat) : List Nat :=
  (List.range 512).filterMap (fun i => childOf s (pointer (tableEntry s f i)))

/-- Table frames below a root: its own, and those of levels 2 and 3. -/
def framesBelow (s : State) (f : Nat) : List Nat :=
  let l2 := childFrames s f
  f :: l2 ++ l2.flatMap (childFrames s)

/-- Every table frame that a valid root or pointer of a context names. -/
def tableFrames (s : State) : List Nat := (allRoots s).flatMap (fun r => framesBelow s r.2.2)

/-- Level-3 tables of every context. -/
def leafTables (s : State) : List Nat :=
  (allRoots s).flatMap (fun r => (childFrames s r.2.2).flatMap (childFrames s))

/-- Frames that a leaf entry names: 32 for a 2 MiB page. -/
def leafFrames (e : Word) : List Nat :=
  if e.getLsbD 0 then rangeFrom (field e 6 14) (if e.getLsbD 2 then 32 else 1) else []

/-- Data frames that valid leaves of a list of level-3 tables name. -/
def dataFramesOf (s : State) (tables : List Nat) : List Nat :=
  tables.flatMap (fun t => (List.range 512).flatMap (fun i => leafFrames (tableEntry s t i)))

/-- Frames that the old entry of an operation in progress still keeps (R69 TBLFREE). -/
def keptFrames (s : State) : List Nat :=
  match s.tableOp with
  | none => []
  | some op =>
    match op.inv.level.toNat with
    | 0 => [false, true].flatMap (fun sp3 => ((childOf s (dirRoot op.oldEntry sp3)).map (framesBelow s)).getD [])
    | 1 => ((childOf s (pointer op.oldEntry)).map (fun f => f :: childFrames s f)).getD []
    | 2 => (childOf s (pointer op.oldEntry)).toList
    | _ => []

/-- Free table frames in rising order (R69 TBLFREE). -/
def freeTableFrames (s : State) : List Nat :=
  let used := tableFrames s ++ keptFrames s
  (rangeFrom (tblFirst s) (tblCount s)).filter (fun f =>
    decide (f ≠ tblFirst s) && !inSaveArea s f && !used.contains f)

/-! ### Frames of one context and another (R388) -/

/-- A frame cleared to zero, its check bits good. -/
def clearFrame (s : State) (f : Nat) : State :=
  let lo := f * frameBytes
  let keep := s.home.errors.filter (fun p => !decide (lo ≤ 32 * p.1 ∧ 32 * p.1 < lo + frameBytes))
  { s with home := { s.home with mem := clearRange s.home.mem lo (lo + frameBytes), errors := keep } }

/-- The frames hold tables or data of the context. -/
def setHolders (s : State) (ctx : BitVec 12) (fs : List Nat) : State :=
  { s with home := { s.home with holder := fs.foldl (fun h f => sparsePut 0 h f ctx.toNat) s.home.holder } }

def holderOf (s : State) (f : Nat) : Nat := sparseGet 0 s.home.holder f

/-- The frame holds tables or data of another context. -/
def heldByOther (s : State) (ctx : BitVec 12) (f : Nat) : Bool := decide (holderOf s f ≠ 0 ∧ holderOf s f ≠ ctx.toNat)

/-- What a context leaves in its frames is no context's. -/
def dropHolder (s : State) (ctx : BitVec 12) : State :=
  { s with home := { s.home with
      holder := s.home.holder.map (fun p => if p.2 = ctx.toNat then (p.1, 4096) else p) } }

/-- Table frames, and level-3 tables, of one context. -/
def framesOfCtx (s : State) (ctx : BitVec 12) : List Nat :=
  [false, true].flatMap (fun sp3 => ((childOf s (dirRoot (dirEntry s ctx) sp3)).map (framesBelow s)).getD [])

def leafTablesOf (s : State) (ctx : BitVec 12) : List Nat :=
  [false, true].flatMap (fun sp3 =>
    ((childOf s (dirRoot (dirEntry s ctx) sp3)).map (fun f => (childFrames s f).flatMap (childFrames s))).getD [])

/-- The context whose frame it is still names it, as a table or in a leaf. -/
def stillNamed (s : State) (f : Nat) : Bool :=
  let c := BitVec.ofNat 12 (holderOf s f)
  (framesOfCtx s c).contains f || (dataFramesOf s (leafTablesOf s c)).contains f

/-- Frames that an entry of a level names. -/
def namedFrames (s : State) (level : Nat) (e : Word) : List Nat :=
  match level with
  | 0 => [false, true].filterMap (fun sp3 => childOf s (dirRoot e sp3))
  | 1 => (childOf s (pointer e)).toList
  | 2 => (childOf s (pointer e)).toList
  | _ => leafFrames e

/-- Frames that what an entry of a level names names in turn. -/
def framesUnder (s : State) (level : Nat) (e : Word) : List Nat :=
  let leaves := fun (t3 : List Nat) => dataFramesOf s t3
  let n := namedFrames s level e
  match level with
  | 0 => n.flatMap (childFrames s) ++ n.flatMap (fun f => (childFrames s f).flatMap (childFrames s)) ++
      leaves (n.flatMap (fun f => (childFrames s f).flatMap (childFrames s)))
  | 1 => n.flatMap (childFrames s) ++ leaves (n.flatMap (childFrames s))
  | 2 => leaves n
  | _ => []

/-- The entry would show a context what another one holds: a frame that the other still names, or, below a table that stays
as it is, any frame that the other has (R388 over R70; log entry 177, DEDUCED). -/
def showsOther (s : State) (ctx : BitVec 12) (level : Nat) (e : Word) : Bool :=
  let n := namedFrames s level e
  n.any (fun f => heldByOther s ctx f && stillNamed s f) ||
    (!(n.any (heldByOther s ctx)) && (framesUnder s level e).any (heldByOther s ctx))

/-- The frames that a new valid entry names are the context's; what another context has left in them is cleared (R388; log
entry 103). -/
def takeFrames (s : State) (ctx : BitVec 12) (level : Nat) (e : Word) : State :=
  let n := namedFrames s level e
  setHolders ((n.filter (heldByOther s ctx)).foldl clearFrame s) ctx n

/-! ### Entries -/

/-- Where the entry that PTWA names lies: none when the entry above is not valid (R70 order 3), or names a frame where no
table may lie (R25; log entry 166, DESIGN CHOICE). -/
def entryPlace (s : State) (ctx : BitVec 12) (sp3 : Bool) (level page : Nat) : Option (Nat × Nat) :=
  if tblCount s = 0 then none
  else match level with
    | 0 => some (tblFirst s, ctx.toNat)
    | _ =>
      match childOf s (dirRoot (dirEntry s ctx) sp3) with
      | none => none
      | some f1 =>
        if level = 1 then some (f1, page / 2 ^ 18)
        else match childOf s (pointer (tableEntry s f1 (page / 2 ^ 18))) with
          | none => none
          | some f2 =>
            if level = 2 then some (f2, page / 2 ^ 9 % 2 ^ 9)
            else (childOf s (pointer (tableEntry s f2 (page / 2 ^ 9 % 2 ^ 9)))).map (fun f3 => (f3, page % 512))

/-- Reserved bits of an entry by level (R62 Table 2). -/
def reservedSet (level : Nat) (e : Word) : Bool :=
  match level with
  | 0 => e.getLsbD 15 || decide (field e 31 33 ≠ 0)
  | 1 => decide (field e 1 5 ≠ 0) || decide (field e 20 44 ≠ 0)
  | 2 => decide (field e 1 5 ≠ 0) || decide (field e 20 44 ≠ 0)
  | _ => decide (field e 20 44 ≠ 0)

/-- A frame that no leaf may name (R25, R34, R70 order 4). -/
def badData (s : State) (f : Nat) : Bool := inTableArea s f || inOvfStore s f || decide (frameCount ≤ f)

def badFrame (s : State) (level : Nat) (e : Word) : Bool :=
  match level with
  | 0 => ((dirRoot e false).1 && badTable s (dirRoot e false).2) || ((dirRoot e true).1 && badTable s (dirRoot e true).2)
  | 1 => (pointer e).1 && badTable s (pointer e).2
  | 2 => (pointer e).1 && badTable s (pointer e).2
  | _ => e.getLsbD 0 && ((leafFrames e).any (badData s) || (e.getLsbD 2 && decide (field e 6 14 % 32 ≠ 0)))

/-- A valid 2 MiB leaf covers index `i` of a level-3 table and does not stand there itself (R63). -/
def coveredBig (s : State) (t i : Nat) : Bool :=
  let b := tableEntry s t (i / 32 * 32)
  decide (i % 32 ≠ 0) && b.getLsbD 0 && b.getLsbD 2

/-- Validity of an entry. -/
def entryValid (level : Nat) (e : Word) : Bool :=
  if level = 0 then e.getLsbD 14 || e.getLsbD 30 else e.getLsbD 0

/-- Narrowing writes (R71). -/
def narrowing (level : Nat) (old new : Word) : Bool :=
  entryValid level old &&
    (if level = 3 then
      [0, 1, 3, 4].any (fun b => old.getLsbD b && !new.getLsbD b) ||
        decide (old.getLsbD 5 ≠ new.getLsbD 5) || decide (old.getLsbD 2 ≠ new.getLsbD 2) ||
        decide (field old 6 14 ≠ field new 6 14)
    else decide (old ≠ new))

/-- Whether fetch-cache lines of the range go too (R71 step 2). -/
def dropsFetch (level : Nat) (old new : Word) : Bool :=
  match level with
  | 0 => (old.getLsbD 14 && new.getLsbD 14 && decide (field old 0 14 ≠ field new 0 14)) ||
      (old.getLsbD 30 && new.getLsbD 30 && decide (field old 16 14 ≠ field new 16 14))
  | 1 => new.getLsbD 0 && decide (field old 6 14 ≠ field new 6 14)
  | 2 => new.getLsbD 0 && decide (field old 6 14 ≠ field new 6 14)
  | _ => new.getLsbD 0 && ((old.getLsbD 4 && !new.getLsbD 4) || decide (field old 6 14 ≠ field new 6 14) ||
      decide (old.getLsbD 2 ≠ new.getLsbD 2))

/-- Pages that an entry covers: the first, and how many (R62, R63). -/
def coverage (level page : Nat) (big : Bool) : Nat × Nat :=
  match level with
  | 0 => (0, 2 ^ 27)
  | 1 => (page / 2 ^ 18 * 2 ^ 18, 2 ^ 18)
  | 2 => (page / 2 ^ 9 * 2 ^ 9, 2 ^ 9)
  | _ => if big then (page / 32 * 32, 32) else (page, 1)

/-! ### Waking (R66) -/

/-- A waiting requester can now be served. -/
def nowVisible (s : State) (w : FaultWait) : Bool :=
  let va := w.page <<< 16
  match walk s w.ctx (decide (vaSpace va = 3)) (decide (w.owner = ownId s)) (vaOff va) with
  | .notPresent => false
  | _ => true

/-- Wakes one requester: an event for a task of this core, a packet for another. -/
def sendWake (s : State) (w : FaultWait) : State :=
  if w.owner = ownId s then queueEvent s (.pageWake w.ctx w.tid) else emit s (.wake w.owner w.ctx w.tid)

/-- Wakes every requester of the fault-wait lists that can now be served. -/
def wakeWaiters (s : State) : State :=
  let ready := s.home.slices.flatMap (fun p => p.2.waiting.filter (nowVisible s))
  ready.foldl sendWake (mapSlices (fun z => { z with waiting := z.waiting.filter (fun w => !nowVisible s w) }) s)

/-! ### The revocation sweeper over a range (R57, R58) -/

/-- Examines one tagged granule of a memory: the tag goes when the filter clears it. -/
def examine (s : State) (m : Mem) (a : Nat) : Mem × Nat :=
  let c := memCap m a
  if c.tag && !(filterCap s s.sweepCtx c).tag then (setTag m a false, 1) else (m, 0)

/-- Examines the tagged granules from `lo`, `n` bytes; the memory and the tags cleared. -/
def examineRange (s : State) (m : Mem) (lo n : Nat) : Mem × Nat :=
  (m.tags.filter (fun p => decide (lo ≤ p.1 * 16 ∧ p.1 * 16 < lo + n))).foldl
    (fun acc p =>
      let r := examine s acc.1 (p.1 * 16)
      (r.1, acc.2 + r.2)) (m, 0)

def addCleared (s : State) (n : Nat) : State :=
  { s with regs := { s.regs with rvclr := BitVec.ofNat 32 (satAdd 0xFFFFFFFF s.regs.rvclr.toNat n) } }

/-- Scans frames before their page is installed in an open epoch (R57). -/
def scanFrames (s : State) : List Nat → State
  | [] => s
  | f :: r =>
    let x := examineRange s s.home.mem (f * frameBytes) frameBytes
    scanFrames (addCleared { s with home := { s.home with mem := x.1 } } x.2) r

/-- An epoch is open on this core for a context. -/
def epochOpen (s : State) (ctx : BitVec 12) : Bool := decide (s.sweep ≠ .idle) && decide (ctx = s.sweepCtx)

/-- Frames of the present space-0 pages of a context (R57): the spill overflow area lies in them. -/
def presentFrames (s : State) (ctx : BitVec 12) : List Nat :=
  if tblCount s = 0 then []
  else
    match childOf s (dirRoot (dirEntry s ctx) false) with
    | some f => dataFramesOf s ((childFrames s f).flatMap (childFrames s))
    | none => []

/-- A write of an entry while an epoch is open: the pages that it makes present are scanned first (R57). -/
def scanPresent (s : State) (p : Nat × Nat) (e : Word) (ctx : BitVec 12) : State :=
  if epochOpen s ctx then
    let old := presentFrames s ctx
    scanFrames s ((presentFrames (putEntry s p.1 p.2 e) ctx).filter (fun f => !old.contains f))
  else s

/-! ### The operation that PTWD starts (R69 to R73) -/

def setPtwStatus (s : State) (n : Nat) : State := { s with regs := { s.regs with ptwstatus := BitVec.ofNat 3 n } }

def ptwaCtx (s : State) : BitVec 12 := s.regs.ptwa.extractLsb' 0 12
def ptwaSp3 (s : State) : Bool := s.regs.ptwa.getLsbD 12
def ptwaLevel (s : State) : Nat := field s.regs.ptwa 13 2
def ptwaPage (s : State) : Nat := field s.regs.ptwa 16 27
def ptwaOp (s : State) : Nat := field s.regs.ptwa 62 2

/-- The refusal of a write or move, with the place of its entry where it is accepted (R70 Table 4). -/
def ptwCheck (s : State) (e : Word) : Except Nat (Nat × Nat) :=
  let lv := ptwaLevel s
  if 2 ≤ ptwaOp s then .error 6
  else if reservedSet lv e || (decide (lv = 3) && ((ptwaSp3 s && (e.getLsbD 5 || e.getLsbD 3)) ||
      (e.getLsbD 2 && decide (ptwaPage s % 32 ≠ 0)))) then .error 1
  else match entryPlace s (ptwaCtx s) (ptwaSp3 s) lv (ptwaPage s) with
    | none => .error 3
    | some p =>
      if badFrame s lv e || showsOther s (ptwaCtx s) lv e then .error 2
      else if ptwaOp s = 1 then
        let old := tableEntry s p.1 p.2
        if lv = 3 ∧ old.getLsbD 0 = true ∧ putField old 6 14 0 = putField e 6 14 0 then .ok p else .error 2
      else if lv = 3 ∧ e.getLsbD 0 = true ∧ coveredBig s p.1 p.2 = true then .error 4
      else .ok p

/-- The invalidation of a write (R71). -/
def ptwInvalidation (s : State) (old e : Word) (move : Bool) : Invalidation :=
  let lv := ptwaLevel s
  let c := coverage lv (ptwaPage s) (decide (lv = 3) && (old.getLsbD 2 || e.getLsbD 2))
  { pkg := s.pkg, core := s.core, ctx := ptwaCtx s, sp3 := ptwaSp3 s, level := BitVec.ofNat 2 lv,
    page := BitVec.ofNat 27 c.1, pages := c.2, move := move, dropFetch := move || dropsFetch lv old e }

/-- The slices drop what they hold of a range: translations, and lines, whose data stand in the channel. -/
def dropSliceRange (s : State) (inv : Invalidation) : State :=
  let hitPage := fun (c : BitVec 12) (sp3 : Bool) (p : BitVec 27) =>
    decide (c = inv.ctx) && (decide (inv.level = 0) || decide (sp3 = inv.sp3)) &&
      decide (inv.page.toNat ≤ p.toNat ∧ p.toNat < inv.page.toNat + inv.pages)
  mapSlices (fun z => { z with
    leaves := z.leaves.filter (fun l => !hitPage l.1 l.2.1 l.2.2)
    lines := z.lines.filter (fun l => !(decide (l.ctx = inv.ctx) && inRange inv (lineVa l.line))) }) s

/-- Installs an entry and starts its invalidation: to this core and to every other core of the context. -/
def installNarrow (s : State) (p : Nat × Nat) (old e : Word) (inv : Invalidation) : State :=
  let s1 := dropSliceRange (putEntry (scanPresent s p e inv.ctx) p.1 p.2 e) inv
  let op : TableOp :=
    { inv := inv, place := p, oldEntry := old, newEntry := e, copying := false, acted := false, acked := false }
  wakeWaiters (emit (queueEvent { s1 with tableOp := some op } (.invalidation inv)) (.invalidate inv))

/-- PTWD with op WRITE (R70, R71). -/
def ptwWriteAt (s : State) (p : Nat × Nat) (e : Word) : State :=
  let lv := ptwaLevel s
  let old := tableEntry s p.1 p.2
  let s0 := takeFrames (setPtwStatus s 0) (ptwaCtx s) lv e
  if narrowing lv old e then installNarrow s0 p old e (ptwInvalidation s old e false)
  else wakeWaiters (putEntry (scanPresent s0 p e (ptwaCtx s0)) p.1 p.2 e)

/-- PTWD with op MOVE: the slices hold the page's requests and copy it (R73). -/
def ptwMoveAt (s : State) (p : Nat × Nat) (e : Word) : State :=
  let old := tableEntry s p.1 p.2
  { setHolders (setPtwStatus s 0) (ptwaCtx s) (leafFrames e) with
    tableOp := some { inv := ptwInvalidation s old e true, place := p, oldEntry := old, newEntry := e, copying := true,
                      acted := false, acked := false } }

/-- Bytes of the channel where the entries that a write to PTWD reads lie: those above its own, and its own. -/
def ptwEntries (s : State) : List Nat :=
  (walkEntries s (ptwaCtx s) (ptwaSp3 s) (ptwaPage s)).take (if ptwaLevel s = 3 then 5 else ptwaLevel s + 1)

/-- A write to PTWD (R69 Table 1): lost while busy, refused, or started. Entries that it meets are corrected; one that
cannot be ends the context that PTWA names (R28, R359). -/
def ptwStart (s0 : State) (e : Word) : State :=
  let s := (ptwEntries s0).foldl (fun s b => correctSectors s b 8) s0
  if s.tableOp.isSome then { s0 with regs := { s0.regs with ptwlost := true } }
  else if (ptwEntries s0).any (fun b => badSector s0 b 8) then endContext s (ptwaCtx s) false
  else match ptwCheck s e with
    | .error n => setPtwStatus s n
    | .ok p => if ptwaOp s = 1 then ptwMoveAt s p e else ptwWriteAt s p e

end Sys2Proof.Machine
end

