-- ==== Sys2Proof/Machine/Registers.lean ====
section
/-! DEFINITION. Control registers: their map (R146 Table 9), what reads and writes of each do (R6 to R8 and the register
tables of the chapters), and the checks of R147 and R217. -/
namespace Sys2Proof.Machine

/-- The control registers by name. -/
inductive Reg where
  | numflags | fpmode | trapcause | trapaddr | trapmsg | wdbudget | qstat | taskinfo
  | tshape (i : Nat) | wctl (i : Nat) | scalea | scaleb | numtrap
  | chanbase | runqstat | slice | numsum
  | split | vgroup | spillbase | spilllim | spillovf | pub | score | cpstat | gangcfg
  | ovfcfg | ovfstat | rvcfg | rvstat | rvclr
  | tblcfg | ptwa | ptwd | ptws | sdtime | tblfree
  | ctxsave | keysel | keystat | keycmd | ecccnt | scrubcfg | snapstat | snappc (i : Nat)
  deriving DecidableEq, Repr

/-- Register numbers with one register each (R146 Table 9). -/
def regNumbers : List (Nat × Reg) :=
  [(0x000, .numflags), (0x001, .fpmode), (0x002, .trapcause), (0x003, .trapaddr), (0x004, .trapmsg),
   (0x005, .wdbudget), (0x006, .qstat), (0x007, .taskinfo), (0x10A, .scalea), (0x10B, .scaleb), (0x10C, .numtrap),
   (0x200, .chanbase), (0x201, .runqstat), (0x202, .slice), (0x203, .numsum), (0x300, .split), (0x301, .vgroup),
   (0x302, .spillbase), (0x303, .spilllim), (0x304, .spillovf), (0x305, .pub), (0x306, .score), (0x307, .cpstat),
   (0x400, .gangcfg)] ++
  [(0x880, .ovfcfg), (0x881, .ovfstat), (0x890, .rvcfg), (0x891, .rvstat), (0x892, .rvclr), (0x8A0, .tblcfg),
   (0x8A1, .ptwa), (0x8A2, .ptwd), (0x8A3, .ptws), (0x8A4, .sdtime), (0x8A5, .tblfree), (0x900, .ctxsave),
   (0xA00, .keysel), (0xA01, .keystat), (0xA02, .keycmd), (0xB00, .ecccnt), (0xB01, .scrubcfg), (0xB02, .snapstat)]

/-- The register of a number; none for a number that no row gives (R147 step 2). -/
def regOf (n : BitVec 12) : Option Reg :=
  let k := n.toNat
  if 0x100 ≤ k ∧ k < 0x108 then some (.tshape (k - 0x100))
  else if 0x108 ≤ k ∧ k < 0x10A then some (.wctl (k - 0x108))
  else if 0xB03 ≤ k ∧ k < 0xB0B then some (.snappc (k - 0xB03))
  else (regNumbers.find? (fun p => decide (p.1 = k))).map (·.2)

/-- Registers that only the A stream may write: their Writes entry is A (R146 Table 9, R147 step 3). -/
def regWritesA : Reg → Bool
  | .scalea => true | .scaleb => true | .chanbase => true | .slice => true | .split => true | .vgroup => true
  | .spillbase => true | .spilllim => true | .spillovf => true | .ovfcfg => true | .ovfstat => true | .rvcfg => true
  | .rvstat => true | .rvclr => true | .tblcfg => true | .ptwa => true | .ptwd => true | .ptws => true
  | .sdtime => true | .tblfree => true | .ctxsave => true | .keysel => true | .keycmd => true | .ecccnt => true
  | .scrubcfg => true | .snapstat => true
  | _ => false

/-- Registers that need ADMIN (R217, R385). -/
def regAdmin : Reg → Bool
  | .rvcfg => true | .rvstat => true | .rvclr => true | .keysel => true | .keystat => true | .keycmd => true
  | _ => false

/-- Registers that a task holds (R146). -/
def regOfTask : Reg → Bool
  | .numflags => true | .fpmode => true | .trapcause => true | .trapaddr => true | .trapmsg => true
  | .wdbudget => true | .qstat => true | .taskinfo => true | .keysel => true
  | _ => false

/-- The RW bits of a register. -/
def rwBits : Reg → Word
  | .numflags => 0x1F | .fpmode => 0xF | .trapcause => 0xFFFFFFFF00000FFF | .trapaddr => BitVec.allOnes 64
  | .trapmsg => 0x3FFFFF | .wdbudget => 0xFFFFFFFF | .tshape _ => 0x3FF3FF0F | .wctl _ => 0x3FFFF
  | .scalea => 0x3FFFFF | .scaleb => 0x3FFFFF | .numtrap => 0x3F | .slice => 0xFFFFFFFF | .split => 0xF
  | .vgroup => 0x7F | .spillbase => 0x3FFF | .spilllim => 0x7FFF | .spillovf => 0x7FFFFFFFFFF
  | .gangcfg => 0xFFFFFFFF0003FF0F | .ovfcfg => 0x3FFF3FFF | .rvcfg => 0x7FFFFFF0001 | .tblcfg => 0x3FFF3FFF
  | .ptwa => 0xC00007FFFFFF7FFF | .sdtime => 0xFFFFFFFF | .ctxsave => 0x33FFF | .keysel => 0x3FF
  | .scrubcfg => 0xFFFF
  | _ => 0

/-! ### Reads -/

/-- TASKINFO of a task in slot `k` (R149). -/
def taskinfoOf (t : Task) (k : Nat) : Word :=
  BitVec.ofNat 64 (k % 4 + t.prio.toNat * 2 ^ 2 + t.sup.toNat * 2 ^ 4 + t.chan.toNat * 2 ^ 5 + t.msgid.toNat * 2 ^ 16 +
    t.ctx.toNat * 2 ^ 32)

/-- QSTAT: entries held or reserved, and the flags (R148, R219). -/
def qstatOf (t : Task) : Word :=
  let lq := (List.range 4).map (fun i => (vget t.lq i []).length % 16)
  let sq := (List.range 2).map (fun i => (vget t.sq i []).length % 16)
  BitVec.ofNat 64 (packBits4 (lq ++ sq) + t.vlq.length % 8 * 2 ^ 24 + t.vsq.length % 8 * 2 ^ 27 + t.sf.toNat * 2 ^ 32)
where
  packBits4 : List Nat → Nat
    | [] => 0
    | x :: r => x + 16 * packBits4 r

/-- Registers that a task holds, as they read. -/
def readTaskReg (t : Task) (k : Nat) : Reg → Word
  | .numflags => t.numflags.setWidth 64
  | .fpmode => t.fpmode.setWidth 64
  | .trapcause => t.trapcause
  | .trapaddr => t.trapaddr
  | .trapmsg => t.trapmsg.setWidth 64
  | .wdbudget => t.wdbudget.setWidth 64
  | .qstat => qstatOf t
  | .taskinfo => taskinfoOf t k
  | .keysel => t.keysel.setWidth 64
  | _ => 0

/-- RUNQSTAT (R337 Table 4). -/
def runqstatOf (s : State) : Word :=
  let n := s.cx.runq.length
  let busy := (List.range 4).map (fun k => if slotFree s k then 0 else 2 ^ k)
  BitVec.ofNat 64 (min n 32 + (n - 32) % 1024 * 2 ^ 6 + natSum busy * 2 ^ 16 + s.cx.susp.length % 32 * 2 ^ 20 +
    s.regs.runqlost.toNat * 2 ^ 32)

def sweepCode : Sweep → Nat
  | .idle => 0 | .draining => 0 | .scan => 1 | .wait => 2 | .reported => 3

/-- Copies that hold entries of the range scoreboard (R111). -/
def scoreOf (s : State) : Word :=
  s.copies.foldl (fun w c => match c.entry with | some i => w ||| BitVec.ofNat 64 (2 ^ i.toNat) | none => w) 0

def keyCode : KeyState → Nat
  | .empty => 0 | .provisioned => 1 | .active => 2 | .retiring => 3 | .revoked => 4

/-- An empty key slot. -/
def KeySlot.none : KeySlot := { state := .empty, ctx := 0, material := 0 }

def keySlotAt (s : State) (n : Nat) : KeySlot := sparseGet KeySlot.none s.pk.keys n

def keystatOf (s : State) (sel : Nat) : Word :=
  let k := keySlotAt s sel
  BitVec.ofNat 64 (keyCode k.state + (if k.state = .empty then 0 else k.ctx.toNat) * 2 ^ 4)

def tblfreeOf (s : State) : Word :=
  let l := freeTableFrames s
  BitVec.ofNat 64 (l.headD 0x3FFF + l.length * 2 ^ 16)

/-- The value of a register that tile commands sample, with the CRWs that still wait (R145). -/
def withLate (s : State) (n : Nat) (v : Word) : Word :=
  match lateValue s (BitVec.ofNat 12 n) with
  | some x => x
  | none => v

/-- WCTLn: satcnt stands beside the late anchor and mode. -/
def readWctl (s : State) (i : Nat) : Word :=
  let w := vget s.cx.wctl i 0
  match lateValue s (BitVec.ofNat 12 (0x108 + i)) with
  | some x => putField x 32 32 (field w 32 32)
  | none => w

/-- A whole register, as task `t` in slot `k` reads it (R215). -/
def readReg? (s : State) (t : Option Task) (k : Nat) (r : Reg) : Word :=
  match r with
  | .tshape i => withLate s (0x100 + i) (vget s.cx.tshape i 0)
  | .wctl i => readWctl s i
  | .scalea => withLate s 0x10A (s.cx.scalea.setWidth 64)
  | .scaleb => withLate s 0x10B (s.cx.scaleb.setWidth 64)
  | .numtrap => (numtrapNow s).setWidth 64
  | .chanbase => s.cx.chanbase.setWidth 64
  | .runqstat => runqstatOf s
  | .slice => s.cx.slice
  | .numsum => s.cx.numsum
  | .split => s.cx.split.setWidth 64
  | .vgroup => s.cx.vgroup.setWidth 64 ||| (if poolActive s then 0x100 else 0)
  | .spillbase => s.cx.spillbase.setWidth 64
  | .spilllim => s.cx.spilllim.setWidth 64
  | .spillovf => s.cx.spillovf
  | .pub => s.cx.pub.setWidth 64
  | .score => scoreOf s
  | .cpstat => BitVec.ofNat 64 (s.regs.cpretired.toNat + (if s.copies.isEmpty then 1 else 0) * 2 ^ 32 +
      s.regs.cpfault.toNat * 2 ^ 33)
  | .gangcfg => s.cx.gangcfg
  | .ovfcfg => s.regs.ovfcfg
  | .ovfstat => BitVec.ofNat 64 (s.ovf.length % 2 ^ 32 + s.regs.ovfpeak.toNat * 2 ^ 32)
  | .rvcfg => s.regs.rvcfg
  | .rvstat => BitVec.ofNat 64 (sweepCode s.sweep + s.regs.rvepoch.toNat * 2 ^ 16)
  | .rvclr => s.regs.rvclr.setWidth 64
  | .tblcfg => s.regs.tblcfg
  | .ptwa => s.regs.ptwa
  | .ptwd => 0
  | .ptws => BitVec.ofNat 64 ((if s.tableOp.isSome then 1 else 0) + s.regs.ptwstatus.toNat * 2 +
      s.regs.ptwlost.toNat * 2 ^ 4)
  | .sdtime => s.regs.sdtime.setWidth 64
  | .tblfree => tblfreeOf s
  | .ctxsave => s.regs.ctxsave
  | .keystat => match t with | some u => keystatOf s u.keysel.toNat | none => 0
  | .keycmd => 0
  | .ecccnt => s.regs.ecccnt
  | .scrubcfg => s.regs.scrubcfg
  | .snapstat => s.regs.snapstat
  | .snappc i => vget s.regs.snappc i 0
  | x => match t with | some u => readTaskReg u k x | none => 0

/-- A read clears the RC fields (R6); OVFSTAT.peak restarts from used (R34). -/
def clearOnRead (s : State) : Reg → State
  | .wctl i => { s with cx := { s.cx with wctl := vset s.cx.wctl i (putField (vget s.cx.wctl i 0) 32 32 0) } }
  | .runqstat => { s with regs := { s.regs with runqlost := 0 } }
  | .numsum => { s with cx := { s.cx with numsum := putField s.cx.numsum 32 32 0 } }
  | .ovfstat => { s with regs := { s.regs with ovfpeak := BitVec.ofNat 32 s.ovf.length } }
  | .rvclr => { s with regs := { s.regs with rvclr := 0 } }
  | .ecccnt => { s with regs := { s.regs with ecccnt := 0 } }
  | _ => s

/-! ### Writes -/

/-- Widths of tile formats (R143 Table 7); 0 for EMPTY and the reserved codes. -/
def tileWidth (f : Nat) : Nat :=
  match f with
  | 1 => 8 | 2 => 8 | 3 => 16 | 4 => 16 | 5 => 32 | 6 => 32 | 8 => 2 | 9 => 3 | 10 => 4 | 11 => 5 | 12 => 6 | 13 => 7
  | 14 => 8 | _ => 0

def isBlockFmt (f : Nat) : Bool := decide (8 ≤ f ∧ f ≤ 14)

/-- The value that a write leaves in TSHAPEn; none where it is refused (R142). -/
def tshapeValue (v : Word) : Option Word :=
  let f := field v 0 4
  let r := field v 8 10
  let c := field v 20 10
  if f = 0 then some 0
  else if tileWidth f = 0 then none
  else if r < 1 ∨ 512 < r ∨ c < 1 ∨ 512 < c then none
  else if isBlockFmt f = true ∧ c % 32 ≠ 0 then none
  else if 262144 < r * c * tileWidth f then none
  else some (v &&& rwBits (.tshape 0))

/-- The registers that matrix commands sample (R145), set for the engine. -/
def setSampled (cx : CtxState) (n : Nat) (v : Word) : CtxState :=
  if n < 0x108 then { cx with tshape := vset cx.tshape (n - 0x100) v }
  else if n < 0x10A then
    { cx with wctl := vset cx.wctl (n - 0x108) (putField v 32 32 (field (vget cx.wctl (n - 0x108) 0) 32 32)) }
  else if n = 0x10A then { cx with scalea := v.extractLsb' 0 22 }
  else if n = 0x10B then { cx with scaleb := v.extractLsb' 0 22 }
  else { cx with numtrap := v.extractLsb' 0 6 }

/-- Whether a command of the same stream and task is not started; and whether any command is not. -/
def ownUnstarted (s : State) (tid : Nat) (st : Stream) : Bool :=
  s.mxQueue.any (fun c => decide (c.tid = tid) && decide (c.stream = st))

/-- Writes a sampled register: at once, or after the commands that must not see it have started (R145). Where the text
leaves open whether an unordered command sees it, Config.choice decides. -/
def writeSampled (k n : Nat) (v : Word) : Eff Unit := do
  let s ← get
  let mine := match taskIn s k with
    | some t => ownUnstarted s t.tid s.cur.2
    | none => false
  if mine || !s.lateCrws.isEmpty || (!s.mxQueue.isEmpty && Config.choice s.fresh) then
    let late : LateCrw := { num := BitVec.ofNat 12 n, value := v, upTo := s.mxPushed }
    set { s with lateCrws := s.lateCrws ++ [late], fresh := s.fresh + 1 }
  else set { s with cx := setSampled s.cx n v, fresh := s.fresh + 1 }

/-- Modifies the task in slot `k`; without one there is no such register to write. -/
def modTaskAt (k : Nat) (f : Task → Task) : Eff Unit := do
  let s ← get
  match taskIn s k with
  | some t => set (putTask s k (f t))
  | none => noSubject

/-- A write of a task register that the other stream may see later (R218). -/
def writeTaskReg (k : Nat) (n : BitVec 12) (v : Word) : Eff Unit := do
  let s ← get
  modTaskAt k (fun t => crwTask t s.cur.2 (Config.choice s.fresh) n v)
  modify (fun s => { s with fresh := s.fresh + 1 })

/-- Ranges that a new scratchpad must contain (R101): regions, carve-out, rings and scheduler areas. -/
def placedRanges (cx : CtxState) : List (Nat × Nat) :=
  cx.regions ++ [(0, cx.spilllim.toNat * 256)] ++ schedRanges cx

/-- A change of SPLIT is accepted (R101). -/
def splitOk (s : State) (k n : Nat) : Bool :=
  let lim := sramBytes - n * 0x40000
  !(s.copies.any holdsScore) && !(s.cx.chains.toList.any (fun c => c.armed)) &&
    (List.range 4).all (fun j => decide (j = k) || slotFree s j) &&
    (placedRanges s.cx).all (fun r => decide (r.1 + r.2 ≤ lim) || decide (r.2 = 0))

/-- Waits until the store buffer is empty. -/
def needDrained : Eff Unit := do
  let s ← get
  if s.sb.isEmpty then pure () else holdOther

/-- A write to SPLIT (R101). -/
def writeSplit (k : Nat) (v : Word) : Eff Unit := do
  let s ← get
  let n := field v 0 4
  if 12 < n ∨ n = s.cx.split.toNat ∨ splitOk s k n = false then pure ()
  else do
    needDrained
    let a := sramBytes - max n s.cx.split.toNat * 0x40000
    let b := sramBytes - min n s.cx.split.toNat * 0x40000
    set { s with cx := { s.cx with
            sram := clearRange s.cx.sram a b
            sramErr := s.cx.sramErr.filter (fun p => decide (p.1 * 8 < a ∨ b ≤ p.1 * 8))
            split := BitVec.ofNat 4 n }, lines := [] }
    modify tellPart

/-- A write to VGROUP (R105); a change ends the pool that was active, whose victim ways are discarded (R106), and the other
members are told. -/
def writeVgroup (v : Word) : Eff Unit := do
  let s ← get
  if 4 < field v 0 3 ∨ 8 < field v 3 4 then pure ()
  else
    let g := v.extractLsb' 0 7
    if g = s.cx.vgroup then pure () else set (tellPart (leavePool { s with cx := { s.cx with vgroup := g } }))

/-- Some slot's spill depth is nonzero (R114). -/
def anyDepth (s : State) : Bool :=
  (List.range 4).any (fun k => match slotAt s k with
    | .running t => decide (t.spillDepth ≠ 0)
    | .held t _ => decide (t.spillDepth ≠ 0)
    | _ => false)

/-- A write to SPILLBASE or SPILLLIM (R114). -/
def writeSpillBounds (base lim : Nat) : Eff Unit := do
  let s ← get
  if anyDepth s = true ∨ lim < base ∨ scratchEnd s.cx < lim * 256 then pure ()
  else set { s with cx := { s.cx with spillbase := BitVec.ofNat 14 base, spilllim := BitVec.ofNat 15 lim } }

/-- An MMAG of this core waits at the gang barrier (R275). -/
def gangWaiting (s : State) : Bool :=
  match s.mxRun with
  | some r => r.arrived
  | none => false

/-- A write to GANGCFG (R275). -/
def writeGangcfg (v : Word) : Eff Unit := do
  let s ← get
  let g := field v 0 4 + 1
  let base := field v 8 10
  let last := base + g * g - 1
  if field v 32 32 = 0 ∨ 1023 < last ∨ base / 512 ≠ last / 512 ∨ s.core.toNat < base ∨ last < s.core.toNat ∨
      gangWaiting s = true then pure ()
  else set { s with cx := { s.cx with gangcfg := v &&& rwBits .gangcfg } }

/-- Two frame ranges share a frame. -/
def framesOverlap (a n b m : Nat) : Bool := overlaps a n b m

/-- A write to OVFCFG (R34). -/
def writeOvfcfg (v : Word) : Eff Unit := do
  let s ← get
  let f := field v 0 14
  let n := field v 16 14
  if s.ovf.isEmpty = false ∨ frameCount < f + n ∨ framesOverlap f n (tblFirst s) (tblCount s) = true ∨
      (dataFramesOf s (leafTables s)).any (fun d => decide (f ≤ d ∧ d < f + n)) = true then pure ()
  else set { s with regs := { s.regs with ovfcfg := v &&& rwBits .ovfcfg } }

/-- A write to TBLCFG (R69). -/
def writeTblcfg (v : Word) : Eff Unit := do
  let s ← get
  let f := field v 0 14
  let n := field v 16 14
  if s.tableOp.isSome = true ∨ frameCount < f + n ∨ framesOverlap f n (ovfFirst s) (ovfFrames s) = true then pure ()
  else set { s with regs := { s.regs with tblcfg := v &&& rwBits .tblcfg } }

/-- A context of the core is out (R344). -/
def someOut (s : State) : Bool := s.others.any (fun c => decide (c.residency = .out))

/-- A write to CTXSAVE (R344): frames that a narrowing write has released are in use until it is over (R69). -/
def writeCtxsave (v : Word) : Eff Unit := do
  let s ← get
  let f := field v 0 14
  let n := 80 * (field v 16 2 + 1)
  if someOut s = true ∨ f < tblFirst s ∨ tblFirst s + tblCount s < f + n ∨
      (tblFirst s :: (tableFrames s ++ keptFrames s)).any (fun d => decide (f ≤ d ∧ d < f + n)) = true then pure ()
  else set { s with regs := { s.regs with ctxsave := v &&& rwBits .ctxsave } }

/-- A write to RVCFG (R55). -/
def writeRvcfg (v : Word) : Eff Unit := do
  let s ← get
  if sweepCode s.sweep ≠ 0 ∨ 2 ^ 43 < field v 16 27 * 65536 + 0x400010000 then pure ()
  else set { s with regs := { s.regs with rvcfg := v &&& rwBits .rvcfg } }

/-- Every stream of a context moves to ERROR (R359, R387). -/
def errorStreams (s : State) (ctx : BitVec 12) : State :=
  { s with pk := { s.pk with streams := s.pk.streams.map (fun x => if x.ctx = ctx then { x with error := true } else x) } }

/-- The slices write back and drop the lines sealed under a slot (R384). -/
def dropSealed (s : State) (n : Nat) : State :=
  mapSlices (fun z => { z with lines := z.lines.filter (fun l => decide (l.key ≠ n)) }) s

/-- REVOKE of a key slot (R384 Table 4). An Active slot takes its context with it, and the context's streams move to ERROR
(R387); a Retiring one becomes Revoked once the slices hold nothing under it. -/
def revokeSlot (s : State) (n : Nat) : State :=
  let k := keySlotAt s n
  let put := fun (st : KeyState) => { s with pk := { s.pk with keys := sparsePut KeySlot.none s.pk.keys n { k with state := st } } }
  match k.state with
  | .empty => s
  | .provisioned => put .revoked
  | .active => endContext (errorStreams (put .revoked) k.ctx) k.ctx true
  | .retiring => dropSealed (put .revoked) n
  | .revoked => s

/-- A write to KEYCMD by a task (R385): a slot of another context is ignored. -/
def writeKeycmd (k : Nat) (v : Word) : Eff Unit := do
  let s ← get
  match taskIn s k with
  | none => noSubject
  | some t =>
    let u := taskView t s.cur.2
    if v.getLsbD 0 && decide ((keySlotAt s u.keysel.toNat).ctx = t.ctx) then set (revokeSlot s u.keysel.toNat)
    else pure ()

/-- A write of a whole register by the task in slot `k`, under access codes and refusals. -/
def writeReg? (k : Nat) (r : Reg) (v : Word) : Eff Unit :=
  match r with
  | .numflags => writeTaskReg k 0 v
  | .fpmode => writeTaskReg k 1 v
  | .trapcause => if 0x1E < field v 0 8 then pure () else writeTaskReg k 2 v
  | .trapaddr => writeTaskReg k 3 v
  | .trapmsg => writeTaskReg k 4 v
  | .wdbudget => do
    let s ← get
    match taskIn s k with
    | none => noSubject
    | some t => if v.extractLsb' 0 32 < t.wdbudget then writeTaskReg k 5 v else pure ()
  | .tshape i => match tshapeValue v with | some w => writeSampled k (0x100 + i) w | none => pure ()
  | .wctl i => if field v 16 2 = 3 then pure () else writeSampled k (0x108 + i) (v &&& rwBits (.wctl i))
  | .scalea => writeSampled k 0x10A (v &&& rwBits .scalea)
  | .scaleb => writeSampled k 0x10B (v &&& rwBits .scaleb)
  | .numtrap => writeSampled k 0x10C (v &&& rwBits .numtrap)
  | .slice => modify (fun s => { s with cx := { s.cx with
      slice := putField (putField s.cx.slice 0 32 (field v 0 32)) 32 1
        (if v.getLsbD 32 then 0 else field s.cx.slice 32 1) } })
  | .numsum => modify (fun s => { s with cx := { s.cx with numsum := s.cx.numsum &&& ~~~(v &&& 0x1F) } })
  | .split => writeSplit k v
  | .vgroup => writeVgroup v
  | .spillbase => do
    let s ← get
    writeSpillBounds (field v 0 14) s.cx.spilllim.toNat
  | .spilllim => do
    let s ← get
    writeSpillBounds s.cx.spillbase.toNat (field v 0 15)
  | .spillovf =>
    if 2 ^ 43 < field v 16 27 * 65536 + 4 * field v 0 16 * 65536 then pure ()
    else modify (fun s => { s with cx := { s.cx with spillovf := v &&& rwBits .spillovf } })
  | .cpstat => if v.getLsbD 33 then modify (fun s => { s with regs := { s.regs with cpfault := false } }) else pure ()
  | .gangcfg => writeGangcfg v
  | .ovfcfg => writeOvfcfg v
  | .rvcfg => writeRvcfg v
  | .tblcfg => writeTblcfg v
  | .ptwa => modify (fun s => { s with regs := { s.regs with ptwa := v &&& rwBits .ptwa } })
  | .ptwd => modify (fun s => ptwStart s v)
  | .ptws => if v.getLsbD 4 then modify (fun s => { s with regs := { s.regs with ptwlost := false } }) else pure ()
  | .sdtime => modify (fun s => { s with regs := { s.regs with sdtime := v.extractLsb' 0 32 } })
  | .ctxsave => writeCtxsave v
  | .keysel => writeTaskReg k 0xA00 v
  | .keycmd => writeKeycmd k v
  | .scrubcfg => if field v 0 16 = 0 then pure ()
      else modify (fun s => { s with regs := { s.regs with scrubcfg := v &&& rwBits .scrubcfg } })
  | .snapstat => if v.getLsbD 0 then
      modify (fun s => { s with regs := { s.regs with snapstat := putField s.regs.snapstat 0 1 0 } }) else pure ()
  | _ => pure ()

/-! ### The instructions (R147, R215 to R217) -/

/-- R217: the checks of `c6`. -/
def needAdmin : Eff Unit := do
  let t ← theTask
  let c := capVal t 6
  if !c.tag then trapWith .capTag 0
  else if capSealed c then trapWith .capSealed 0
  else if !hasPerm c permADMIN then trapWith .capPerm 0
  else pure ()

/-- R147: the register that an access names, after its checks. -/
def checkReg (n : BitVec 12) (write : Bool) : Eff Reg := do
  let t ← theTask
  let st ← theStream
  if 0x800 ≤ n.toNat ∧ t.sup = false then trapWith .priv 0
  else match regOf n with
    | none => trapWith .illegalOp dtlCrNumber
    | some r => do
      if write && regWritesA r && decide (st = .E) then trapWith .streamMismatch 3 else pure ()
      if regAdmin r then needAdmin else pure ()
      pure r

/-- What a register reads as to the issuing task. -/
def regValue (r : Reg) : Eff Word := do
  let s ← get
  let t ← theTask
  pure (readReg? s (some (taskView t s.cur.2)) (curK s) r)

def execCrr (d : BitVec 5) (n : BitVec 12) (s : State) : Out :=
  issueSeq (do
    let r ← checkReg n false
    let v ← regValue r
    modify (fun s => clearOnRead s r)
    writeReg d v) s

def execCrw (a : BitVec 5) (n : BitVec 12) (s : State) : Out :=
  issueSeq (do
    let r ← checkReg n true
    let v ← readReg a
    let s ← get
    writeReg? (curK s) r v) s

/-- CRSET and CRCLR: `f` on the RW bits, which are then written; W1C, RC and WO fields stand. No write comes between, so
the bits are those of the newest write of either stream (R216). -/
def modifyRegBits (f : Word → Word → Word) (a : BitVec 5) (n : BitVec 12) : Eff Unit := do
  let r ← checkReg n true
  let m ← readReg a
  let s ← get
  let t ← theTask
  let v := readReg? s (some t) (curK s) r
  if rwBits r = 0 then pure () else writeReg? (curK s) r (f (v &&& rwBits r) (m &&& rwBits r))

def execCrset (a : BitVec 5) (n : BitVec 12) (s : State) : Out :=
  issueSeq (modifyRegBits (fun v m => v ||| m) a n) s

def execCrclr (a : BitVec 5) (n : BitVec 12) (s : State) : Out :=
  issueSeq (modifyRegBits (fun v m => v &&& ~~~m) a n) s

/-! ### Queues and flags (R219, R220) -/

def execQtest (d : BitVec 5) (q : BitVec 3) (s : State) : Out :=
  issueSeq (do
    let t ← theTask
    writeReg d (BitVec.ofNat 64 (queueCount t q.toNat))) s

def execSfset (f : BitVec 4) (s : State) : Out :=
  issueSeq (modTask (fun t => { t with sf := t.sf ||| BitVec.twoPow 16 f.toNat })) s

def execSfclr (f : BitVec 4) (s : State) : Out :=
  issueSeq (modTask (fun t => { t with sf := t.sf &&& ~~~(BitVec.twoPow 16 f.toNat) })) s

/-- SFWAIT issues only once its flag is set; held on it, the stream is queue-blocked (R220, R355). -/
def execSfwait (f : BitVec 4) (s : State) : Out :=
  issueSeq (do
    let t ← theTask
    if t.sf.getLsbD f.toNat then pure () else holdQueue (0x20 + f.toNat)) s

def execSftest (d : BitVec 5) (f : BitVec 4) (s : State) : Out :=
  issueSeq (do
    let t ← theTask
    writeReg d (Word.ofBool (t.sf.getLsbD f.toNat))) s

end Sys2Proof.Machine
end

