-- ==== Sys2Proof/Machine/Publish.lean ====
section
/-! DEFINITION. Writes at the memory point: tolerant rounding (R29), arrivals at barrier objects (R124, R125), releases and
their records (R85), watch replies (R89, R90), and the store buffer's oldest entry as it is performed (R75, R76). -/
namespace Sys2Proof.Machine

/-! ### Contexts by number -/

/-- A context that holds state on this core (R413): resident, out or absent. -/
def findCtx (s : State) (n : BitVec 12) : Option CtxState :=
  if n = 0 then none
  else if s.cx.num = n then some s.cx
  else s.others.find? (fun c => decide (c.num = n))

/-- Puts a context back. -/
def putCtx (s : State) (c : CtxState) : State :=
  if s.cx.num = c.num then { s with cx := c }
  else { s with others := s.others.map (fun x => if x.num = c.num then c else x) }

/-! ### Stores to tolerant pages (R29) -/

/-- Bytes `bs` at `a` of a tolerant page with the whole 32-bit words that they touch: first address and bytes. -/
def wholeWords (m : Mem) (a : Nat) (bs : List Byte) : Nat × List Byte :=
  let lo := a / 4 * 4
  let hi := (a + bs.length + 3) / 4 * 4
  (lo, roundedBytes m lo (a - lo) ++ bs ++ roundedBytes m (a + bs.length) (hi - (a + bs.length)))

/-- A data write at its place, rounded on a tolerant page. -/
def performBytes (s : State) (l : Loc) (bs : List Byte) (tol : Bool) : State :=
  if tol then
    let w := wholeWords (locMem s l) (locAddr l) bs
    rewriteCheck (setLocMem s l (memWrite (locMem s l) w.1 (roundWords (w.2.length / 4) w.2)))
      (match l with | .sram _ => .sram w.1 | .hbm _ => .hbm w.1) w.2.length
  else writeLoc s l bs

/-- A store of `n` bytes at `va` covers a line whole. -/
def coversLine (va : Word) (n : Nat) (l : BitVec 58) : Bool :=
  decide (va.toNat ≤ l.toNat * 64 ∧ l.toNat * 64 + 64 ≤ va.toNat + n)

/-- The slices hold the lines of an owner's store, changed and sealed anew under the Active key slot (R65 Table 3, R68);
bytes that were lost stay so in a line that the store does not cover whole. -/
def markLines (s : State) (ctx : BitVec 12) (va : Word) (n : Nat) : State :=
  if vaSpace va = 1 then s
  else
    (linesIn va n).foldl (fun s l =>
      keepLine s { SliceLine.filled s ctx l with
                   changed := true
                   bad := !coversLine va n l && (match heldLine s ctx l with | some x => x.bad | none => false) }) s

/-! ### Barrier objects (R124, R125) -/

/-- What arrives: a BARR or a retired command. -/
structure Arrival where
  fault : Bool
  part : Bool
  cause : BitVec 8
  lanes : Word
  addr : Word
  deriving DecidableEq, Repr

def Arrival.plain : Arrival := { fault := false, part := false, cause := 0, lanes := 0, addr := 0 }

def bObjDone (w : Word) : Bool := w.getLsbD 40
def bObjFault (w : Word) : Bool := w.getLsbD 41

/-- The status word after an arrival: steps 2 to 4 of R125. -/
def statusAfter (w : Word) (expected : Nat) (a : Arrival) : Word :=
  let count := satAdd 0xFFFFFFFF (field w 0 32) 1
  let cause := if field w 32 8 = 0 ∧ a.fault = true then a.cause.toNat else field w 32 8
  let done := bObjDone w || decide (expected ≤ count)
  let exceeds := w.getLsbD 43 || bObjDone w
  let w1 := putField (putField w 0 32 count) 32 8 cause
  let w2 := putField (putField w1 40 1 done.toNat) 41 1 (bObjFault w || a.fault).toNat
  putField (putField w2 42 1 (w.getLsbD 42 || a.part).toNat) 43 1 exceeds.toNat

/-- An arrival at the object at a scratchpad offset (R125). -/
def arriveAt (m : Mem) (off : Nat) (a : Arrival) : Mem :=
  let w := memDouble m off
  let m1 := if a.lanes = 0 then m
    else memWrite m (off + 16) (leBytes 8 (memDouble m (off + 16) ||| a.lanes).toNat)
  let m2 := if a.fault && !bObjFault w then memWrite m1 (off + 24) (leBytes 8 a.addr.toNat) else m1
  memWrite m2 off (leBytes 8 (statusAfter w (leNat (memBytes m (off + 8) 4)) a).toNat)

/-- The 32 bytes that BINIT writes (R124). -/
def freshObject (expected : BitVec 32) : List Byte :=
  leBytes 8 (if expected = 0 then 2 ^ 40 else 0) ++ leBytes 8 expected.toNat ++ leBytes 16 0

/-! ### Releases (R85) -/

/-- PUB goes up by one and the record is formed: steps 3 and 4 of R85. -/
def publish (s : State) (x : Bool) : State × Record :=
  let p := s.cx.pub + 1
  ({ s with cx := { s.cx with pub := p } }, { owner := ownId s, pub := p, x := x })

/-- A release by the executing task: the store buffer is empty, then PUB and the record. -/
def releaseTask : Eff Record := do
  needDrained
  let s ← get
  let t ← theTask
  let p := publish s (recordX t)
  set p.1
  pure p.2

/-! ### Watches (R89, R90) -/

/-- A message that a core makes for a context, to any destination (R304, R306). -/
def messageOf (s : State) (cx : CtxState) (dcore : BitVec 10) (dpkg : BitVec 9) (chan : BitVec 6) (kind : Nat)
    (payload : List Byte) (dctx : BitVec 12) (r : Option Record) : Message :=
  mkMessage (mkHdr0 dcore dpkg chan s.core s.pkg) (mkHdr1 cx.msgCounter 48 kind cx.num false dctx) payload r

/-- Makes and sends it, taking the context's counter. -/
def sendFrom (s : State) (cx : CtxState) (dcore : BitVec 10) (dpkg : BitVec 9) (chan : BitVec 6) (kind : Nat)
    (payload : List Byte) (dctx : BitVec 12) (r : Option Record) : State :=
  sendMessage (putCtx s { cx with msgCounter := cx.msgCounter + 1 })
    (messageOf s cx dcore dpkg chan kind payload dctx r)

/-- Statuses of a watch reply (R90 Table 6). -/
def watchMet : Nat := 0
def watchImmediate : Nat := 1
def watchFull : Nat := 2
def watchRefused : Nat := 3

def watchPayload (w : Watch) (value : Word) (status cause : Nat) (r : Option Record) : List Byte :=
  let pub := match r with | some x => x.pub.toNat | none => 0
  let x := match r with | some x => x.x.toNat | none => 0
  takePad 48 (leBytes 8 w.va.toNat ++ leBytes 8 value.toNat ++ leBytes 8 w.threshold.toNat ++ leBytes 6 pub ++
    leBytes 1 status ++ leBytes 1 x ++ leBytes 1 cause)

/-- The reply to a watcher, from the owner's context of the same number. A core without it has no counter to take. -/
def watchReply (s : State) (w : Watch) (value : Word) (status cause : Nat) (r : Option Record) : State :=
  let cx := (findCtx s w.ctx).getD (CtxState.fresh w.ctx)
  sendFrom s cx w.score w.spkg w.chan kindWatchReply (watchPayload w value status cause r) w.ctx r

/-- Watches that a SEQADV brings to their threshold. -/
def watchHit (ctx : BitVec 12) (va value : Word) (w : Watch) : Bool :=
  decide (w.ctx = ctx) && decide (w.va = va) && decide (w.threshold.toNat ≤ value.toNat)

/-- The port evaluates the watches on a word after a SEQADV (R89). -/
def evaluateWatches (s : State) (ctx : BitVec 12) (va value : Word) (r : Record) : State :=
  (s.watches.filter (watchHit ctx va value)).foldl (fun s w => watchReply s w value watchMet 0 (some r))
    { s with watches := s.watches.filter (fun w => !watchHit ctx va value w) }

/-! ### Atomics (R229) -/

/-- Every AMO writes; a CAS writes when it matches (R229, R230). Codes 0 to 8 are those of AMO (R178). -/
def amoWrites (op : BitVec 4) (x expected : Nat) : Bool := decide (op.toNat ≤ 8) || decide (x = expected)

/-- The new value: x in memory, y the operand, both of `n` bits (R178, R229). -/
def amoNew (n : Nat) (op : BitVec 4) (x y : Nat) : Nat :=
  match op.toNat with
  | 0 => (x + y) % 2 ^ n
  | 1 => x &&& y
  | 2 => x ||| y
  | 3 => x ^^^ y
  | 4 => y
  | 5 => if signedOf n y < signedOf n x then y else x
  | 6 => if signedOf n x < signedOf n y then y else x
  | 7 => if y < x then y else x
  | 8 => if x < y then y else x
  | _ => y

/-- The old value reaches the stream that waits for it. -/
def answerAtomic (s : State) (id : Nat) (old : Word) : State :=
  answerWait s (.atomic id none) (.atomic id (some old))

/-! ### The oldest entry (R75, R76) -/

/-- An atomic meets a sector or a word that cannot be corrected: it reads no value (R28). -/
def lostAt (s : State) (e : SbEntry) (l : Loc) : Bool :=
  match l with
  | .hbm b => badRead s e.ctx e.va b (sbLen e)
  | .sram a => badWord s.cx a (sbLen e)

/-- The sectors or words that an atomic reads are corrected where they can be (R28, R395). -/
def correctAt (s : State) (l : Loc) (n : Nat) : State :=
  match l with
  | .hbm b => correctSectors s b n
  | .sram a => correctWords s a n

/-- Every task of the core, wherever its context stands (R150). -/
def allTasks (s : State) : List Task :=
  (List.range 4).filterMap (fun k => match slotAt s k with
    | .running t => some t
    | .held t _ => some t
    | _ => none) ++ s.cx.susp.map (·.1) ++ s.others.flatMap (fun c => c.susp.map (·.1))

/-- X of a record formed as an entry is performed: from the table of its task as it now is (R85 step 4), or as it was when
the task ended. -/
def entryX (s : State) (e : SbEntry) : Bool :=
  match (allTasks s).find? (fun t => decide (t.tid = e.tid)) with
  | some t => recordX t
  | none => e.x

/-- Performs an entry at its place. -/
def performAt (s : State) (e : SbEntry) (l : Loc) : State :=
  let s1 := markLines s e.ctx e.va (sbLen e)
  match e.kind with
  | .data bs tol => performBytes s1 l bs tol
  | .cap c => writeCapLoc s1 l c
  | .seq v =>
    let p := publish (writeLoc s1 l (leBytes 8 v.toNat)) (entryX s e)
    evaluateWatches p.1 e.ctx e.va v p.2
  | .binit n => writeLoc s1 l (freshObject n)
  | .arrive => setLocMem s1 l (arriveAt (locMem s1 l) (locAddr l) Arrival.plain)
  | .amo op wide y expected id =>
    let n := if wide then 8 else 4
    let x := leNat (readLoc s l n)
    if lostAt s e l then answerWait s (.atomic id none) (.lost e.va)
    else if amoWrites op x (expected.toNat % 2 ^ (8 * n)) then
      answerAtomic (writeLoc (correctAt s1 l n) l (leBytes n (amoNew (8 * n) op x (y.toNat % 2 ^ (8 * n))))) id (BitVec.ofNat 64 x)
    else answerAtomic (correctAt s l n) id (BitVec.ofNat 64 x)

end Sys2Proof.Machine
end

