-- ==== Sys2Proof/Machine/Copy.lean ====
section
/-! DEFINITION. The copy engine and its instructions, barrier objects and the result FIFO (R115 to R128, R236 to R241). -/
namespace Sys2Proof.Machine

/-! ### The push (R116, R236 to R239) -/

/-- Entries of the command queue (R117). -/
def copyQueueDepth : Nat := 2

/-- Largest extent (R115). -/
def maxExtent : Nat := 2 ^ 24

/-- The lowest free entry of the range scoreboard (R109). -/
def freeEntry (s : State) : Option (BitVec 3) :=
  ((List.range 8).map (BitVec.ofNat 3)).find? (fun i => !(s.copies.any (fun c => decide (c.entry = some i))))

def needCopyQueue : Eff Unit := do
  let s ← get
  if (s.copies.filter (fun c => !c.started)).length < copyQueueDepth then pure () else holdOther

def needEntry : Eff (BitVec 3) := do
  let s ← get
  match freeEntry s with
  | some i => pure i
  | none => holdOther

/-- A register operand above its limit (R222). -/
def operandLimit (ok : Bool) : Eff Unit := if ok then pure () else trapWith .illegalOp dtlOperand

/-- The checks of a destination range (R115, R236, R238). -/
def checkDst (dst : Cap) (n : Nat) (scratch : Bool) : Eff Unit := do
  let va := capAddr dst
  checkRange { cap := dst, va := va, len := n, perms := [permST], align := 0, store := true }
    (fun va => if vaSpace va = 2 then some dtlEngineSpace
      else if scratch && decide (vaSpace va ≠ 1) then some dtlNotScratchpad else none)
  chainCheck va n

/-- The permission that a read at `va` needs: LD for own memory, PULL for another owner's (R115). -/
def readPerm (s : State) (va : Word) : Nat := if isOwn s va then permLD else permPULL

/-- The permissions that a read of a range needs, of every owner that it runs through. -/
def readPerms (s : State) (va : Word) (n : Nat) : List Nat := (ownerPieces va n).map (fun p => readPerm s p.1)

/-- The checks of a source range; COPY takes own memory only. -/
def checkSrc (src : Cap) (n : Nat) (ownOnly : Bool) : Eff Unit := do
  let s ← get
  let va := capAddr src
  checkRange { cap := src, va := va, len := n, perms := if ownOnly then [permLD] else readPerms s va n, align := 0,
               store := false, badValue := ownOnly && !((ownerPieces va n).all (fun p => isOwn s p.1)) }

/-- An address of the core's own scratchpad range (R116). -/
def ownSram (s : State) (va : Word) : Bool := decide (vaSpace va = 1) && isOwn s va

/-- The check of a barrier object: ST over 32 bytes of own scratchpad (R116, R240). Its offset. -/
def checkObject (cb : Cap) : Eff (BitVec 22) := do
  let s ← get
  let va := capAddr cb
  checkAccess { cap := cb, va := va, len := 32, perms := [permST], align := 32, store := true }
    (if ownSram s va then none else some dtlNotScratchpad)
  pure (va.extractLsb' 0 22)

/-- The object that a command names; none for `c0`. -/
def commandObject (k : BitVec 4) : Eff (Option (BitVec 22)) :=
  if k = 0 then pure none
  else do
    let cb ← readCap (k.setWidth 5)
    let o ← checkObject cb
    pure (some o)

def isPref : CopyKind → Bool
  | .pref _ => true
  | _ => false

/-- The push, with its release at POD (R95). A prefetch pushed while its context is being switched out is cancelled
(R123). -/
def pushCopy (kind : CopyKind) (src dst : Cap) (len : Nat) (obj : Option (BitVec 22)) (entry : Option (BitVec 3)) :
    Eff Unit := do
  let _ ← releaseTask
  let s ← get
  let t ← theTask
  let c : CopyCmd :=
    { id := s.nextId, tid := t.tid, slot := s.cur.1, ctx := t.ctx, kind := kind, src := src, dst := dst, len := len,
      obj := obj, entry := entry, started := false, todo := [], parts := [], got := [], done := 0,
      stopped := s.switchReq && isPref kind, fault := false, cause := 0, lanemask := 0, faultaddr := 0, pairs := [] }
  set { s with copies := s.copies ++ [c], nextId := s.nextId + 1 }

/-- COPY and PULL. -/
def pushLinear (kind : CopyKind) (ownOnly : Bool) (d c b : BitVec 5) (m : BitVec 1) (k : BitVec 4) : Eff Unit := do
  let y ← readSrc b (marked m 0)
  needCopyQueue
  let en ← needEntry
  operandLimit (decide (y.toNat ≤ maxExtent))
  let dst ← readCap d
  let src ← readCap c
  checkDst dst y.toNat false
  checkSrc src y.toNat ownOnly
  let obj ← commandObject k
  pushCopy kind src dst y.toNat obj (some en)

def execCopy (d c b : BitVec 5) (m : BitVec 1) (k : BitVec 4) (s : State) : Out :=
  issueSeq (pushLinear .copy true d c b m k) s
def execPull (d c b : BitVec 5) (m : BitVec 1) (k : BitVec 4) (s : State) : Out :=
  issueSeq (pushLinear .pull false d c b m k) s

/-- Bytes from the first byte of row 0 to the last byte of the last row (R237). -/
def hull (rows rowlen stride : Nat) : Nat := (rows - 1) * stride + rowlen

def execPull2 (d c b : BitVec 5) (k : BitVec 4) (s : State) : Out :=
  issueSeq (do
    let x ← readReg b
    let y ← readReg (b + 1)
    needCopyQueue
    let en ← needEntry
    let rowlen := field y 0 17
    let rows := field y 32 16
    operandLimit (decide (1 ≤ rowlen ∧ rowlen ≤ 65536 ∧ 1 ≤ rows ∧ rows ≤ 4096 ∧ rows * rowlen ≤ maxExtent))
    let dst ← readCap d
    let src ← readCap c
    checkDst dst (hull rows rowlen (field x 32 32)) false
    checkSrc src (hull rows rowlen (field x 0 32)) false
    let obj ← commandObject k
    pushCopy (.pull2 rows rowlen (field x 0 32) (field x 32 32)) src dst (rows * rowlen) obj (some en)) s

/-- Bytes of a lane by its size code (R238). -/
def laneBytes (code : Nat) : Nat :=
  match code with
  | 0 => 4 | 1 => 8 | 2 => 16 | 3 => 64 | _ => 256

/-- The address of a gather lane. -/
def laneVa (src : Cap) (off : Word) : Word := capAddr src + off

/-- Checks the lanes in ascending order from lane `i`: the first that fails gives its cause with the lane as detail. -/
def checkLanes (src : Cap) (size : Nat) : Nat → List Word → Eff Unit
  | _, [] => pure ()
  | i, off :: r => do
    let s ← get
    let t ← theTask
    let va := laneVa src off
    let a : Access44 := { cap := src, va := va, len := size, perms := [readPerm s va], align := size, store := false }
    match accessCheck s t.ctx a none with
    | some (c, d) => trapWith (if c = .capBounds then .laneBounds else c) i (faultByte s a c d)
    | none => checkLanes src size (i + 1) r

/-- The lane offsets of a popped element, `n` of them. -/
def laneOffsets (x : VecWord) (n : Nat) : List Word := (List.range n).map (fun i => sext64 (x.extractLsb' (32 * i) 32))

def execGather (d c b : BitVec 5) (m : BitVec 1) (k : BitVec 4) (s : State) : Out :=
  issueSeq (do
    let y ← readSrc b (marked m 0)
    let x ← peekVsq
    needCopyQueue
    let en ← needEntry
    let n := field y 0 7
    let code := field y 8 3
    operandLimit (decide (1 ≤ n ∧ n ≤ 64 ∧ code ≤ 4))
    let dst ← readCap d
    let src ← readCap c
    checkDst dst (n * laneBytes code) true
    checkLanes src (laneBytes code) 0 (laneOffsets x n)
    let obj ← commandObject k
    dropVsq
    pushCopy (.gather (laneBytes code) (laneOffsets x n)) src dst (n * laneBytes code) obj (some en)) s

/-- PREF, FLUSH and INVAL: no scoreboard entry. -/
def pushRange (kind : CopyKind) (pull : Bool) (c b : BitVec 5) (m : BitVec 1) (k : BitVec 4) : Eff Unit := do
  let y ← readSrc b (marked m 0)
  needCopyQueue
  operandLimit (decide (y.toNat ≤ maxExtent))
  let src ← readCap c
  let s ← get
  checkRange { cap := src, va := capAddr src, len := y.toNat,
               perms := if pull then readPerms s (capAddr src) y.toNat else [permLD], align := 0, store := false }
  let obj ← commandObject k
  pushCopy kind src Cap.null y.toNat obj none

def execPref (c b : BitVec 5) (m t : BitVec 1) (k : BitVec 4) (s : State) : Out :=
  issueSeq (pushRange (.pref (decide (t = 1))) true c b m k) s
def execFlush (c b : BitVec 5) (m : BitVec 1) (k : BitVec 4) (s : State) : Out :=
  issueSeq (pushRange .flush false c b m k) s
def execInval (c b : BitVec 5) (m : BitVec 1) (k : BitVec 4) (s : State) : Out :=
  issueSeq (pushRange .inval false c b m k) s

/-! ### Barrier instructions (R240, R241) -/

/-- Some command in the queue or in flight names the object. -/
def objectNamed (s : State) (ctx : BitVec 12) (o : BitVec 22) : Bool :=
  s.copies.any (fun c => decide (c.ctx = ctx) && decide (c.obj = some o))

/-- The object that BINIT and BARR name: `c0` traps with CAP_TAG (R240). -/
def writtenObject (c : BitVec 5) : Eff (BitVec 22) :=
  if c = 0 then trapWith .capTag 0 0
  else do
    let x ← readCap c
    checkObject x

def execBinit (c b : BitVec 5) (s : State) : Out :=
  issueSeq (do
    let x ← readCap c
    let y ← readReg b
    let o ← writtenObject c
    let s ← get
    let t ← theTask
    if objectNamed s t.ctx o then holdOther else pure ()
    stallOwn (capAddr x) 32 true
    pushStore { ctx := t.ctx, tid := t.tid, va := capAddr x, loc := some (.sram o.toNat),
                kind := .binit (y.extractLsb' 0 32), x := recordX t }) s

def execBarr (c : BitVec 5) (s : State) : Out :=
  issueSeq (do
    let x ← readCap c
    let o ← writtenObject c
    let t ← theTask
    stallOwn (capAddr x) 32 true
    pushStore { ctx := t.ctx, tid := t.tid, va := capAddr x, loc := some (.sram o.toNat), kind := .arrive,
                x := recordX t }) s

/-- Acquires a popped element: its observations enter the table (R95, R87). -/
def observeAll (s : State) (t : Task) (ps : List (Owner × BitVec 48)) : Task :=
  ps.foldl (fun t p => observe s t p.1 p.2) t

/-- Pops the elements of the task that meet `p` (R127). -/
def popResults (p : Completion → Bool) : Eff (List Completion) := do
  let s ← get
  let t ← theTask
  let mine := fun (r : Completion) => decide (r.tid = t.tid) && p r
  let got := s.cx.results.filter mine
  set { s with cx := { s.cx with results := s.cx.results.filter (fun r => !mine r) } }
  setTheTask (observeAll s t (got.flatMap (·.pairs)))
  pure got

/-- The word that `c0` gives over a list of elements (R241). -/
def c0Word (rs : List Completion) (done : Bool) : Word :=
  BitVec.ofNat 64 (rs.length + done.toNat * 2 ^ 40 + (rs.any (·.fault)).toNat * 2 ^ 41 + (rs.any (·.part)).toNat * 2 ^ 42)

/-- BWAIT and BTEST naming `c0`. -/
def barrierAll (waits : Bool) : Eff Word := do
  let s ← get
  let t ← theTask
  if s.copies.any (fun c => decide (c.tid = t.tid)) then
    if waits then holdOther
    else pure (c0Word (s.cx.results.filter (fun r => decide (r.tid = t.tid))) false)
  else do
    let got ← popResults (fun _ => true)
    pure (c0Word got true)

/-- BWAIT and BTEST naming an object. -/
def barrierOne (c : BitVec 5) (waits : Bool) : Eff Word := do
  let x ← readCap c
  let o ← checkObject x
  let bs ← loadOwn (capAddr x) 8
  let w := BitVec.ofNat 64 (leNat bs)
  if bObjDone w then do
    let _ ← popResults (fun r => decide (r.obj = some o))
    pure w
  else if waits then holdOther
  else pure w

def barrierWord (c : BitVec 5) (waits : Bool) : Eff Word := if c = 0 then barrierAll waits else barrierOne c waits

def execBwait (d c : BitVec 5) (m : BitVec 1) (s : State) : Out :=
  issueSeq (do
    needDst d (marked m 0)
    let w ← barrierWord c true
    writeDst d (marked m 0) w) s

def execBtest (d c : BitVec 5) (m : BitVec 1) (s : State) : Out :=
  issueSeq (do
    needDst d (marked m 0)
    let w ← barrierWord c false
    writeDst d (marked m 0) w) s

/-! ### Reading (R118 to R120) -/

/-- A range of this core's space 0 or 3 whose access ends the context: its slices find no Active key slot (`true`), or the
walk an entry that cannot be corrected (R28, R65). -/
def fatalRange (s : State) (ctx : BitVec 12) (va : Word) (n : Nat) : Option Bool :=
  if vaSpace va = 1 ∨ n = 0 then none
  else if (activeKey s ctx).isNone then some true
  else if (rangeFrom (vaOff va / 65536) ((vaOff va + n + 65535) / 65536 - vaOff va / 65536)).any (fun p =>
      (walkEntries s ctx (decide (vaSpace va = 3)) p).any (fun b => badSector s b 8)) then some false
  else none

/-- Bytes and tags of `n` bytes of this core's memory inside one 32-byte sector, read at the memory point; the cause
when they cannot be read. `cx` is the context whose scratchpad is named, `isOwner` whether the owner reads. -/
def readSector (s : State) (cx : CtxState) (isOwner : Bool) (va : Word) (n : Nat) :
    Except (BitVec 8) (List Byte × List Bool) :=
  if vaSpace va = 1 then
    if badWord cx (vaOff va) n then .error 0x1C
    else .ok (memBytes cx.sram (vaOff va) n, pageTags cx.sram false (vaOff va) n)
  else match walk s cx.num (decide (vaSpace va = 3)) isOwner (vaOff va) with
    | .notPresent => .error 0x0A
    | .refused => .error 0x0B
    | .broken => .error 0x1C
    | .ok b l =>
      if badRead s cx.num va b n then .error 0x1C
      else .ok (pageBytes s.home.mem l.tol b n, pageTags s.home.mem l.tol b n)

/-- `n` bytes from `va`, sector by sector, up to the first that fails. -/
def readRun (s : State) (cx : CtxState) (isOwner : Bool) : Nat → Word → Nat → List Byte × List Bool × Option (BitVec 8)
  | 0, _, _ => ([], [], none)
  | fuel + 1, va, n =>
    if n = 0 then ([], [], none)
    else
      let k := min n (32 - va.toNat % 32)
      match readSector s cx isOwner va k with
      | .error e => ([], [], some e)
      | .ok (bs, ts) =>
        let r := readRun s cx isOwner fuel (va + BitVec.ofNat 64 k) (n - k)
        (bs ++ r.1, ts ++ r.2.1, r.2.2)

/-- Any error is held at all. -/
def anyError (s : State) (cx : CtxState) : Bool := !s.home.errors.isEmpty || !cx.sramErr.isEmpty ||
  s.home.slices.any (fun p => p.2.lines.any (·.bad))

/-- The errors that such a read meets: corrections, and the one that ends it, are counted (R395). -/
def noteRun (cx : CtxState) (isOwner : Bool) : Nat → Word → Nat → State → State
  | 0, _, _, s => s
  | fuel + 1, va, n, s =>
    if n = 0 then s
    else if vaSpace va = 1 then
      let k := min n (8 - va.toNat % 8)
      if cx.num ≠ s.cx.num then s
      else if badWord s.cx (vaOff va) k then countUncorr s
      else noteRun cx isOwner fuel (va + BitVec.ofNat 64 k) (n - k) (correctWords s (vaOff va) k)
    else
      let k := min n (32 - va.toNat % 32)
      match walk s cx.num (decide (vaSpace va = 3)) isOwner (vaOff va) with
      | .ok b _ =>
        if badRead s cx.num va b k then countUncorr s
        else noteRun cx isOwner fuel (va + BitVec.ofNat 64 k) (n - k)
          (correctSectors (noteWalk s cx.num (decide (vaSpace va = 3)) (vaOff va)) b k)
      | _ => s

/-- The same for `n` bytes from `va`. -/
def noteErrors (s : State) (cx : CtxState) (isOwner : Bool) (va : Word) (n : Nat) : State :=
  if anyError s cx then noteRun cx isOwner (n / 8 + 2) va n s else s

/-- A part in this core's own memory. -/
def readPart (s : State) (p : CopyPart) : CopyData :=
  let r := readRun s s.cx true (p.len / 32 + 2) p.va p.len
  { part := p, bytes := r.1, tags := r.2.1, fault := r.2.2 }

/-- The ranges of a command's source: place in its extent, address, bytes. A prefetch takes whole lines. -/
def commandRanges (c : CopyCmd) : List (Nat × Word × Nat) :=
  let a := capAddr c.src
  match c.kind with
  | .pull2 rows rowlen ss _ => (List.range rows).map (fun r => (r * rowlen, a + BitVec.ofNat 64 (r * ss), rowlen))
  | .gather lane offs => (List.range offs.length).map (fun i => (i * lane, laneVa c.src (offs.getD i 0), lane))
  | .pref _ =>
    let lo := a.toNat / 64 * 64
    if c.len = 0 then [] else [(0, BitVec.ofNat 64 lo, (a.toNat + c.len + 63) / 64 * 64 - lo)]
  | _ => if c.len = 0 then [] else [(0, a, c.len)]

/-- The parts of a command's source, of one owner each, named from `id` on; FLUSH and INVAL read nothing. -/
def commandParts (c : CopyCmd) (id : Nat) : List CopyPart :=
  let ps := (commandRanges c).flatMap (fun r => (ownerPieces r.2.1 r.2.2).map (fun p =>
    (r.1 + (p.1.toNat - r.2.1.toNat), p.1, p.2)))
  match c.kind with
  | .flush => []
  | .inval => []
  | _ => ps.mapIdx (fun i p => { read := id + i, pos := p.1, va := p.2.1, len := p.2.2 })

/-- Whether a prefetch reads anything of an owner (R121, R239); a host window that this core writes is own memory (R375),
which no cached copy holds (R102). -/
def prefReads (s : State) (ctx : BitVec 12) (tier1 : Bool) (va : Word) : Bool :=
  let t1 := tier1 && decide (s.cx.split ≠ 0) && !isOwn s va && !ownWindow s ctx va
  match vaSpace va with
  | 1 => t1 && !sameSuperGroup s va
  | 2 => t1
  | _ => true

/-! ### The start (R117) -/

/-- The own ranges that a command names as its source, in the address space. -/
def sourceRanges (s : State) (c : CopyCmd) : List (Nat × Nat) :=
  (commandRanges c).flatMap (fun r => (ownerPieces r.2.1 r.2.2).filterMap (fun p =>
    if isOwn s p.1 then some (p.1.toNat, p.2) else none))

/-- Every own range that it reads or writes, with whether it writes it. -/
def ownRanges (s : State) (c : CopyCmd) : List (Nat × Nat × Bool) :=
  (sourceRanges s c).map (fun r => (r.1, r.2, false)) ++
    (if holdsScore c && decide (0 < copyDstLen c) then [((capAddr c.dst).toNat, copyDstLen c, true)] else [])

/-- It overlaps the recorded destination of an earlier command (R110). -/
def waitsOnCopy (s : State) (c : CopyCmd) : Bool :=
  s.copies.any (fun o => decide (o.id < c.id) && holdsScore o && decide (0 < copyDstLen o) &&
    let d := gran64 (capAddr o.dst).toNat (copyDstLen o)
    (ownRanges s c).any (fun r => overlaps r.1 r.2.1 d.1 d.2))

/-- It overlaps a range that an earlier matrix command holds (R270). -/
def waitsOnMatrix (s : State) (c : CopyCmd) : Bool :=
  let hit := fun (m : MxCmd) => decide (m.stamp ≤ c.id) && m.holds.any (fun h => (ownRanges s c).any (fun r =>
    decide (vaSpace (BitVec.ofNat 64 r.1) = 1) && (r.2.2 || h.2.2) &&
      overlaps (vaOff (BitVec.ofNat 64 r.1)) r.2.1 h.1 h.2.1))
  s.mxQueue.any hit || (match s.mxRun with | some r => hit r.cmd | none => false)

/-- The source or destination lies on a page that is being moved (R73). -/
def waitsOnMove (s : State) (c : CopyCmd) : Bool :=
  s.tableOp.isSome && (ownRanges s c).any (fun r =>
    (rangeFrom (r.1 / 65536) ((r.1 + r.2.1 + 65535) / 65536 - r.1 / 65536)).any (fun p =>
      moveHolds s c.ctx (BitVec.ofNat 64 (p * 65536))))

/-- The next command that may start (R117); a cancelled prefetch only needs its element. -/
def startable (s : State) : Option CopyCmd :=
  match s.copies.find? (fun c => !c.started) with
  | none => none
  | some c =>
    if s.cx.results.length + (s.copies.filter (·.started)).length < 16 ∧
        (c.stopped = true ∨ (waitsOnCopy s c = false ∧ waitsOnMatrix s c = false ∧ waitsOnMove s c = false)) then some c
    else none

def putCopy (s : State) (c : CopyCmd) : State :=
  { s with copies := s.copies.map (fun x => if x.id = c.id then c else x) }

/-- A read request of a command leaves for the owner (R119); one to a package that is fenced off, to a core out of service,
or that the own host agent refuses fails at once (R370, R374). -/
def askPart (s : State) (c : CopyCmd) (p : CopyPart) : State × Option CopyData :=
  if noPackage s p.va || fencedOff s (vaPkg p.va) ||
      (decide (vaSpace p.va = 2) && decide (vaPkg p.va = s.pkg) && !hostReady s c.ctx p.va p.len) then
    (s, some { part := p, bytes := [], tags := [], fault := some 0x0B })
  else
    let q : Pending :=
      { id := p.read, slot := c.slot, tid := c.tid, ctx := c.ctx, owner := ownerOf s c.ctx p.va, va := p.va,
        len := p.len, cached := false, cap := c.src,
        purpose := match c.kind with | .pref _ => .pref c.id | _ => .copy c.id }
    (sendRead { s with pending := s.pending ++ [q] } q, none)

/-- Takes each part: own memory is read now, other owners are asked once no fresh read of the part's lines is in flight
(R363). -/
def takeParts (s : State) (c : CopyCmd) : List CopyPart → State × CopyCmd
  | [] => (s, c)
  | p :: r =>
    if isOwn s p.va then
      match fatalRange s c.ctx p.va p.len with
      | some key => takeParts (endContext s c.ctx key) c r
      | none => takeParts (noteErrors s s.cx true p.va p.len) { c with got := c.got ++ [readPart s p] } r
    else if freshInFlight s p.va p.len then takeParts s { c with todo := c.todo ++ [p] } r
    else
      let q := askPart s c p
      match q.2 with
      | some d => takeParts q.1 { c with got := c.got ++ [d] } r
      | none => takeParts q.1 { c with parts := c.parts ++ [p] } r

/-- FLUSH: the changed own lines of the range are written back and stay valid (R122). -/
def flushLines (s : State) (ctx : BitVec 12) (a n : Nat) : State :=
  mapSlices (fun z => { z with lines := z.lines.map (fun l =>
      if l.ctx = ctx ∧ overlaps (l.line.toNat * 64) 64 a n = true then { l with changed := false } else l) }) s

/-- INVAL: the foreign lines of the range go, in the pool too (R122). -/
def invalLines (s : State) (ctx : BitVec 12) (a n : Nat) : State :=
  let s1 := { s with lines := s.lines.filter (fun l =>
    !(decide (l.ctx = ctx) && overlaps (l.line.toNat * 64) 64 a n)) }
  if poolActive s then emit s1 (.poolInval ctx (BitVec.ofNat 64 a) n) else s1

/-- The own lines that a prefetch brings into the covering slices (R121): those of the bytes that could be read. -/
def prefetchOwn (s : State) (ctx : BitVec 12) (d : CopyData) : State :=
  if vaSpace d.part.va = 1 then s
  else
    let ls := (rangeFrom (d.part.va.toNat / 64) (d.bytes.length / 64)).map (BitVec.ofNat 58)
    ls.foldl (fun s l =>
      if (heldLine s ctx l).isSome || filling s ctx (lineVa l) 1 then s else keepLine s (SliceLine.filled s ctx l)) s

/-- COPY_COMMAND_START of a command. -/
def startCopy (s : State) (c : CopyCmd) : State :=
  let ranges := ownerPieces (capAddr c.src) c.len
  let c1 := { c with started := true }
  if c.stopped then putCopy s c1
  else match c.kind with
  | .flush => (ranges.filter (fun p => isOwn s p.1)).foldl (fun s p => flushLines s c.ctx p.1.toNat p.2) (putCopy s c1)
  | .inval => (ranges.filter (fun p => !isOwn s p.1)).foldl (fun s p => invalLines s c.ctx p.1.toNat p.2) (putCopy s c1)
  | .pref t =>
    let ps := (commandParts c s.nextId).filter (fun p => prefReads s c.ctx t p.va)
    let r := takeParts { s with nextId := s.nextId + (commandParts c s.nextId).length } c1 ps
    r.2.got.foldl (fun s d => if isOwn s d.part.va then prefetchOwn s c.ctx d else s) (putCopy r.1 r.2)
  | _ =>
    let ps := commandParts c s.nextId
    let r := takeParts { s with nextId := s.nextId + ps.length } c1 ps
    putCopy r.1 r.2

/-- A started command asks for the parts that had to wait, and some can now be asked for. -/
def pumpParts (s : State) : Option State :=
  (s.copies.find? (fun c => c.started && c.todo.any (fun p => !freshInFlight s p.va p.len))).map (fun c =>
    let r := takeParts s { c with todo := [] } c.todo
    putCopy r.1 r.2)

/-- COPY_COMMAND_START: the next command starts, or one that has started sends reads that had to wait. -/
def execCopyCommandStart (s : State) : Out :=
  event (do
    let s ← get
    match startable s with
    | some c => set (startCopy s c)
    | none =>
      match pumpParts s with
      | some s1 => set s1
      | none => noSubject) s

/-! ### Depositing (R118, R120) -/

/-- A byte of a command's extent: not there yet, its value, or the cause of its failure. -/
inductive SrcByte where
  | waiting
  | value (b : Byte)
  | failed (cause : BitVec 8)
  deriving DecidableEq, Repr

def dataAt (c : CopyCmd) (p : Nat) : Option CopyData :=
  c.got.find? (fun d => decide (d.part.pos ≤ p ∧ p < d.part.pos + d.part.len))

def srcByte (c : CopyCmd) (p : Nat) : SrcByte :=
  match dataAt c p with
  | none => .waiting
  | some d =>
    match d.bytes[p - d.part.pos]?, d.fault with
    | some b, _ => .value b
    | none, some e => .failed e
    | none, none => .waiting

/-- The extent position whose byte stands at destination offset `o` at the end: of PULL2 that of the highest row (R237).
A byte of a lower row there is not needed, and its failure is none of the command's (log entry 169, DESIGN CHOICE). -/
def posOf (c : CopyCmd) (o : Nat) : Option Nat :=
  match c.kind with
  | .pull2 rows rowlen _ ds =>
    let r := if ds = 0 then rows - 1 else min (rows - 1) (o / ds)
    if o < r * ds + rowlen then some (r * rowlen + (o - r * ds)) else none
  | _ => if o < c.len then some o else none

/-- The first destination offset from `o` on that the command writes. -/
def nextCovered (c : CopyCmd) (o : Nat) : Option Nat :=
  if (posOf c o).isSome then some o
  else match c.kind with
    | .pull2 rows _ _ ds =>
      let r := if ds = 0 then rows else o / ds + 1
      if r < rows then some (r * ds) else none
    | _ => none

/-- End of the destination granule that holds offset `o` (R120). -/
def granEnd (c : CopyCmd) (o : Nat) : Nat :=
  let a := (capAddr c.dst).toNat
  min (copyDstLen c) (((a + o) / 64 + 1) * 64 - a)

/-- The bytes of the granule from `o` to `e`: (offset, extent position). -/
def granBytes (c : CopyCmd) (o e : Nat) : List (Nat × Nat) :=
  (rangeFrom o (e - o)).filterMap (fun i => (posOf c i).map (fun p => (i, p)))

/-- All bytes are there; none while some is not; or the cause of the first, in the order of the offsets, that has failed
(log entry 168, DESIGN CHOICE: R120 does not rank several). -/
def collect (c : CopyCmd) : List (Nat × Nat) → Option (Except (BitVec 8) (List (Nat × Byte)))
  | [] => some (.ok [])
  | (i, p) :: r =>
    match srcByte c p, collect c r with
    | .failed e, _ => some (.error e)
    | .waiting, some (.error e) => some (.error e)
    | .waiting, _ => none
    | .value b, some (.ok l) => some (.ok ((i, b) :: l))
    | .value _, x => x

/-- Maximal runs of consecutive offsets. -/
def groupRuns : List (Nat × Byte) → List (Nat × List Byte)
  | [] => []
  | (i, b) :: r =>
    match groupRuns r with
    | (j, bs) :: q => if j = i + 1 then (i, b :: bs) :: q else (i, [b]) :: (j, bs) :: q
    | [] => [(i, [b])]

/-- The tag that a deposited granule keeps at destination offset `o`, extent position `p` (R51, R38, R52, R56). -/
def carried (s : State) (c : CopyCmd) (l : Loc) (o p : Nat) : Option Cap :=
  match dataAt c p with
  | none => none
  | some d =>
    let sa := d.part.va + BitVec.ofNat 64 (p - d.part.pos)
    let i := sa.toNat / 16 - d.part.va.toNat / 16
    if sa.toNat % 16 = 0 ∧ (locAddr l) % 16 = 0 ∧ p + 16 ≤ d.part.pos + d.part.len ∧ d.tags.getD i false = true ∧
        hasPerm c.src permTAGRD = true ∧ hasPerm c.dst permTAGWR = true then
      let g : Cap := { bits := BitVec.ofNat 128 (leNat (memBytes (locMem s l) (locAddr l) 16)), tag := true }
      let g1 := if isOwn s sa then g else capArrive g
      let g2 := if hasPerm c.src permDEEP then g1 else capShallow g1
      let g3 := filterCap s c.ctx g2
      if vaSpace (capAddr c.dst + BitVec.ofNat 64 o) = 1 ∨ hasPerm g3 permROAM = true then some g3 else none
    else none

/-- Moves a location. -/
def locPlus : Loc → Nat → Loc
  | .sram a, n => .sram (a + n)
  | .hbm a, n => .hbm (a + n)

/-- Places the tags of a run: 16-byte granules of it whose source granule keeps its tag. -/
def placeTags (s : State) (c : CopyCmd) (l : Loc) (o : Nat) (ps : List (Nat × Nat)) : Nat → State
  | 0 => s
  | n + 1 =>
    let s1 := placeTags s c l o ps n
    match ps.find? (fun x => decide (x.1 = o + n)) with
    | none => s1
    | some x =>
      if ps.any (fun y => decide (y.1 = o + n + 15 ∧ y.2 = x.2 + 15)) then
        match carried s1 c (locPlus l n) (o + n) x.2 with
        | some g => writeCapLoc s1 (locPlus l n) g
        | none => s1
      else s1

/-- Deposits a run at its place. -/
def depositRun (s : State) (c : CopyCmd) (l : Loc) (tol : Bool) (ps : List (Nat × Nat)) (run : Nat × List Byte) : State :=
  let s1 := markLines (performBytes s l run.2 tol) c.ctx (capAddr c.dst + BitVec.ofNat 64 run.1) run.2.length
  if tol then s1 else placeTags s1 c l run.1 ps run.2.length

/-- The place of a deposit in own memory: a page that the owner may store to (R64, R120). -/
def depositPlace (s : State) (ctx : BitVec 12) (va : Word) : Except (BitVec 8) (Loc × Bool) :=
  if vaSpace va = 1 then .ok (.sram (vaOff va), false)
  else match walk s ctx false true (vaOff va) with
    | .notPresent => .error 0x0A
    | .refused => .error 0x0B
    | .broken => .error 0x1C
    | .ok b l => if l.w then .ok (.hbm b, l.tol) else .error 0x0B

/-- A deposit finds that the context ends: no byte is written, and the command stops. -/
def fatalDeposit (s : State) (c : CopyCmd) (key : Bool) : State :=
  endContext (putCopy s { c with stopped := true, fault := true, cause := 0x1C }) c.ctx key

/-- The command stops at the granule of offset `o` (R120, R124). -/
def stopCopy (c : CopyCmd) (o : Nat) (e : BitVec 8) : CopyCmd :=
  let a := (capAddr c.dst).toNat
  { c with stopped := true, fault := true, cause := e, faultaddr := BitVec.ofNat 64 (max a ((a + o) / 64 * 64)) }

/-- The next destination granule of COPY, PULL and PULL2, after a fill of its line that is under way (R65). -/
def depositGran (s : State) (c : CopyCmd) : Option State :=
  match nextCovered c c.done with
  | none => none
  | some o =>
    let e := granEnd c o
    let ps := granBytes c o e
    match (if filling s c.ctx (capAddr c.dst + BitVec.ofNat 64 o) (e - o) then none else collect c ps) with
    | none => none
    | some (.error f) => some (putCopy s (stopCopy c o f))
    | some (.ok bs) =>
      match fatalRange s c.ctx (capAddr c.dst + BitVec.ofNat 64 o) (e - o) with
      | some key => some (fatalDeposit s c key)
      | none =>
      match depositPlace s c.ctx (capAddr c.dst + BitVec.ofNat 64 o) with
      | .error f => some (putCopy s (stopCopy c o f))
      | .ok (l, tol) =>
        let s1 := (groupRuns bs).foldl (fun s r => depositRun s c (locPlus l (r.1 - o)) tol ps r) s
        some (putCopy s1 { c with done := e })

/-- The next lane of a gather (R120, R125). -/
def depositLane (s : State) (c : CopyCmd) (lane n : Nat) : Option State :=
  if n ≤ c.done then none
  else
    let o := c.done * lane
    let ps := (List.range lane).map (fun j => (o + j, o + j))
    match collect c ps with
    | none => none
    | some (.error f) =>
      some (putCopy s { c with
        done := c.done + 1
        fault := true
        cause := if c.fault then c.cause else f
        lanemask := c.lanemask ||| BitVec.ofNat 64 (2 ^ c.done)
        faultaddr := if c.fault then c.faultaddr else capAddr c.dst + BitVec.ofNat 64 o })
    | some (.ok bs) =>
      let l := Loc.sram (vaOff (capAddr c.dst) + o)
      let s1 := (groupRuns bs).foldl (fun s r => depositRun s c (locPlus l (r.1 - o)) false ps r) s
      some (putCopy s1 { c with done := c.done + 1 })

/-- The next piece of a command; none when it has none ready. -/
def depositNext (s : State) (c : CopyCmd) : Option State :=
  if !c.started || c.stopped || waitsOnMove s c then none
  else match c.kind with
    | .copy => depositGran s c
    | .pull => depositGran s c
    | .pull2 _ _ _ _ => depositGran s c
    | .gather lane offs => depositLane s c lane offs.length
    | _ => none

def findCopy (s : State) (id : Nat) : Option CopyCmd := s.copies.find? (fun c => decide (c.id = id))

def execCopyDeposit (id : Nat) (s : State) : Out :=
  event (do
    let s ← get
    match (findCopy s id).bind (depositNext s) with
    | some s1 => set s1
    | none => noSubject) s

/-! ### Retiring (R123, R125, R127) -/

/-- The command has nothing left to do. -/
def finished (c : CopyCmd) : Bool :=
  c.started && (c.stopped || (match c.kind with
    | .copy => (nextCovered c c.done).isNone
    | .pull => (nextCovered c c.done).isNone
    | .pull2 _ _ _ _ => (nextCovered c c.done).isNone
    | .gather _ offs => decide (offs.length ≤ c.done)
    | .pref _ => c.parts.isEmpty && c.todo.isEmpty
    | _ => true))

/-- The task that pushed a command has not ended. -/
def taskAlive (s : State) (tid : Nat) : Bool :=
  (List.range 4).any (fun k => match slotAt s k with
    | .running t => decide (t.tid = tid)
    | .held t _ => decide (t.tid = tid)
    | _ => false) || s.cx.susp.any (fun p => decide (p.1.tid = tid))

/-- A prefetch that stopped or was cancelled (R120, R123). -/
def isPartial (c : CopyCmd) : Bool :=
  match c.kind with
  | .pref _ => c.stopped || c.got.any (fun d => d.fault.isSome)
  | _ => false

/-- Retires a command. -/
def retireCopy (s : State) (c : CopyCmd) : State :=
  let part := isPartial c
  let a : Arrival := { fault := c.fault, part := part, cause := c.cause, lanes := c.lanemask, addr := c.faultaddr }
  let m := match c.obj with
    | some o => arriveAt s.cx.sram o.toNat a
    | none => s.cx.sram
  let r : Completion :=
    { tid := c.tid, slot := c.slot, obj := c.obj, fault := c.fault, part := part, pairs := c.pairs }
  { s with
    cx := { s.cx with sram := m, results := if taskAlive s c.tid then s.cx.results ++ [r] else s.cx.results }
    copies := s.copies.filter (fun x => decide (x.id ≠ c.id))
    pending := dropReads (fun p => decide (p.purpose = .copy c.id) || decide (p.purpose = .pref c.id)) s.pending
    regs := { s.regs with cpretired := s.regs.cpretired + 1, cpfault := s.regs.cpfault || c.fault || part } }

def execCopyRetire (id : Nat) (s : State) : Out :=
  event (do
    let s ← get
    match findCopy s id with
    | some c => if finished c then set (retireCopy s c) else noSubject
    | none => noSubject) s

end Sys2Proof.Machine
end

