-- ==== Sys2Proof/Machine/Reads.lean ====
section
/-! DEFINITION. Answers that reach the core, what the slices and the read-only port serve, and the wakes of page faults
(R65 to R68, R78, R83, R87, R119, R412). -/
namespace Sys2Proof.Machine

/-! ### Permits (R67) -/

/-- Permits that a core keeps. -/
def permitDepth : Nat := 32

/-- Adds a permit; the oldest goes when all are taken (log entry 167, DESIGN CHOICE: R67 names none). -/
def addPermit (s : State) (p : Permit) : State :=
  let rest := s.permits.filter (fun x => !(decide (x.ctx = p.ctx) && decide (x.page = p.page)))
  { s with permits := (if rest.length < permitDepth then rest else rest.drop 1) ++ [p] }

/-- What a slice answers to a permit request: a permit, a fault, or the end of the context (without an Active key slot, or
at an entry that is lost). -/
inductive PermitAnswer where
  | granted (p : Permit)
  | refused (c : Cause) (detail : Nat)
  | fatal (key : Bool)
  deriving DecidableEq, Repr

/-- The slice's answer to a permit request for a page that an owner would store to. -/
def permitAnswer (s : State) (ctx : BitVec 12) (va : Word) : PermitAnswer :=
  if (activeKey s ctx).isNone then .fatal true
  else match walk s ctx (decide (vaSpace va = 3)) true (vaOff va) with
  | .notPresent => .refused .pageNotPresent 0
  | .refused => .refused .pagePerm 0
  | .broken => .fatal false
  | .ok _ l => if l.w then .granted { ctx := ctx, page := pageOf va, tol := l.tol } else .refused .pagePerm dtlReadOnly

/-- PERMIT_REPLY: to the store of the access stream in a slot. A page of a host window is the host agent's to translate:
`present` is what it finds (R375). -/
def execPermitReply (reply : PermitReply) (s : State) : Out :=
  event (do
    let slot := reply.slot
    let s ← get
    match taskIn s slot.toNat with
    | none => noSubject
    | some t =>
      match t.sa.wait with
      | .permit va =>
        let s1 := putTask s slot.toNat (setWait t .A .ready)
        if vaSpace va = 2 then
          if reply.present then set (putTask s slot.toNat (setWait t .A (.hostOk va)))
          else set (takeOwnTrap s1 slot.toNat .A { cause := .pageNotPresent, detail := 0, addr := va } t.sa.pc)
        else if moveHolds s t.ctx va then holdOther
        else
          match permitAnswer s t.ctx va with
          | .granted p => set (addPermit s1 p)
          | .fatal key => set (endContext s1 t.ctx key)
          | .refused c d =>
            set (takeOwnTrap s1 slot.toNat .A { cause := c, detail := BitVec.ofNat 32 d, addr := va } t.sa.pc)
      | _ => noSubject) s

/-! ### Answers to reads (R78, R83, R87) -/

/-- Four tags as a line keeps them. -/
def tagBits (ts : List Bool) : BitVec 4 :=
  BitVec.ofNat 4 ((ts.getD 0 false).toNat + (ts.getD 1 false).toNat * 2 + (ts.getD 2 false).toNat * 4 +
    (ts.getD 3 false).toNat * 8)

/-- The whole lines that an answer from an aligned base holds. -/
def linesOf (ctx : BitVec 12) (o : Owner) (base : Word) (bs : List Byte) (ts : List Bool) (stamp : BitVec 48) :
    List CacheLine :=
  (List.range (bs.length / 64)).map (fun i =>
    { ctx := ctx, owner := o, line := lineOf (base + BitVec.ofNat 64 (64 * i)),
      data := BitVec.ofNat 512 (leAt bs (64 * i) 64), tags := tagBits (ts.drop (4 * i)), stamp := stamp, set := 0, way := 0,
      victim := false })

/-- Ways of a set (R102); the primary ones are all of them, or those below the victim ways of an active pool (R105). -/
def cacheWays : Nat := 16
def primaryWays (s : State) : Nat := if poolActive s then cacheWays - field (s.cx.vgroup.setWidth 64) 3 4 else cacheWays

/-- The first way of a range that no line of the set stands in. -/
def freeWay (ls : List CacheLine) (set lo hi : Nat) : Option Nat :=
  (rangeFrom lo (hi - lo)).find? (fun w => !(ls.any (fun l => decide (l.set = set ∧ l.way = w))))

/-- Puts a line into a way in [lo, hi) of its set, in place of one where none is free, which is then given back. -/
def placeLine (s : State) (l : CacheLine) (lo hi : Nat) : State × Option CacheLine :=
  let n := Config.cacheSet s.fresh l.line (s.cx.split.toNat * 256) % (s.cx.split.toNat * 256)
  match freeWay s.lines n lo hi with
  | some w => ({ s with lines := s.lines ++ [{ l with set := n, way := w }], fresh := s.fresh + 1 }, none)
  | none =>
    let w := lo + Config.evictWay s.fresh (hi - lo) % (hi - lo)
    let goes := fun (x : CacheLine) => decide (x.set = n ∧ x.way = w)
    ({ s with lines := s.lines.filter (fun x => !goes x) ++ [{ l with set := n, way := w }], fresh := s.fresh + 1 },
      s.lines.find? goes)

/-- A line goes into the victim ways of this core, when the pool is active and has any. -/
def placeVictim (s : State) (l : CacheLine) : State :=
  if !poolActive s || decide (primaryWays s = cacheWays) then s
  else (placeLine s { l with victim := true } (primaryWays s) cacheWays).1

/-- A line evicted from the primary ways goes to the victim ways of the member of the pool that the hash of its address
selects (R106). -/
def poolLine (s : State) (l : CacheLine) : State :=
  if !poolActive s || decide (primaryWays s = cacheWays) then s
  else if poolMember s l.line = s.core then placeVictim s l
  else emit s (.poolDeposit (poolMember s l.line) l)

/-- Keeps a line in the primary ways of the cache portion, in place of an older copy (R102). -/
def keepCached (s : State) (l : CacheLine) : State :=
  let s1 := { s with lines := s.lines.filter (fun x => !(decide (x.ctx = l.ctx) && decide (x.line = l.line))) }
  match placeLine s1 l 0 (primaryWays s1) with
  | (s2, some old) => poolLine s2 old
  | (s2, none) => s2

/-- Keeps lines of the resident context in the cache portion (R104); none with SPLIT.cache = 0 (R103). -/
def keepLines (s : State) (ls : List CacheLine) : State :=
  if s.cx.split = 0 then s else (ls.filter (fun l => decide (l.ctx = s.cx.num))).foldl keepCached s

/-- The owner of what an answer brings: of a host window of another package the writer core, where the host agent there
names one (R375). -/
def answerOwner (s : State) (p : Pending) (r : ReadReply) : Owner :=
  match (if vaSpace p.va = 2 ∧ vaPkg p.va ≠ s.pkg then r.writer else none) with
  | some c => { pkg := vaPkg p.va, core := c, host := false }
  | none => p.owner

/-- The lines that an answer to a cached read leaves in the primary ways; one that a member of the pool gave stays there
(R106). -/
def keepAnswer (s : State) (p : Pending) (r : ReadReply) : State :=
  if r.pooled then s else keepLines s (linesOf p.ctx (answerOwner s p r) p.va r.data r.tags r.pub)

/-- The stream of a task that waits for a read. -/
def waitsRead (t : Task) (id : Nat) : Option Stream :=
  if t.sa.wait = .read id none then some .A else if t.se.wait = .read id none then some .E else none

/-- The answer reaches the task that waits for it: the data for its instruction, and the observation (R87). -/
def answerTask (s : State) (p : Pending) (r : ReadReply) (t : Task) : Task :=
  match (if t.tid = p.tid then waitsRead t p.id else none) with
  | none => t
  | some st =>
    let t1 := setWait t st (.read p.id (some r))
    if r.fault.isNone then observe s t1 (answerOwner s p r) r.pub else t1

/-- A cached read must not return what is older than the horizon that its task has raised meanwhile (R81). -/
def staleAnswer (s : State) (p : Pending) (r : ReadReply) : Bool :=
  p.cached && r.fault.isNone &&
    (allTasks s).any (fun t => decide (t.tid = p.tid) && pubOlder r.pub (horizonOf s t (answerOwner s p r)))

/-- A read in flight is asked for anew under a new name; its old answer finds no one. -/
def reask (s : State) (p : Pending) : State :=
  let q := { p with id := s.nextId, fate := .live }
  let s1 := answerWait { s with pending := s.pending.filter (fun x => decide (x.id ≠ p.id)) ++ [q], nextId := s.nextId + 1 }
    (.read p.id none) (.read q.id none)
  let rename := fun (x : CopyPart) => if x.read = p.id then { x with read := q.id } else x
  sendRead { s1 with copies := s1.copies.map (fun c => { c with parts := c.parts.map rename }) } q

/-- A load's answer, for its task wherever that is, and the lines of a cached read (R78). -/
def answerLoad (s : State) (p : Pending) (r : ReadReply) : State :=
  let s1 := mapTasks (answerTask s p r) s
  if p.cached && r.fault.isNone then keepAnswer s1 p r else s1

/-- A fetch's answer: the line, or the trap of the fetch (R205). -/
def answerFetch (s : State) (p : Pending) (r : ReadReply) : State :=
  match taskIn s p.slot.toNat with
  | none => s
  | some t =>
    match (if t.tid = p.tid then waitsRead t p.id else none) with
    | none => s
    | some st =>
      let s1 := putTask s p.slot.toNat (setWait t st .ready)
      match r.fault with
      | some (c, d) =>
        takeOwnTrap s1 p.slot.toNat st { cause := causeOf c.toNat, detail := d, addr := curPc t st } (curPc t st)
      | none =>
        let l : FetchLine := { ctx := p.ctx, line := lineOf p.va, data := BitVec.ofNat 512 (leAt r.data 0 64) }
        { s1 with fetchLines := s1.fetchLines ++ [l] }

/-- What an answer brings to a command's part. -/
def partData (q : CopyPart) (r : ReadReply) : CopyData :=
  { part := q, bytes := (match r.fault with | none => takePad q.len r.data | some _ => r.data.take q.len),
    tags := r.tags, fault := r.fault.map (·.1) }

/-- A command's answer (R119); bytes that it brings, up to a failing one too, are an observation of their owner (R95,
R120). -/
def answerCopy (s : State) (p : Pending) (id : Nat) (r : ReadReply) : State :=
  match findCopy s id with
  | none => s
  | some c =>
    match c.parts.find? (fun q => decide (q.read = p.id)) with
    | none => s
    | some q =>
      putCopy s { c with
        parts := c.parts.filter (fun x => decide (x.read ≠ p.id))
        got := c.got ++ [partData q r]
        pairs := if (r.fault.isNone || !r.data.isEmpty) && !isPref c.kind then raisePair c.pairs (answerOwner s p r) r.pub
          else c.pairs }

/-- A prefetch's answer: tier 1 keeps the lines, with no observation (R121). -/
def answerPref (s : State) (p : Pending) (id : Nat) (r : ReadReply) : State :=
  match findCopy s id with
  | none => s
  | some c =>
    let s1 := answerCopy s p id r
    match c.kind with
    | .pref true => keepAnswer s1 p r
    | _ => s1

/-- An answer reaches who asked; that to a read which has been given up, no one. -/
def takeAnswer (s : State) (p : Pending) (reply : ReadReply) : State :=
  let s1 := { s with pending := s.pending.filter (fun x => decide (x.id ≠ p.id)) }
  if p.fate = .dead then s1
  else match p.purpose with
  | .load => answerLoad s1 p reply
  | .fetch => answerFetch s1 p reply
  | .copy id => answerCopy s1 p id reply
  | .pref id => answerPref s1 p id reply

/-- The tweak of a line (R68). -/
def lineTweak (ctx : BitVec 12) (va : Word) : BitVec 128 :=
  BitVec.ofNat 128 ((lineOf va).toNat + ctx.toNat * 2 ^ 58)

/-- Bytes of sealed lines from `lo` on, opened under a key (R68). -/
def openLines (k : KeySlot) (ctx : BitVec 12) (lo : Word) (bs : List Byte) : List Byte :=
  (List.range (bs.length / 64)).flatMap (fun i =>
    let va := lo + BitVec.ofNat 64 (64 * i)
    leBytes 64 (xtsOpen (k.material.extractLsb' 0 512) (lineTweak ctx va) (BitVec.ofNat 512 (leAt bs (64 * i) 64))).toNat)

/-- The lines of another core's space 0 or 3 come sealed (R68). -/
def isSealed (va : Word) : Bool := decide (vaSpace va = 0) || decide (vaSpace va = 3)

/-- The Retiring key slot of a context (R384). -/
def retiringKey (s : State) (ctx : BitVec 12) : Option KeySlot :=
  (s.pk.keys.find? (fun p => decide (p.2.state = .retiring) && decide (p.2.ctx = ctx))).map (·.2)

/-- An answer as the network interface gives it to who asked: sealed lines are opened, and cut to what was asked for; none
when the context has no key slot for them. -/
def openAnswer (s : State) (p : Pending) (r : ReadReply) : Option ReadReply :=
  if isSealed p.va && !r.pooled then
    match (if r.retiring then retiringKey s p.ctx else activeKey s p.ctx) with
    | none => none
    | some k =>
      let lo := (p.va >>> 6) <<< 6
      some { r with data := ((openLines k p.ctx lo r.data).drop (p.va.toNat % 64)).take p.len,
                    tags := r.tags.drop (p.va.toNat % 64 / 16) }
  else some r

/-- A packet of a member of the victim pool (R84, R105, R106). Ways that become victim ways are emptied. -/
def takePool (s : State) : PoolPacket → State
  | .peers met =>
    if met then
      let s1 := { s with poolPeers := true }
      { s1 with lines := s1.lines.filter (fun l => decide (l.way < primaryWays s1)) }
    else leavePool s
  | .deposit ctx owner line data tags stamp =>
    if ctx = s.cx.num then
      placeVictim s { ctx := ctx, owner := owner, line := line, data := data, tags := tags, stamp := stamp, set := 0,
                      way := 0, victim := true }
    else s
  | .clean core owner older scope =>
    { s with lines := s.lines.filter (fun l => !(l.victim && (match owner with
        | some o => decide (l.owner = o) && pubOlder l.stamp older
        | none => inScope { s with core := core } scope l.owner))) }
  | .inval ctx va n =>
    { s with lines := s.lines.filter (fun l =>
        !(l.victim && decide (l.ctx = ctx) && overlaps (l.line.toNat * 64) 64 va.toNat n)) }
  | .probe id core ctx line =>
    emit s (.poolAnswer core id
      (s.lines.find? (fun l => l.victim && decide (l.ctx = ctx) && decide (l.line = line))))
  | .miss id =>
    match s.pending.find? (fun p => decide (p.id = id)) with
    | some p => emit s (.read p p.cap)
    | none => s

/-- READ_RESPONSE; an answer to a read that was given up is discarded. -/
def execReadResponse (reply : ReadReply) (s : State) : Out :=
  event (do
    let s ← get
    match reply.pool, s.pending.find? (fun p => decide (p.id = reply.id)) with
    | some q, _ => set (takePool s q)
    | none, none => if reply.id < s.nextId then pure () else noSubject
    | none, some p =>
      if p.fate = .dead then set (takeAnswer s p reply)
      else if p.fate = .again || staleAnswer s p reply then set (reask s p)
      else match openAnswer s p reply with
        | none => set (endContext { s with pending := s.pending.filter (fun x => decide (x.id ≠ p.id)) } p.ctx true)
        | some r => set (takeAnswer s p r)) s

/-- LINE_AGE_DISCARD: a line of the context held for 2^30 cycles goes (R83). -/
def execLineAgeDiscard (ctx : BitVec 12) (va : Word) (s : State) : Out :=
  event (do
    let s ← get
    if (findLine s ctx va).isSome then
      set { s with lines := s.lines.filter (fun l => !(decide (l.ctx = ctx) && decide (l.line = lineOf va))) }
    else noSubject) s

/-! ### The read-only port (R45, R119, R412) -/

/-- The port's repeat of the checks of R45. A load fetches whole lines (R108): the capability covers the bytes that it
asked for, and meets the range. -/
def portRefusal (q : PortReq) : Option (BitVec 8) :=
  if q.kind = .host then none
  else if !q.cap.tag then some 0x04
  else if capSealed q.cap then some 0x05
  else if !hasPerm q.cap (if q.kind = .load then permLD else permPULL) then some 0x06
  else if (if q.kind = .load then !overlaps q.va.toNat q.len (capBase q.cap) (capTop q.cap - capBase q.cap)
      else !inBounds q.cap q.va.toNat q.len) then some 0x07
  else none

/-- The context that a read names, for its tables: one that holds nothing here has its directory entry still. -/
def portCtx (s : State) (n : BitVec 12) : CtxState := (findCtx s n).getD (CtxState.fresh n)

/-- The lines that a request covers: first byte and bytes, for a space whose lines travel whole (R68). -/
def wholeLines (q : PortReq) : Word × Nat :=
  if isSealed q.va then
    let lo := q.va.toNat / 64 * 64
    (BitVec.ofNat 64 lo, (q.va.toNat + q.len + 63) / 64 * 64 - lo)
  else (q.va, q.len)

/-- What the port or the slices read: bytes, tags and cause with its detail, by the residency of the reader's context
(R412). A line of space 0 or 3 is read whole or not at all. -/
def portData (s : State) (q : PortReq) : List Byte × List Bool × Option (BitVec 8 × Nat) :=
  match (if fencedOff s q.owner.pkg then some (0x0B, dtlNoPackage) else (portRefusal q).map (fun c => (c, 0))) with
  | some e => ([], [], some e)
  | none =>
    if vaSpace q.va = 1 then
      match findCtx s q.ctx with
      | none => ([], [], some (0x0B, dtlNoPackage))
      | some cx =>
        if scratchEnd cx < vaOff q.va + q.len then ([], [], some (0x0B, dtlCachePortion))
        else if cx.residency = .absent then ([], [], some (0x0A, 0))
        else
          let r := readRun s cx false (q.len / 32 + 2) q.va q.len
          (r.1, r.2.1, r.2.2.map (fun c => (c, 0)))
    else
      let w := wholeLines q
      let r := readRun s (portCtx s q.ctx) false (w.2 / 32 + 2) w.1 w.2
      let n := r.1.length / 64
      (r.1.take (64 * n), r.2.1.take (4 * n), r.2.2.map (fun c => (c, 0)))

/-- A line sealed under a key. -/
def sealLine (k : KeySlot) (ctx : BitVec 12) (va : Word) (d : BitVec 512) : BitVec 512 :=
  xtsSeal (k.material.extractLsb' 0 512) (lineTweak ctx va) d

/-- Bytes of whole lines from `lo` on as they travel. -/
def sealLines (k : KeySlot) (ctx : BitVec 12) (lo : Word) (bs : List Byte) : List Byte :=
  (List.range (bs.length / 64)).flatMap (fun i =>
    leBytes 64 (sealLine k ctx (lo + BitVec.ofNat 64 (64 * i)) (BitVec.ofNat 512 (leAt bs (64 * i) 64))).toNat)

/-- PUB of a context on this core (R82). -/
def pubOf (s : State) (ctx : BitVec 12) : BitVec 48 :=
  match findCtx s ctx with
  | some cx => cx.pub
  | none => 0

/-- The bytes of an answer as they leave: sealed lines for a core; none when no key slot of the context is Active. -/
def portBytes (s : State) (q : PortReq) (bs : List Byte) : Option (List Byte) :=
  if isSealed q.va && decide (q.kind ≠ .host) then
    (activeKey s q.ctx).map (fun k => sealLines k q.ctx (wholeLines q).1 bs)
  else some (if isSealed q.va then (bs.drop (q.va.toNat % 64)).take q.len else bs)

/-! ### What a slice keeps (R65, R66) -/

/-- Enters a requester in the list of its slice, when there is room (R66). -/
def enterWait (s : State) (ctx : BitVec 12) (va : Word) (owner : Owner) (slot : BitVec 2) (id : Nat) : State :=
  (enterWaitList s va { ctx := ctx, page := va >>> 16, owner := owner, slot := slot, tid := id }).1

/-- Leaf translations that a slice holds (R65). -/
def sliceLeaves : Nat := 4096

/-- Keeps a leaf's translation; the oldest goes when the slice holds as many as it can. -/
def keepLeaf (s : State) (ctx : BitVec 12) (va : Word) : State :=
  let n := sliceNo ctx va
  let z := sliceAt s n
  let k := (ctx, decide (vaSpace va = 3), pageOf va)
  let rest := z.leaves.filter (fun x => decide (x ≠ k))
  putSlice s n { z with leaves := (if rest.length < sliceLeaves then rest else rest.drop 1) ++ [k] }

/-- What a read that the slices serve leaves there (R65 Table 3): the lines and the leaf translations of the `n` bytes from
`lo` that it was given, and a load that waits for a page in the list (R66). -/
def keepServed (s : State) (q : PortReq) (lo : Word) (n : Nat) (cause : Option (BitVec 8 × Nat)) : State :=
  let s1 := (linesIn lo n).foldl (fun s l =>
    let s1 := keepLeaf s q.ctx (lineVa l)
    if (heldLine s1 q.ctx l).isSome then s1 else keepLine s1 (SliceLine.filled s1 q.ctx l)) s
  if q.kind = .load ∧ cause = some (0x0A, 0) then enterWait s1 q.ctx (lo + BitVec.ofNat 64 n) q.owner 0 q.id else s1

/-- The answer of the port, or of the slices for a space that they serve: a refusal, or the data, with the errors that the
read meets; an access that finds no Active key slot or context state that is lost ends the context. -/
def portServe (s : State) (q : PortReq) : State :=
  let r := portData s q
  let w := wholeLines q
  let served := (portRefusal q).isNone && !fencedOff s q.owner.pkg
  match (if served then fatalRange s q.ctx w.1 w.2 else none), portBytes s q r.1 with
  | some key, _ => endContext s q.ctx key
  | none, bs =>
    let a : ReadReply :=
      { id := q.id, data := bs.getD [], tags := r.2.1, fault := r.2.2.map (fun c => (c.1, BitVec.ofNat 32 c.2)),
        pub := pubOf s q.ctx }
    let s1 := if served && decide (r.2.2 = none ∨ r.2.2 = some (0x1C, 0)) then
        noteErrors s (portCtx s q.ctx) false w.1 w.2 else s
    emit (if isSealed q.va then keepServed s1 q w.1 r.1.length r.2.2 else s1) (.readAnswer a q.owner)

/-- PORT_REQUEST; it waits for a page that is being moved (R73) and for a fill of its lines (R65). -/
def execPortRequest (req : PortReq) (s : State) : Out :=
  event (do
    let s ← get
    if !isOwn s req.va then noSubject
    else if moveHolds s req.ctx req.va || filling s req.ctx req.va req.len then holdOther
    else set (portServe s req)) s

/-! ### The slices (R65, R66, R68) -/

/-- A sealed line with its tags in clear; on a tolerant page its words are rounded and it has no tags (R30, R31). -/
def sealedLine (s : State) (k : KeySlot) (ctx : BitVec 12) (va : Word) (b : Nat) (tol : Bool) : BitVec 512 × BitVec 4 :=
  let a := b / 64 * 64
  (sealLine k ctx va (BitVec.ofNat 512 (leNat (pageBytes s.home.mem tol a 64))), tagBits (pageTags s.home.mem tol a 64))

/-- Requests for an absent line are merged into one fill (R65). -/
def mergeFill (s : State) (q : SliceReq) : State :=
  let n := sliceNo q.ctx q.va
  let z := sliceAt s n
  let same := fun (f : SliceReq × List SliceReq) => decide (f.1.ctx = q.ctx) && decide (lineOf f.1.va = lineOf q.va)
  let fills := if z.fills.any same then z.fills.map (fun f => if same f then (f.1, f.2 ++ [q]) else f)
    else z.fills ++ [(q, [q])]
  putSlice s n { z with fills := fills }

/-- A slice's answer. -/
def answerSlice (s : State) (q : SliceReq) (cause : BitVec 8) (d : Option (BitVec 512 × BitVec 4)) : State :=
  emit s (.sliceAnswer q.id q.va cause (d.map (·.1)) ((d.map (·.2)).getD 0))

/-- What translation gives a request at its slice (R64, R65): the byte and the leaf; else the answer is given, or the
context ends. -/
def sliceWalk (s : State) (q : SliceReq) : State ⊕ (Nat × Leaf) :=
  match walk s q.ctx (decide (vaSpace q.va = 3)) (decide (q.owner = ownId s)) (vaOff q.va) with
  | .notPresent => .inl (answerSlice (enterWait s q.ctx q.va q.owner q.slot q.id) q 0x0A none)
  | .refused => .inl (answerSlice s q 0x0B none)
  | .broken => .inl (endContext s q.ctx false)
  | .ok b l => if q.kind = .fetch ∧ l.x = false then .inl (answerSlice s q 0x0C none) else .inr (b, l)

/-- One request at its slice (R65 Table 3); while a fill of its line is under way a read joins it, in the order of
arrival. -/
def sliceServe (s : State) (k : KeySlot) (q : SliceReq) : State :=
  match sliceWalk s q with
  | .inl s1 => s1
  | .inr (b, l) =>
    let s1 := keepLeaf (noteWalk s q.ctx (decide (vaSpace q.va = 3)) (vaOff q.va)) q.ctx q.va
    match q.kind with
    | .permit => answerSlice s1 q (if l.w then 0 else 0x0B) none
    | .storeData => answerSlice (markLines s1 q.ctx q.va 1) q 0 none
    | _ =>
      match (if filling s1 q.ctx q.va 1 then none else heldLine s1 q.ctx (lineOf q.va)) with
      | some x => if x.bad then answerSlice (countUncorr s1) q 0x1C none
                  else answerSlice s1 q 0 (some (sealedLine s1 k q.ctx q.va b l.tol))
      | none => mergeFill s1 q

/-- SLICE_REQUEST: for a page of this core; without an Active key slot the context ends (R359). -/
def execSliceRequest (req : SliceReq) (s : State) : Out :=
  event (do
    let s ← get
    if !isOwn s req.va || decide (vaSpace req.va = 1) then noSubject
    else if fencedOff s req.owner.pkg then set (answerSlice s req 0x0B none)
    else if moveHolds s req.ctx req.va || (decide (req.kind = .storeData) && filling s req.ctx req.va 1) then holdOther
    else match activeKey s req.ctx with
      | none => set (endContext s req.ctx true)
      | some k => set (sliceServe s k req)) s

/-- The slice that has a fill under way, by the request that began it. -/
def findFill (s : State) (id : Nat) : Option (Nat × SliceReq × List SliceReq) :=
  s.home.slices.findSome? (fun p => (p.2.fills.find? (fun f => decide (f.1.id = id))).map (fun f => (p.1, f.1, f.2)))

/-- The line has been read: each request of the fill is answered under the tables as they now are (R65, R74). -/
def serveFill (s : State) (k : KeySlot) (q : SliceReq) : State :=
  match sliceWalk s q with
  | .inl s1 => s1
  | .inr (b, l) =>
    if badRead s q.ctx ((q.va >>> 6) <<< 6) (b / 64 * 64) 64 then answerSlice (countUncorr s) q 0x1C none
    else
      let s1 := correctSectors s (b / 64 * 64) 64
      let s2 := if (heldLine s1 q.ctx (lineOf q.va)).isSome then s1
        else keepLine s1 (SliceLine.filled s1 q.ctx (lineOf q.va))
      answerSlice s2 q 0 (some (sealedLine s2 k q.ctx q.va b l.tol))

/-- SLICE_FILL_DONE: the fill that request `id` started. -/
def execSliceFillDone (id : Nat) (s : State) : Out :=
  event (do
    let s ← get
    match findFill s id with
    | none => noSubject
    | some (n, q, qs) =>
      if moveHolds s q.ctx q.va then holdOther
      else
        let z := sliceAt s n
        let s1 := putSlice s n { z with fills := z.fills.filter (fun f => decide (f.1.id ≠ id)) }
        match activeKey s q.ctx with
        | none => set (endContext s1 q.ctx true)
        | some k => set (qs.foldl (fun s q => serveFill s k q) s1)) s

/-! ### Wakes (R66, R357, R358) -/

/-- A wake or a retry goes on with a task that is suspended on a page. -/
def execPageWake (ctx : BitVec 12) (tid : Nat) (s : State) : Out :=
  event (do
    let s ← get
    if s.cx.num = ctx then
      match findSuspended s tid with
      | some (_, .page _ _) => set (wakeTask s tid)
      | _ => pure ()
    else pure ()) s

/-- FAULT_RETRY_TIMER: for a fault with no entry in the own lists, or at another owner. -/
def execFaultRetryTimer (tid : Nat) (s : State) : Out :=
  event (do
    let s ← get
    match findSuspended s tid with
    | some (_, .page va listed) =>
      if listed && isOwn s va then noSubject else set (wakeTask s tid)
    | _ => noSubject) s

/-! ### Invalidations and moves (R71 to R74) -/

/-- Reads of the range that are in flight are made anew, under the new entry (R74): a fresh one once its answer has come, for
one fresh read of a line is in flight at a time (R363). -/
def reaskRange (s : State) (inv : Invalidation) : State :=
  let hit := fun (p : Pending) => decide (p.ctx = inv.ctx) && inRange inv p.va && decide (p.fate = .live) &&
    (decide (p.purpose ≠ .fetch) || inv.dropFetch)
  let s1 := { s with pending := s.pending.map (fun p => if hit p && isFreshRead p then { p with fate := .again } else p) }
  (s.pending.filter (fun p => hit p && !isFreshRead p)).foldl reask s1

/-- What this core discards for an invalidation (R71 step 2), with the answers on their way under the old entry. -/
def actOnInvalidation (s : State) (inv : Invalidation) : State :=
  let s1 := { s with permits := s.permits.filter (fun p =>
    !(decide (p.ctx = inv.ctx) && inRange inv (mkVa 0 s.pkg s.core (p.page.toNat * 65536)))) }
  let s2 := if inv.move then s1
    else reaskRange { s1 with lines := s1.lines.filter (fun l =>
      !(decide (l.ctx = inv.ctx) && inRange inv (lineVa l.line))) } inv
  if inv.dropFetch then
    { s2 with fetchLines := s2.fetchLines.filter (fun l =>
      !(decide (l.ctx = inv.ctx) && inRange inv (lineVa l.line))) }
  else s2

/-- The own operation whose invalidation this is. -/
def ownOp (s : State) (inv : Invalidation) : Option TableOp := s.tableOp.filter (fun op => decide (op.inv = inv))

/-- The own operation notes that this core has acted. -/
def noteAcked (s : State) (inv : Invalidation) : State :=
  match ownOp s inv with
  | some op => { s with tableOp := some { op with acked := true } }
  | none => s

/-- INVALIDATION: this core discards what the range covers; the owner then drains its store buffer, and the core
acknowledges (R71 step 2). -/
def execInvalidation (inv : Invalidation) (s : State) : Out :=
  event (do
    let s ← get
    match ownOp s inv with
    | none => set (emit (actOnInvalidation s inv) (.invAck inv))
    | some op =>
      if !op.acted then
        set (queueEvent { actOnInvalidation s inv with tableOp := some { op with acted := true } } (.invalidation inv))
      else do
        needDrained
        set (emit (noteAcked s inv) (.invAck inv))) s

/-- INVALIDATION_COMPLETE: every acknowledgement has come. -/
def execInvalidationComplete (s : State) : Out :=
  event (do
    let s ← get
    match s.tableOp with
    | some op =>
      if !op.copying && op.acked then set { setPtwStatus s 0 with tableOp := none } else noSubject
    | none => noSubject) s

/-- Copies a frame with its metadata (R73 step 3, R27). -/
def copyFrame (s : State) (src dst : Nat) : State :=
  let a := src * frameBytes
  let b := dst * frameBytes
  let inSrc := fun (x lo n : Nat) => decide (lo ≤ x ∧ x < lo + n)
  let m := clearRange s.home.mem b (b + frameBytes)
  let m1 := (s.home.mem.bytes.filter (fun p => inSrc p.1 a frameBytes)).foldl (fun m p => setByte m (p.1 - a + b) p.2) m
  let m2 := (s.home.mem.tags.filter (fun p => inSrc (p.1 * 16) a frameBytes)).foldl
    (fun m p => setTag m (p.1 * 16 - a + b) p.2) m1
  let h := (s.home.errors.filter (fun p => inSrc (p.1 * 32) a frameBytes)).foldl
    (fun h p => sparsePut 0 h (p.1 - a / 32 + b / 32) p.2)
    (s.home.errors.filter (fun p => !inSrc (p.1 * 32) b frameBytes))
  { s with home := { s.home with mem := m2, errors := h } }

/-- Copies the frames of two leaves, the old first. -/
def copyFrames (s : State) : List Nat → List Nat → State
  | a :: r, b :: q => copyFrames (copyFrame s a b) r q
  | _, _ => s

/-- Buffered stores to the old frames. -/
def storesIn (s : State) (fs : List Nat) : Bool :=
  s.sb.any (fun e => match e.loc with
    | some (.hbm b) => fs.contains (b / frameBytes)
    | _ => false)

/-- PAGE_MOVE_DONE: the copy, the entry and the invalidation (R73). -/
def execPageMoveDone (s : State) : Out :=
  event (do
    let s ← get
    match s.tableOp with
    | some op =>
      if !op.copying then noSubject
      else if storesIn s (leafFrames op.oldEntry) then holdOther
      else
        let s1 := copyFrames s (leafFrames op.oldEntry) (leafFrames op.newEntry)
        set (installNarrow { s1 with tableOp := none } op.place op.oldEntry op.newEntry op.inv)
    | none => noSubject) s

end Sys2Proof.Machine
end

