-- ==== Sys2Proof/Machine/Sweep.lean ====
section
/-! DEFINITION. Revocation: RVMARK and RVSWEEP, and the sweep epoch of this core (R54, R57 to R59, R326, R327). -/
namespace Sys2Proof.Machine

/-! ### RVMARK (R326) -/

/-- The granules of a range that share map byte number `i` of it, as a byte mask (R54). -/
def granuleMask (off n i : Nat) : Nat :=
  let lo := off / 64
  let hi := (off + n - 1) / 64
  let b := lo / 8 + i
  natSum ((List.range 8).map (fun j => if lo ≤ 8 * b + j ∧ 8 * b + j ≤ hi then 2 ^ j else 0))

/-- Map bytes that a range touches. -/
def markCount (off n : Nat) : Nat := if n = 0 then 0 else (off + n - 1) / 64 / 8 - off / 64 / 8 + 1

/-- The address of map byte number `i` of a range from `va`, in own space 0 (R54). -/
def mapVa (s : State) (va : Word) (i : Nat) : Word :=
  mkVa 0 s.pkg s.core (field s.regs.rvcfg 16 27 * 65536 + markByteOff va + i)

/-- One map byte is read and written back as an owner store. -/
def markByte (clr : Bool) (va : Word) (n i : Nat) : Eff Unit := do
  let s ← get
  let a := mapVa s va i
  let bs ← loadOwn a 1
  let old := leNat bs
  let k := granuleMask (vaOff va) n i
  let new := if clr then old &&& (255 - k) else old ||| k
  storeChecked a 1 (fun _ => .data (leBytes 1 new) false) true

/-- The checks, then one map byte; the wait counts those that have been entered. A space that has no map is not
marked. -/
def markRange (clr : Bool) (c b : BitVec 5) (m : BitVec 1) : Eff Unit := do
  let y ← peekSrc b (marked m 0)
  if clr then needSupervisor else pure ()
  operandLimit (decide (y.toNat ≤ maxExtent))
  if clr then needAdmin else pure ()
  let x ← readCap c
  let va := capAddr x
  checkAccess { cap := x, va := va, len := y.toNat, perms := [permST], align := 0, store := true }
  let w ← theWait
  let i := match w with | .marking k => k | _ => 0
  if i < markCount (vaOff va) y.toNat ∧ vaSpace va ≠ 2 then do
    markByte clr va y.toNat i
    setTheWait (.marking (i + 1))
  else do
    setTheWait .ready
    dropSrc b (marked m 0)
    advance

def execRvmark (c b : BitVec 5) (m : BitVec 1) (s : State) : Out := issue (markRange false c b m) s
def execRvmarkClr (c b : BitVec 5) (m : BitVec 1) (s : State) : Out := issue (markRange true c b m) s

/-! ### The epoch (R57, R327) -/

/-- The lowest-numbered package that holds cores of a context is this one (R327). -/
def leadsSweep (s : State) (cx : CtxState) : Bool := cx.cores.all (fun c => decide (s.pkg.toNat ≤ c.1.toNat))

/-- The context has no core but this one. -/
def aloneHere (s : State) (ctx : BitVec 12) : Bool :=
  match findCtx s ctx with
  | some c => c.cores.all (fun x => decide (x = (s.pkg, s.core)))
  | none => false

/-- The start request of RVSWEEP reaches the leading launch agent: this package's, or another's. Whether every other core of
the context is IDLE is open: Config.choice. -/
def askSweep (s : State) (ctx : BitVec 12) : State :=
  match findCtx s ctx with
  | some cx =>
    if leadsSweep s cx then
      queueEvent { s with fresh := s.fresh + 1 }
        (.sweepRequest ctx s.pkg s.core (aloneHere s ctx || Config.choice s.fresh))
    else emit s (.sweepStart ctx)
  | none => s

/-- RVSWEEP: the start request leaves for the leading launch agent. -/
def execRvsweep (c : BitVec 5) (s : State) : Out :=
  issueSeq (do
    needSupervisor
    let x ← readCap c
    if !x.tag then trapWith .capTag 0
    else if capSealed x then trapWith .capSealed 0
    else if !hasPerm x permADMIN then trapWith .capPerm 0
    else do
      let t ← theTask
      modify (fun s => askSweep s t.ctx)) s

/-- A message that no core generates, to a channel of a core of this package (R307). The agent is no core: on this core
the message is not one of a numbered pair. -/
def agentMessage (s : State) (ctx : BitVec 12) (core : BitVec 10) (chan : BitVec 6) (kind : Nat) (slots : Cap × Cap × Cap)
    (r : Option Record) : State :=
  let m : Message :=
    { hdr0 := mkHdr0 core s.pkg chan core s.pkg, hdr1 := mkHdr1 (agentCounter s ctx) 48 kind ctx false ctx,
      slot0 := slots.1, slot1 := slots.2.1, slot2 := slots.2.2, record := r }
  let s1 := bumpAgent s ctx
  if core = s.core then queueEvent s1 (.messageArrival m) else emit s1 (.agentMessage m)

/-- The supervisor channel of a context on a core of this package. -/
def supChanOf (s : State) (ctx : BitVec 12) (core : BitVec 10) : Option (BitVec 6) :=
  if core = s.core then ((findCtx s ctx).bind supChannel).map (fun n => BitVec.ofNat 6 n) else some (Config.otherSup core ctx)

/-- An agent's message to the supervisor channel of a core; with none it is discarded and counted, as a report is
(R331). -/
def agentToSup (s : State) (ctx : BitVec 12) (core : BitVec 10) (kind : Nat) (slots : Cap × Cap × Cap)
    (r : Option Record) : State :=
  match supChanOf s ctx core with
  | some n => agentMessage s ctx core n kind slots r
  | none => { s with regs := { s.regs with runqlost := BitVec.ofNat 16 (satAdd 0xFFFF s.regs.runqlost.toNat 1) } }

/-- The SWEEP message to the core that asked (R327 Table 6); the agent of another package forms it there (R307). -/
def sweepMessage (s : State) (ctx : BitVec 12) (dest : BitVec 9 × BitVec 10) (epoch : BitVec 32) (status : Nat) : State :=
  if dest.1 = s.pkg then
    agentToSup s ctx dest.2 kindSweep (slotsOf (takePad 48 (leBytes 4 epoch.toNat ++ leBytes 1 status))) none
  else emit s (.sweepTold ctx dest epoch status)

/-- An epoch starts on this core; the other cores of the context are told. -/
def startSweep (s : State) (ctx : BitVec 12) (by_ : Option (BitVec 9 × BitVec 10)) : State :=
  let s1 := { s with sweep := .draining, sweepBy := by_, sweepCtx := ctx }
  if aloneHere s ctx || by_.isNone then s1 else emit s1 (.sweepOpen ctx)

/-- SWEEP_REQUEST at the leading launch agent, which decides it: for a context that this core holds, resident or out, or one
of other cores of the package, whose epoch the agent keeps. Where another package leads, its agent has decided and starts
the epoch here. -/
def execSweepRequest (ctx : BitVec 12) (pkg : BitVec 9) (core : BitVec 10) (othersIdle : Bool) (s : State) : Out :=
  event (do
    let s ← get
    if ctx = 0 then noSubject
    else match findCtx s ctx with
      | some cx =>
        if !leadsSweep s cx then
          (if s.sweep = .idle && othersIdle then set (startSweep s ctx none) else noSubject)
        else if s.sweep = .idle && othersIdle then set (startSweep s ctx (some (pkg, core)))
        else set (sweepMessage s ctx (pkg, core) s.regs.rvepoch 1)
      | none =>
        if othersIdle && !(s.pk.sweeps.any (fun x => decide (x.1 = ctx))) then
          set (emit { s with pk := { s.pk with sweeps := s.pk.sweeps ++ [(ctx, (pkg, core))] } } (.sweepOpen ctx))
        else set (sweepMessage { s with fresh := s.fresh + 1 } ctx (pkg, core) (Config.otherEpoch s.fresh ctx) 1)) s

/-- Every task of the context on the core began before the epoch. -/
def markPreEpoch (s : State) : State :=
  mapTasks (fun t => if t.ctx = s.sweepCtx then { t with preEpoch := true } else t) s

/-- SWEEP_DRAIN_DONE: the store buffer has drained, as on every core (a context that is out has no store in it, R345);
the filter's cache goes. -/
def execSweepDrainDone (s : State) : Out :=
  event (do
    let s ← get
    if s.sweep ≠ .draining then noSubject
    else do
      needDrained
      set { markPreEpoch s with sweep := .scan, filter := [] }) s

/-- A granule of the areas of R57: the resident scratchpad, or a frame of a present space-0 page of the context, in which the
spill overflow area lies. -/
def inSweepAreas (s : State) (loc : Loc) : Bool :=
  match loc with
  | .sram a => decide (a < scratchEnd s.cx)
  | .hbm b => (presentFrames s s.sweepCtx).contains (b / frameBytes)

/-- SWEEPER_EXAMINE: one granule of the areas of R57 (R58). -/
def execSweeperExamine (loc : Loc) (s : State) : Out :=
  event (do
    let s ← get
    if s.sweep ≠ .scan || !inSweepAreas s loc then noSubject
    else if s.cx.num ≠ s.sweepCtx then holdOther
    else
      let r := examine s (locMem s loc) (locAddr loc / 16 * 16)
      set (addCleared (setLocMem s loc r.1) r.2)) s

/-- A slot of a parked message under the filter (R57). -/
def filterSlots (s : State) (m : Message) : Message :=
  { m with slot0 := filterCap s s.cx.num m.slot0, slot1 := filterCap s s.cx.num m.slot1,
           slot2 := filterCap s s.cx.num m.slot2 }

/-- Tags that filtering a message clears. -/
def slotsCleared (s : State) (m : Message) : Nat :=
  let f := filterSlots s m
  (m.slot0.tag && !f.slot0.tag).toNat + (m.slot1.tag && !f.slot1.tag).toNat + (m.slot2.tag && !f.slot2.tag).toNat

/-- The parked entries of the context. -/
def sweepParked (s : State) : State :=
  let n := natSum (s.ovf.map (fun e => match e.item with
    | .message m => if e.ctx = s.cx.num then slotsCleared s m else 0
    | _ => 0))
  let o := s.ovf.map (fun e => match e.item with
    | .message m => if e.ctx = s.cx.num then { e with item := .message (filterSlots s m) } else e
    | _ => e)
  addCleared { s with ovf := o } n

/-- Everything of R57 that the sweeper has not examined one by one. -/
def sweepRest (s : State) : State :=
  let a := examineRange s s.cx.sram 0 (scratchEnd s.cx)
  let s1 := addCleared { s with cx := { s.cx with sram := a.1 } } a.2
  sweepParked (scanFrames s1 (presentFrames s1 s1.cx.num))

/-- SWEEP_SCAN_DONE: to WAIT, or to REPORTED when no pre-epoch task remains. -/
def execSweepScanDone (s : State) : Out :=
  event (do
    let s ← get
    if s.sweep ≠ .scan then noSubject
    else if s.cx.num ≠ s.sweepCtx then holdOther
    else set (retireEpoch { sweepRest s with sweep := .wait })) s

/-- No task counts as pre-epoch any more. -/
def clearPreEpoch (s : State) : State := mapTasks (fun t => { t with preEpoch := false }) s

/-- The epoch of a context that this core does not hold has ended. -/
def endOtherSweep (s : State) (ctx : BitVec 12) : Eff Unit :=
  match s.pk.sweeps.find? (fun x => decide (x.1 = ctx)) with
  | none => noSubject
  | some x =>
    set (sweepMessage { s with fresh := s.fresh + 1, pk := { s.pk with sweeps := s.pk.sweeps.filter (fun y => decide (y.1 ≠ ctx)) } }
      ctx x.2 (Config.otherEpoch s.fresh ctx) 0)

/-- SWEEP_EPOCH_END: every core has reported. -/
def execSweepEpochEnd (s : State) : Out :=
  event (do
    let s ← get
    match s.access.request with
    | .sweep ctx => endOtherSweep s ctx
    | _ =>
    if s.sweep ≠ .reported then noSubject
    else
      let e := s.regs.rvepoch + 1
      let s1 := { clearPreEpoch s with sweep := .idle, lines := [], sweepBy := none, sweepCtx := 0,
                                        regs := { s.regs with rvepoch := e } }
      match s.sweepBy with
      | some c => set (sweepMessage s1 s.sweepCtx c e 0)
      | none => set s1) s

end Sys2Proof.Machine
end

