-- ==== Sys2Proof/Machine/Fence.lean ====
section
/-! DEFINITION. Fences, sequence words, watches and the system instructions (R88 to R94, R319 to R325). -/
namespace Sys2Proof.Machine

/-! ### FENCE, FENCEL, FENCEH (R92, R94, R322) -/

/-- ACQ within a scope (R92 Table 8): each pair cleans and raises; an overflowed table cleans all of the scope. -/
def fenceAcquire (scope : Nat) : Eff Unit := do
  let s ← get
  let t ← theTask
  let ps := t.obs.filter (fun p => inScope s scope p.1)
  let s1 := ps.foldl (fun s p => cleanPair s p.1 p.2) s
  let t1 := { t with horizons := ps.foldl (fun h p => raisePair h p.1 p.2) t.horizons }
  if t.obsOver then do
    set { globalClean s1 scope with fresh := s.fresh + 1 }
    setTheTask (raiseAll s scope t1)
  else do
    set s1
    setTheTask t1

/-- SC within a scope: a release, the store buffer empty, a global clean, horizons current. -/
def fenceSc (scope : Nat) : Eff Unit := do
  let _ ← releaseTask
  let s ← get
  let t ← theTask
  set { globalClean s scope with fresh := s.fresh + 1 }
  setTheTask (raiseAll s scope t)

/-- REL: at CORE it orders stores before pushes, which every push does; wider it is a release. -/
def fenceRelease (scope : Nat) : Eff Unit := do
  if scope = 0 then pure ()
  else do
    let _ ← releaseTask
    pure ()

def execFence (sz : BitVec 3) (o : BitVec 2) (s : State) : Out :=
  issueSeq (do
    match o.toNat with
    | 0 => fenceAcquire sz.toNat
    | 1 => fenceRelease sz.toNat
    | 2 => do
      fenceRelease sz.toNat
      fenceAcquire sz.toNat
    | _ => fenceSc sz.toNat) s

/-- FENCEL: stores have entered the buffer before later loads issue, which order of issue gives (R94). -/
def execFencel (s : State) : Out := issueSeq (pure ()) s

/-- A record reaches the executing task (R86). -/
def acquireNow (r : Record) : Eff Unit := do
  let s ← get
  let t ← theTask
  let p := acquire s t r
  set p.1
  setTheTask p.2

/-- FENCEH: SC at POD, the request to the named core, and the acquire of its record. -/
def execFenceh (a : BitVec 5) (s : State) : Out :=
  issueSeq (do
    let w ← theWait
    match w with
    | .fenceh _ _ (some r) => do
      setTheWait .ready
      acquireNow r
    | _ => do
      needSupervisor
      let x ← readReg a
      operandLimit (decide (x.toNat < 2 ^ 19))
      let core : BitVec 10 := x.extractLsb' 0 10
      let pkg : BitVec 9 := x.extractLsb' 10 9
      let s ← get
      let t ← theTask
      if !(s.cx.cores.contains (pkg, core)) then trapWith .endpoint 0
      else do
        fenceSc 7
        let q : FencehReq := { id := s.nextId, spkg := s.pkg, score := s.core, ctx := t.ctx }
        askAndWait (fun s =>
          let s1 := { s with nextId := s.nextId + 1 }
          if pkg = s.pkg ∧ core = s.core then queueEvent s1 (.fencehRequest q) else emit s1 (.fenceh q pkg core))
          (.fenceh s.nextId pkg none)) s

/-- The answer to FENCEH leaves for the core that asked. -/
def answerFenceh (s : State) (q : FencehReq) (r : Record) : State :=
  if q.spkg = s.pkg ∧ q.score = s.core then queueEvent s (.fencehResponse q.id r)
  else emit s (.fencehAnswer q.id r q.spkg q.score)

/-- FENCEH_REQUEST: the named core drains and releases; for a context that is out or absent the saved PUB comes at once
(R322). No task makes the release: X is a free choice. -/
def execFencehRequest (req : FencehReq) (s : State) : Out :=
  event (do
    let s ← get
    if fencedOff s req.spkg then pure ()
    else if s.cx.num = req.ctx then do
      needDrained
      let p := publish { s with fresh := s.fresh + 1 } (Config.choice s.fresh)
      set (answerFenceh p.1 req p.2)
    else match findCtx s req.ctx with
      | some cx => set (answerFenceh s req { owner := ownId s, pub := cx.pub, x := true })
      | none => noSubject) s

/-- FENCEH_RESPONSE reaches the stream that waits; for a task that has gone it is discarded. -/
def execFencehResponse (id : Nat) (record : Record) (s : State) : Out :=
  event (do
    let s ← get
    if s.nextId ≤ id then noSubject
    else
      let f := fun (z : StreamSt) => match z.wait with
        | .fenceh i p none => if i = id then { z with wait := .fenceh i p (some record) } else z
        | _ => z
      set (mapTasks (fun t => { t with sa := f t.sa, se := f t.se }) s)) s

/-! ### Sequence words and watches (R88 to R91, R319 to R321) -/

/-- SEQADV: the checks of R319, then the word enters the store buffer. -/
def execSeqadv (c b : BitVec 5) (m : BitVec 1) (s : State) : Out :=
  issueSeq (do
    let y ← peekSrc b (marked m 0)
    let x ← readCap c
    let va := capAddr x
    checkAccess { cap := x, va := va, len := 8, perms := [permST, permSEQ], align := 8, store := true }
      (if vaSpace va = 2 then some dtlSeqSpace else none)
    let p ← resolveStore va
    if p.2 then trapWith .pagePerm dtlTolerant va else pure ()
    chainCheck va 8
    stallOwn va 8 true
    let bs ← loadOwn va 8
    if y.toNat < leNat bs then trapWith .seqRegress 0 va else pure ()
    let t ← theTask
    pushStore { ctx := t.ctx, tid := t.tid, va := va, loc := p.1, kind := .seq y, x := recordX t }
    dropSrc b (marked m 0)) s

/-- The reply channel and the checks of WATCH and UNWATCH (R320): rows 2 to 7 of R44. -/
def watchWord (d c : BitVec 5) : Eff (BitVec 6 × Cap) := do
  let ch ← readReg d
  operandLimit (decide (ch.toNat < 64))
  let x ← readCap c
  let va := capAddr x
  checkAccess { cap := x, va := va, len := 8, perms := [permWATCH], align := 8, store := false }
    (if vaSpace va = 2 ∨ vaSpace va = 3 then some dtlSeqSpace else none)
  pure (ch.extractLsb' 0 6, x)

/-- The watch that a packet asks for. -/
def watchOf (q : WatchReq) : Watch :=
  { spkg := q.spkg, score := q.score, ctx := q.ctx, va := capAddr q.cap, threshold := q.threshold, chan := q.chan }

/-- The entries that an UNWATCH removes (R320). -/
def sameWatch (q : WatchReq) (w : Watch) : Bool :=
  decide (w.spkg = q.spkg) && decide (w.score = q.score) && decide (w.ctx = q.ctx) && decide (w.va = capAddr q.cap) &&
    decide (w.chan = q.chan)

/-- A packet to the port of the owner; what stands unanswered at other owners is kept (R370). -/
def toPort (s : State) (q : WatchReq) (un : Bool) : State :=
  if isOwn s (capAddr q.cap) then queueEvent s (if un then .unwatchRequest q else .watchRequest q)
  else if un then emit { s with placed := s.placed.filter (fun w => !sameWatch q w) } (.unwatch q)
  else emit { s with placed := s.placed ++ [watchOf q] } (.watch q)

def execWatch (d c b : BitVec 5) (m : BitVec 1) (s : State) : Out :=
  issueSeq (do
    let y ← readSrc b (marked m 0)
    let p ← watchWord d c
    let s ← get
    let t ← theTask
    set (toPort s { spkg := s.pkg, score := s.core, ctx := t.ctx, cap := p.2, threshold := y, chan := p.1 } false)) s

def execUnwatch (d c : BitVec 5) (s : State) : Out :=
  issueSeq (do
    let p ← watchWord d c
    let s ← get
    let t ← theTask
    set (toPort s { spkg := s.pkg, score := s.core, ctx := t.ctx, cap := p.2, threshold := 0, chan := p.1 } true)) s

/-- The checks that the port repeats (R45, R320), with row 7 under the SPLIT of the context here before row 8 (R44,
R412). -/
def watchRefusal (s : State) (q : WatchReq) : Option (BitVec 8) :=
  let va := capAddr q.cap
  if fencedOff s q.spkg then some 0x0B
  else if !q.cap.tag then some 0x04
  else if capSealed q.cap then some 0x05
  else if !hasPerm q.cap permWATCH then some 0x06
  else if !inBounds q.cap va.toNat 8 then some 0x07
  else if vaSpace va = 1 then
    match findCtx s q.ctx with
    | none => some 0x0B
    | some cx =>
      if scratchEnd cx < vaOff va + 8 then some 0x0B
      else if cx.residency = .absent then some 0x0A else none
  else none

/-- The watcher is the owner itself. -/
def watchOwn (s : State) (q : WatchReq) : Bool := decide (q.spkg = s.pkg ∧ q.score = s.core)

/-- The word at the port after its checks: its value at the memory point or in the image (R412). -/
def portWord (s : State) (q : WatchReq) : Except (BitVec 8) Word :=
  match watchRefusal s q with
  | some e => .error e
  | none =>
    match readSector s (portCtx s q.ctx) (watchOwn s q) (capAddr q.cap) 8 with
    | .ok r => .ok (BitVec.ofNat 64 (leNat r.1))
    | .error e => .error e

/-- A request at the port reads its word: it waits for a page that is being moved (R73), it ends the context at a slice
without an Active key slot or at a table entry that is lost (R65, R28), or `f` goes on, after the corrections that the read
makes (R28). -/
def atPort (q : WatchReq) (f : Except (BitVec 8) Word → State → State) : Eff Unit := do
  let s ← get
  let va := capAddr q.cap
  if !isOwn s va then noSubject
  else if (watchRefusal s q).isSome then set (f (portWord s q) s)
  else if moveHolds s q.ctx va || filling s q.ctx va 8 then holdOther
  else match fatalRange s q.ctx va 8 with
    | some key => set (endContext s q.ctx key)
    | none => set (f (portWord s q) (noteErrors s (portCtx s q.ctx) (watchOwn s q) va 8))

/-- Entries of the registry (R89). -/
def watchDepth : Nat := 64

/-- What a WATCH makes of the word (R89, R90). -/
def takeWatch (q : WatchReq) (x : Except (BitVec 8) Word) (s : State) : State :=
  let w := watchOf q
  let r : Record := { owner := ownId s, pub := pubOf s q.ctx, x := true }
  match x with
  | .error e => watchReply s w 0 watchRefused e.toNat none
  | .ok v =>
    if q.threshold.toNat ≤ v.toNat then watchReply s w v watchImmediate 0 (some r)
    else if s.watches.length < watchDepth then { s with watches := s.watches ++ [w] }
    else watchReply s w v watchFull 0 (some r)

/-- What an UNWATCH makes of it; a refused one removes nothing. -/
def takeUnwatch (q : WatchReq) (x : Except (BitVec 8) Word) (s : State) : State :=
  match x with
  | .error _ => s
  | .ok _ => { s with watches := s.watches.filter (fun w => !sameWatch q w) }

/-- WATCH_REQUEST at the own port (R89, R90). -/
def execWatchRequest (req : WatchReq) (s : State) : Out := event (atPort req (takeWatch req)) s

/-- UNWATCH_REQUEST at the own port. -/
def execUnwatchRequest (req : WatchReq) (s : State) : Out := event (atPort req (takeUnwatch req)) s

/-! ### System instructions (R323 to R325) -/

/-- TRAP: its code is the low half of S1, which may name a queue (R175, R323). -/
def execTrap (a : MarkedReg) (s : State) : Out :=
  issue (do
    let x ← readSrc a.reg (marked a.mark 0)
    trapWith .trap (x.toNat % 2 ^ 32)) s

/-- BRK: the task is suspended at it (R324). -/
def execBrk (s : State) : Out := issue (trapWith .brk 0) s

def execEret (s : State) : Out :=
  issueSeq (do
    needSupervisor
    returnFromBreak) s

/-- The PC that SNAPPCk takes (R395 Table 3). -/
def snapPcOf (s : State) (k : Nat) : Word :=
  let pick := fun (t : Task) => if k % 2 = 0 then t.sa.pc else t.se.pc
  match slotAt s (k / 2) with
  | .running t => pick t
  | .held t _ => pick t
  | _ => Config.idlePc (s.fresh + k)

/-- The snapshot trigger is raised: this core's block, if it is armed, will latch the PCs of now; one that holds a snapshot
ignores it. While a trigger is on its way another makes one with it (R396; log entry 87). -/
def raiseTrigger (s : State) : State :=
  if s.pk.snapArmed then s
  else
    let held := if s.regs.snapstat.getLsbD 0 then none else some (Vector.ofFn (fun (i : Fin 8) => snapPcOf s i.val))
    { s with fresh := s.fresh + 8, pk := { s.pk with snapArmed := true, snapHeld := held } }

def execSnap (s : State) : Out :=
  issueSeq (do
    needSupervisor
    modify (fun s => emit (raiseTrigger s) .snapTrigger)) s

/-- IDLE: at most 64 cycles (R325). -/
def execIdle (s : State) : Out := issueSeq (setTheWait (.idle 64)) s

/-- IDLE_WAKE: another slot was selected, or the 64 cycles have passed. -/
def execIdleWake (slot : BitVec 2) (stream : Stream) (s : State) : Out :=
  event (do
    let s ← get
    match taskIn s slot.toNat with
    | none => noSubject
    | some t =>
      match (streamOf t stream).wait with
      | .idle _ => set (putTask s slot.toNat (setWait t stream .ready))
      | _ => noSubject) s

end Sys2Proof.Machine
end

