-- ==== Sys2Proof/Machine/Send.lean ====
section
/-! DEFINITION. Sending: messages, SPAWN, stream ports, channel bits, endpoints (R308 to R318). -/
namespace Sys2Proof.Machine

/-! ### Endpoints (R318) -/

/-- The package is a member of the pod and not fenced off (R370). -/
def packagePresent (s : State) (p : BitVec 9) : Bool := s.members.contains p && !s.pk.fenced.contains p

/-- The channels that an endpoint capability covers: its offset bounds. -/
def endpointOf (c : Cap) (dctx : BitVec 12) : Endpoint :=
  let hi := (mkVa (vaSpace (capAddr c)) (vaPkg (capAddr c)) (vaCore (capAddr c)) 0).toNat
  { pkg := vaPkg (capAddr c), core := vaCore (capAddr c), lo := capBase c - hi, top := capTop c - hi, dctx := dctx }

/-- The lowest-numbered installed entry for a core that meets `p`. -/
def findEndpoint (cx : CtxState) (pkg : BitVec 9) (core : BitVec 10) (p : Endpoint → Bool) : Option Endpoint :=
  cx.endpoints.toList.findSome? (fun e => match e with
    | some x => if x.pkg = pkg ∧ x.core = core ∧ p x = true then some x else none
    | none => none)

def coversChan (n : Nat) (e : Endpoint) : Bool := decide (e.lo ≤ n ∧ n < e.top)

/-- It covers some channel: those of a core are 0 to 63. -/
def coversAny (e : Endpoint) : Bool := (List.range 64).any (fun n => coversChan n e)

/-- The destination context for traffic of a context to a channel: its own on its own core, else that of the endpoint
entry used; none when no installed endpoint covers it. -/
def destCtx (s : State) (cx : CtxState) (pkg : BitVec 9) (core : BitVec 10) (chan : Nat) : Option (BitVec 12) :=
  if pkg = s.pkg ∧ core = s.core then some cx.num
  else if !packagePresent s pkg then none
  else (findEndpoint cx pkg core (coversChan chan)).map (·.dctx)

/-! ### The send descriptor (R310) -/

structure SendDesc where
  chan : BitVec 6
  core : BitVec 10
  pkg : BitVec 9
  len : Nat
  cslots : Nat
  ok : Bool
  deriving DecidableEq, Repr

/-- Fields of a descriptor; `ok`: no reserved bit is set. -/
def sendDesc (w : Word) : SendDesc :=
  { chan := w.extractLsb' 0 6, core := w.extractLsb' 6 10, pkg := w.extractLsb' 16 9, len := field w 25 6,
    cslots := field w 31 3, ok := decide (field w 34 30 = 0) }

/-- A descriptor whose len and cslots are reserved. -/
def plainDesc (w : Word) : Eff SendDesc := do
  let d := sendDesc w
  operandLimit (d.ok && decide (d.len = 0) && decide (d.cslots = 0))
  pure d

/-- Step 2 of R311: the destination context, or ENDPOINT. -/
def needDest (d : SendDesc) : Eff (BitVec 12) := do
  let s ← get
  match destCtx s s.cx d.pkg d.core d.chan.toNat with
  | some c => pure c
  | none => trapWith .endpoint 0

/-! ### Staging (R308) -/

def stageDepth : Nat := 8

def needStage : Eff Unit := do
  let t ← theTask
  if t.staged.length < stageDepth then pure () else trapWith .stageFull 0

/-- Stages a message: it takes the context's counter as its id (R306). -/
def stageMessage (d : SendDesc) (len kind : Nat) (slots : Cap × Cap × Cap) (dctx : BitVec 12) (f : Message → Staged) :
    Eff Unit := do
  let s ← get
  let t ← theTask
  let id := s.cx.msgCounter
  let m : Message :=
    { hdr0 := mkHdr0 d.core d.pkg d.chan s.core s.pkg, hdr1 := mkHdr1 id len kind t.ctx t.sup dctx,
      slot0 := slots.1, slot1 := slots.2.1, slot2 := slots.2.2, record := none }
  set { s with cx := { s.cx with msgCounter := id + 1 } }
  modTask (fun t => { t with staged := t.staged ++ [f m], lastMsgid := some id })

/-- A payload slot cut by the length: bytes at and beyond it are zero, and a cut slot keeps no tag. -/
def cutSlot (len j : Nat) (c : Cap) : Cap :=
  if 16 * j + 16 ≤ len then c
  else { bits := BitVec.ofNat 128 (c.bits.toNat % 2 ^ (8 * (len - 16 * j))), tag := false }

/-- Two doubles as an untagged slot. -/
def pairSlot (x y : Word) : Cap := { bits := y ++ x, tag := false }

/-- SEND and SENDC; `k` is 0 for no capability registers. -/
def sendMessageWith (x : Word) (b : BitVec 5) (isC : Bool) (k : Nat) : Eff Unit := do
  let t ← theTask
  let st ← theStream
  let d := sendDesc x
  operandLimit (decide (d.len ≤ 48) && d.ok && (isC || decide (d.cslots = 0)) && (decide (k ≠ 0) || decide (d.cslots = 0)))
  let dctx ← needDest d
  needStage
  let r := fun (j : Nat) => regVal t st (b + BitVec.ofNat 5 j)
  let slot := fun (j : Nat) =>
    cutSlot d.len j (if d.cslots.testBit j then capVal t (k + j) else pairSlot (r (2 * j)) (r (2 * j + 1)))
  stageMessage d d.len kindData (slot 0, slot 1, slot 2) dctx .message

def execSend (a b : BitVec 5) (m : BitVec 1) (s : State) : Out :=
  issueSeq (do
    let x ← readSrc a (marked m 0)
    sendMessageWith x b false 0) s

def execSendc (a b : BitVec 5) (m : BitVec 1) (k : BitVec 4) (s : State) : Out :=
  issueSeq (do
    let x ← readSrc a (marked m 0)
    sendMessageWith x b true k.toNat) s

/-- MSGID (R317). -/
def execMsgid (d : BitVec 5) (m : BitVec 1) (s : State) : Out :=
  issueSeq (do
    let t ← theTask
    writeDst d (marked m 0) (match t.lastMsgid with
      | some i => i.setWidth 64 ||| 0x10000
      | none => 0)) s

/-! ### SPAWN (R312, R313) -/

/-- The request for a slot leaves for the target. -/
def askSpawn (s : State) (q : SpawnReq) (pkg : BitVec 9) (core : BitVec 10) : State :=
  if pkg = s.pkg ∧ core = s.core then queueEvent s (.spawnRequest q) else emit s (.spawnReq q pkg core)

/-- SPAWN's message: four doubles, len 32. The descriptor was read, and its destination found, at issue. -/
def stageSpawn (x : Word) (b : BitVec 5) (id : Nat) (dctx : BitVec 12) : Eff Unit := do
  let t ← theTask
  let st ← theStream
  let d := sendDesc x
  needStage
  let r := fun (j : Nat) => regVal t st (b + BitVec.ofNat 5 j)
  stageMessage d 32 kindSpawn (pairSlot (r 0) (r 1), pairSlot (r 2) (r 3), Cap.null) dctx (fun m => .spawn m id)

def execSpawn (d a b : BitVec 5) (n m : BitVec 1) (s : State) : Out :=
  issueSeq (do
    let w ← theWait
    match w with
    | .unreachable => trapWith .endpoint 0
    | .spawn id _ _ x dctx (some g) => do
      if g then stageSpawn x b id dctx else pure ()
      setTheWait .ready
      if marked m 0 then fillPort d.toNat (Word.ofBool g) else writeReg d (Word.ofBool g)
    | _ => do
      let x ← readSrc a (marked n 0)
      if marked m 0 then reservePort d.toNat else pure ()
      let q ← plainDesc x
      let dctx ← needDest q
      let s ← get
      let r : SpawnReq :=
        { release := false, id := s.nextId, spkg := s.pkg, score := s.core, dctx := dctx, chan := q.chan }
      askAndWait (fun s => askSpawn { s with nextId := s.nextId + 1 } r q.pkg q.core)
        (.spawn s.nextId q.pkg q.core x dctx none)) s

/-- The answer to a request leaves for the spawning core. -/
def answerSpawn (s : State) (q : SpawnReq) (g : Bool) : State :=
  if q.spkg = s.pkg ∧ q.score = s.core then queueEvent s (.spawnResponse q.id g)
  else emit s (.spawnAnswer q.id g q.spkg q.score)

/-- The lowest free slot. -/
def freeSlot (s : State) : Option Nat := (List.range 4).find? (slotFree s)

/-- SPAWN_REQUEST at the target (R312); a release frees the slot that its source holds here (R313). -/
def execSpawnRequest (req : SpawnReq) (s : State) : Out :=
  event (do
    let s ← get
    let n := req.chan.toNat
    if req.release then set (giveSlots (freeReserved s req.id req.spkg req.score))
    else if fencedOff s req.spkg = false ∧ req.dctx ≠ 0 ∧ s.cx.num = req.dctx ∧ s.switchReq = false ∧ chanPresent s.cx n = true ∧ chanEn s.cx n = true ∧
        chanHold s.cx n = false then
      match freeSlot s with
      | some k => set (answerSpawn (setSlot s k (.reserved req.id req.spkg req.score req.chan)) req true)
      | none => set (answerSpawn s req false)
    else set (answerSpawn s req false)) s

/-- SPAWN_RESPONSE reaches the stream; a task that has gone has given the reservation back (R313). -/
def execSpawnResponse (id : Nat) (grant : Bool) (s : State) : Out :=
  event (do
    let s ← get
    if s.nextId ≤ id then noSubject
    else
      let f := fun (z : StreamSt) => match z.wait with
        | .spawn i p c x d none => if i = id then { z with wait := .spawn i p c x d (some grant) } else z
        | _ => z
      set (mapTasks (fun t => { t with sa := f t.sa, se := f t.se }) s)) s

/-! ### Stream ports (R314) -/

def needPort : Eff Port := do
  let t ← theTask
  match t.port with
  | some p => pure p
  | none => trapWith .illegalOp dtlPortState

def execSopen (a : BitVec 5) (s : State) : Out :=
  issueSeq (do
    let x ← readReg a
    let t ← theTask
    if t.port.isSome then trapWith .illegalOp dtlPortState else pure ()
    let d ← plainDesc x
    let dctx ← needDest d
    let r ← releaseTask
    let s ← get
    let p : Port :=
      { chan := d.chan, dcore := d.core, dpkg := d.pkg, dctx := dctx, words := 0, stream := s.nextId, record := r,
        routed := false, links := [] }
    set { s with nextId := s.nextId + 1 }
    modTask (fun t => { t with port := some p })) s

/-- The issuing stream waits for a route, its operands where they were. -/
def waitRoute (s : State) : State :=
  match taskIn s (curK s) with
  | some t => putTask s (curK s) (setWait t s.cur.2 .route)
  | none => s

/-- An open stream to a package that has been fenced off fails (R370). -/
def needReach (p : Port) : Eff Unit := do
  let s ← get
  if packagePresent s p.dpkg then pure () else trapWith .endpoint 0

/-- SPUT: the first word asks for the route, and the stream waits for it (R369). -/
def execSput (a : BitVec 5) (m : BitVec 1) (s : State) : Out :=
  issueSeq (do
    let x ← readSrc a (marked m 0)
    let p ← needPort
    needReach p
    if !p.routed then throw (.ask (waitRoute s)) else pure ()
    let t ← theTask
    setTheWait .ready
    modify (fun s => sendStream s p t.ctx t.sup (.word x))
    modTask (fun t => { t with port := some { p with words := p.words + 1 } })) s

/-- The close of the executing task's port, a release. -/
def closePort (p : Port) : Eff Unit := do
  let r ← releaseTask
  let t ← theTask
  modify (fun s => sendStream s p t.ctx t.sup (.close r))
  modTask (fun t => { t with port := none })

def execSclose (s : State) : Out :=
  issueSeq (do
    let p ← needPort
    needReach p
    closePort p) s

/-! ### Channel bits (R316) -/

/-- One operation, on this core at once, or as a packet. -/
def channelOp (x : Word) (op : ChanOp) : Eff Unit := do
  let d ← plainDesc x
  let s ← get
  let t ← theTask
  if d.pkg = s.pkg ∧ d.core = s.core then
    if chanSup s.cx d.chan.toNat && !t.sup then trapWith .priv 0
    else set (reevaluate { s with cx := applyChanOp s.cx d.chan.toNat op } d.chan.toNat)
  else do
    let dctx ← needDest d
    let p : ChanPacket :=
      { op := op, chan := d.chan, dctx := dctx, sctx := t.ctx, spkg := s.pkg, score := s.core, sup := t.sup }
    set (sendPacket s d.pkg d.core (.channelBitArrival p) (fun n => .chanop p d.pkg d.core n))

def execChen (a : BitVec 5) (m : BitVec 1) (s : State) : Out :=
  issueSeq (do
    let x ← readSrc a (marked m 0)
    channelOp x .enable) s
def execChdis (a : BitVec 5) (m : BitVec 1) (s : State) : Out :=
  issueSeq (do
    let x ← readSrc a (marked m 0)
    channelOp x .disable) s
def execChhold (a : BitVec 5) (m : BitVec 1) (s : State) : Out :=
  issueSeq (do
    let x ← readSrc a (marked m 0)
    channelOp x .hold) s
def execChrel (a : BitVec 5) (m : BitVec 1) (s : State) : Out :=
  issueSeq (do
    let x ← readSrc a (marked m 0)
    channelOp x .release) s
def execChpend (a b : BitVec 5) (n m : BitVec 1) (s : State) : Out :=
  issueSeq (do
    let x ← readSrc a (marked m 0)
    let y ← readSrc b (marked n 0)
    channelOp x (.pend y)) s

/-! ### EPBIND (R318) -/

def putEndpoint (i : Nat) (e : Option Endpoint) : Eff Unit :=
  modify (fun s => { s with cx := { s.cx with endpoints := vset s.cx.endpoints i e } })

def execEpbind (d c : BitVec 5) (s : State) : Out :=
  issueSeq (do
    let x ← readReg d
    operandLimit (decide (x.toNat < 32))
    if c = 0 then putEndpoint x.toNat none
    else do
      let k ← readCap c
      let w ← theWait
      if !k.tag then trapWith .capTag 0
      else if capType k ≠ 2 then trapWith .capPerm 1
      else match w with
        | .epbind _ (some dctx) => do
          setTheWait .ready
          putEndpoint x.toNat (some (endpointOf k dctx))
        | _ => do
          let s ← get
          askAndWait (fun u => emit u (.epbind s.cur.1 k)) (.epbind k none)) s

/-- The grant record gives the endpoint to a context (R382). -/
def grantsEndpoint (ctx : BitVec 12) (e : Endpoint) (g : GrantRec) : Bool :=
  decide (g.grantee = ctx ∧ g.pkg = e.pkg ∧ g.core = e.core ∧ g.lo.toNat ≤ e.lo ∧ e.top ≤ g.hi.toNat + 1)

/-- The destination context of an endpoint that a context installs (R318): the granting context, or for one that a
supervisor made within its own context the installing context. -/
def endpointCtx (s : State) (ctx : BitVec 12) (c : Cap) : BitVec 12 :=
  match s.pk.grants.find? (grantsEndpoint ctx (endpointOf c ctx)) with
  | some g => g.grantor
  | none => ctx

/-- EPBIND_ANSWER: the destination context that the security core's grant records give; one with another context is no
answer of the security core. -/
def execEpbindAnswer (slot : BitVec 2) (dctx : BitVec 12) (s : State) : Out :=
  event (do
    let s ← get
    match taskIn s slot.toNat with
    | some t =>
      match t.sa.wait with
      | .epbind c none =>
        if dctx = endpointCtx s t.ctx c then set (putTask s slot.toNat (setWait t .A (.epbind c (some dctx))))
        else noSubject
      | _ => noSubject
    | none => noSubject) s

end Sys2Proof.Machine
end

