-- ==== Sys2Proof/Machine/Deliver.lean ====
section
/-! DEFINITION. Arrivals at the network interface (R313, R315, R316, R331 to R335, R347, R361, R413), the end of a task and
its departures (R207, R308), counters that run out (R139, R356), and FATAL-CONTEXT (R359). -/
namespace Sys2Proof.Machine

/-! ### Reports -/

/-- The number of the next packet that the network interface accepts from a source core (R364). -/
def expectedPacket (s : State) (p : PacketNo) : Nat := pairNo s.packetNext (p.pkg, p.core)

/-- A message that names this core as its source, of a kind that only agents generate: the agent is no core, and the message
is not one of a numbered pair (R307, R364). -/
def fromAgent (s : State) (m : Message) : Bool :=
  decide (msgSrcPkg m = s.pkg ∧ msgSrcCore m = s.core ∧ (msgKind m = kindSystem ∨ msgKind m = kindSweep))

/-- The source core of an arriving packet of the message class; none for other events (R309, R364). -/
def packetSource (s : State) : Instr → Option (BitVec 9 × BitVec 10)
  | .messageArrival m => if fromAgent s m then none else some (msgSrcPkg m, msgSrcCore m)
  | .spawnArrival m => some (msgSrcPkg m, msgSrcCore m)
  | .channelBitArrival p => some (p.spkg, p.score)
  | .streamWordArrival f => some (f.spkg, f.score)
  | _ => none

/-- An event that is no numbered packet, or the next packet of its pair: a packet that arrives early is held until its
predecessors have arrived (R364). -/
def inSequence (s : State) (ev : Event) : Bool :=
  match packetSource s ev.row, ev.access.packet with
  | none, _ => true
  | some _, none => false
  | some c, some p => decide ((p.pkg, p.core) = c ∧ p.seq = expectedPacket s p)

/-- The packet has been accepted. -/
def accepted (s : State) (ev : Event) : State :=
  match packetSource s ev.row, ev.access.packet with
  | some _, some p => { s with packetNext := setPairNo s.packetNext (p.pkg, p.core) (p.seq + 1) }
  | _, _ => s

/-- A FAULT report for a context that this core holds, in whatever residency; lost without a supervisor channel
(R331, R354). -/
def reportIn (s : State) (n : BitVec 12) (payload : List Byte) : State :=
  match findCtx s n with
  | none => s
  | some cx =>
    match supChannel cx with
    | some k => sendFrom s cx s.core s.pkg (BitVec.ofNat 6 k) kindFault payload n none
    | none => { s with regs := { s.regs with runqlost := BitVec.ofNat 16 (satAdd 0xFFFF s.regs.runqlost.toNat 1) } }

/-- A report that finds no channel, or neither room nor an overflow-store entry, is counted (R331). -/
def countLost (s : State) : State :=
  { s with regs := { s.regs with runqlost := BitVec.ofNat 16 (satAdd 0xFFFF s.regs.runqlost.toNat 1) } }

/-- The 16 header bytes of a message. -/
def headerBytes (m : Message) : List Byte := leBytes 8 m.hdr0.toNat ++ leBytes 8 m.hdr1.toNat

/-- A report of class 4: no task was affected (R354). -/
def looseReport (cause msgid : Nat) (extra : List Byte) : List Byte := reportPayload cause 4 0 0 msgid 0 0 0 extra

/-- Destination and source in the layout of header bytes 0 to 7 (R335). -/
def arrivalHeader (s : State) (chan : BitVec 6) (spkg : BitVec 9) (score : BitVec 10) : List Byte :=
  leBytes 8 (mkHdr0 s.core s.pkg chan score spkg).toNat

/-- A FAULT ENDPOINT report to the core that sent what R413 discards, in its own context. The source is told by a message
of this core; with the source context held here it takes that context's counter. -/
def tellSource (s : State) (spkg : BitVec 9) (score : BitVec 10) (sctx : BitVec 12) (msgid : Nat) (extra : List Byte) :
    State :=
  let cx := (findCtx s sctx).getD (CtxState.fresh sctx)
  sendFrom s cx score spkg 0 kindFault (looseReport 0x16 msgid extra) sctx none

/-! ### Deposit (R332 to R335, R347) -/

/-- Reports addressed to the core (R331). -/
def isReport (m : Message) : Bool := decide (msgKind m = kindFault ∨ msgKind m = kindSweep)

/-- Sets the channel field of a header. -/
def withChan (m : Message) (n : Nat) : Message := { m with hdr0 := putField m.hdr0 19 6 n }

/-- The resident context dispatches; any other waits for its return. -/
def settle (s : State) (ctx : BitVec 12) (n : Nat) : State := if s.cx.num = ctx then reevaluate s n else s

/-- Parks a message, or discards it with a report (R335). -/
def parkMessage (s : State) (ctx : BitVec 12) (m : Message) : State :=
  match park s ctx (.message (epochFilter s ctx m)) with
  | some s1 => s1
  | none => if isReport m then countLost s else reportIn s ctx (looseReport 0x1D (msgId m).toNat (headerBytes m))

/-- Parks a channel-bit operation, or discards it with a report (R335). -/
def parkChanop (s : State) (ctx : BitVec 12) (p : ChanPacket) : State :=
  match park s ctx (.chanop p) with
  | some s1 => s1
  | none => reportIn s ctx (looseReport 0x1D 0 (arrivalHeader s p.chan p.spkg p.score))

/-- Something waits at the network interface for the channel, and later arrivals behind it (R335). -/
def heldFor (cx : CtxState) (n : Nat) : Bool := cx.held.any (fun p => decide (parkedChan p = some n))

/-- A message for a present channel of a context whose rings this core holds (R334, R335). -/
def deposit (s : State) (cx : CtxState) (n : Nat) (m : Message) : State :=
  if s.ovf.any (parkedFor cx.num n) then parkMessage s cx.num m
  else if heldFor cx n then putCtx s { cx with held := cx.held ++ [.message m] }
  else match ringDeposit s cx n m with
    | some c => settle (putCtx s c) cx.num n
    | none => putCtx s { cx with held := cx.held ++ [.message m] }

/-- A message for an absent channel is discarded: a report about it goes to the supervisor channel, but a report is only
counted (R331, R333). -/
def discardAbsent (s : State) (ctx : BitVec 12) (m : Message) : State :=
  if isReport m then countLost s else reportIn s ctx (looseReport 0x16 (msgId m).toNat (headerBytes m))

/-- The SYSTEM message that asks the package's launch agent for a context that is absent (R347): the agent numbers it
(R307) and passes the request on to the host. Its payload is not laid out: none is given. -/
def wantContext (s : State) (ctx : BitVec 12) : State :=
  emit (bumpAgent s ctx) (.contextWanted (mkMessage (mkHdr0 s.core s.pkg 0 s.core s.pkg)
    (mkHdr1 (agentCounter s ctx) 48 kindSystem ctx false ctx) [] none))

/-- A message at its channel (R331, R333, R347). -/
def depositAt (s : State) (cx : CtxState) (n : Nat) (m : Message) : State :=
  if cx.residency = .absent then parkMessage (wantContext s cx.num) cx.num m
  else if chanPresent cx n then deposit s cx n m
  else discardAbsent s cx.num m

/-- A remote channel-bit operation at its channel (R316, R332, R335, R347, R361): applied at once while its context is
resident; while it is out, behind what waits there as a message would be, else applied to the saved entry; parked while it is
absent. -/
def applyAt (s : State) (cx : CtxState) (p : ChanPacket) : State :=
  if cx.residency = .absent then parkChanop (wantContext s cx.num) cx.num p
  else if cx.residency = .resident then settle (putCtx s (applyRemote cx p)) cx.num p.chan.toNat
  else if s.ovf.any (parkedFor cx.num p.chan.toNat) then parkChanop s cx.num p
  else if heldFor cx p.chan.toNat then putCtx s { cx with held := cx.held ++ [.chanop p] }
  else settle (putCtx s (applyRemote cx p)) cx.num p.chan.toNat

/-- Arrivals that are discarded without a word: of a context that has taken FATAL-CONTEXT (R359), or from a package that
has been fenced off (R370). -/
def silenced (s : State) (dctx : BitVec 12) (spkg : BitVec 9) : Bool :=
  s.pk.fatals.contains dctx || fencedOff s spkg

/-- Messages that a task made, directly or as the words of its stream (R413). -/
def fromTask (m : Message) : Bool :=
  decide (msgKind m = kindData ∨ msgKind m = kindSpawn ∨ msgKind m = kindStream)

/-- A message at the network interface. -/
def deliver (s : State) (m : Message) : State :=
  if silenced s (msgDctx m) (msgSrcPkg m) then s
  else match findCtx s (msgDctx m) with
    | none =>
      if fromTask m then tellSource s (msgSrcPkg m) (msgSrcCore m) (msgSctx m) (msgId m).toNat (headerBytes m) else s
    | some cx =>
      if isReport m then
        match supChannel cx with
        | some n => depositAt s cx n (withChan m n)
        | none => if cx.residency = .absent then parkMessage (wantContext s cx.num) cx.num m else countLost s
      else depositAt s cx (msgChan m).toNat m

/-- The slot reserved for a SPAWN message of the resident context (R313). -/
def reservedSlot (s : State) (m : Message) : Option Nat :=
  if s.cx.num = msgDctx m then
    (List.range 4).find? (fun k => match slotAt s k with
      | .reserved _ p c n => decide (p = msgSrcPkg m ∧ c = msgSrcCore m ∧ n = msgChan m)
      | _ => false)
  else none

/-- It has come to this core. -/
def isHere (s : State) (m : Message) : Bool := decide (msgPkg m = s.pkg ∧ msgCore m = s.core)

/-- The reply to a watch at another owner. -/
def answersWatch (m : Message) (w : Watch) : Bool :=
  decide (msgKind m = kindWatchReply) && decide (w.ctx = msgDctx m) && decide (w.chan = msgChan m) &&
    decide (w.va = slotDouble m.slot0 false) && decide (w.threshold = slotDouble m.slot1 false)

/-- A watch that has had its reply is no longer outstanding (R370). -/
def settleWatch (s : State) (m : Message) : State := { s with placed := s.placed.eraseP (answersWatch m) }

/-- MESSAGE_ARRIVAL. -/
def execMessageArrival (message : Message) (s : State) : Out :=
  event (do
    let s ← get
    if !isHere s message || (decide (msgKind message = kindSpawn) && (reservedSlot s message).isSome) then
      noSubject
    else set (deliver (settleWatch s message) message)) s

/-- SPAWN_ARRIVAL: the task starts in its slot, or the message is delivered as any other (R313). -/
def execSpawnArrival (message : Message) (s : State) : Out :=
  event (do
    let s ← get
    if !isHere s message || decide (msgKind message ≠ kindSpawn) then noSubject
    else if silenced s (msgDctx message) (msgSrcPkg message) then pure ()
    else match reservedSlot s message with
      | some k => set (startTask s k (activate s s.cx (msgChan message).toNat message none) message.record)
      | none => set (deliver s message)) s

/-- What was held goes to the overflow store. -/
def parkHeld (ctx : BitVec 12) (s : State) : Parked → State
  | .message m => parkMessage s ctx m
  | .chanop p => parkChanop s ctx p
  | .flit _ => s

/-- RING_HOLD_TIMEOUT: what is held for a channel goes to the overflow store (R335). -/
def execRingHoldTimeout (ctx : BitVec 12) (chan : BitVec 6) (s : State) : Out :=
  event (do
    let s ← get
    match findCtx s ctx with
    | none => noSubject
    | some cx =>
      if !heldFor cx chan.toNat then noSubject
      else
        let mine := fun (p : Parked) => decide (parkedChan p = some chan.toNat)
        set ((cx.held.filter mine).foldl (parkHeld ctx)
          (putCtx s { cx with held := cx.held.filter (fun p => !mine p) }))) s

/-- One step of ageing (R337). -/
def raiseEntry : RunEntry → RunEntry
  | .chan n r q => .chan n (if r = 3 then 3 else r + 1) q
  | .resume t r => .resume t (if r = 3 then 3 else r + 1)

/-- PRIORITY_AGEING. -/
def execPriorityAgeing (entry : Nat) (s : State) : Out :=
  event (do
    let s ← get
    match s.cx.runq[entry]? with
    | some e => set { s with cx := { s.cx with runq := listSet s.cx.runq entry (raiseEntry e) } }
    | none => noSubject) s

/-- CHANNEL_BIT_ARRIVAL (R316, R335, R347). -/
def execChannelBitArrival (packet : ChanPacket) (s : State) : Out :=
  event (do
    let s ← get
    if silenced s packet.dctx packet.spkg then pure ()
    else match findCtx s packet.dctx with
      | none => set (tellSource s packet.spkg packet.score packet.sctx 0
          (arrivalHeader s packet.chan packet.spkg packet.score))
      | some cx => set (applyAt s cx packet)) s

/-! ### Streams (R314, R315) -/

/-- The payload of a STREAM message (R315 Table 5). -/
def streamPayload (i : InStream) (flags : Nat) : List Byte :=
  takePad 40 (i.words.flatMap (fun w => leBytes 8 w.toNat)) ++ leBytes 1 i.words.length ++ leBytes 1 flags ++
    leBytes 2 0 ++ leBytes 4 i.seq.toNat

/-- A STREAM message made at the destination, with the context's counter there, and delivered. `flags`: CLOSE or ABORT,
beside FIRST of the first. -/
def streamMessage (s : State) (ctx : BitVec 12) (i : InStream) (flags : Nat) (r : Record) : State :=
  match findCtx s ctx with
  | none => s
  | some cx =>
    let m := mkMessage (mkHdr0 s.core s.pkg i.chan i.score i.spkg) (mkHdr1 cx.msgCounter 48 kindStream i.sctx false ctx)
      (streamPayload i (flags + (if i.seq = 0 then 1 else 0))) (some r)
    deliver (putCtx s { cx with msgCounter := cx.msgCounter + 1 }) m

/-- The stream open on a channel. -/
def openStream (cx : CtxState) (chan : BitVec 6) : Option InStream := cx.inStreams.find? (fun i => decide (i.chan = chan))

def putStream (cx : CtxState) (i : InStream) : CtxState :=
  { cx with inStreams := cx.inStreams.filter (fun x => decide (x.chan ≠ i.chan)) ++ [i] }

def closeStream (cx : CtxState) (chan : BitVec 6) : CtxState :=
  { cx with inStreams := cx.inStreams.filter (fun x => decide (x.chan ≠ chan)) }

/-- The flit is of this stream. -/
def ofStream (f : StreamFlit) (i : InStream) : Bool :=
  decide (i.spkg = f.spkg ∧ i.score = f.score ∧ i.sctx = f.sctx ∧ i.stream = f.stream)

def newStream (f : StreamFlit) : InStream :=
  { chan := f.chan, spkg := f.spkg, score := f.score, sctx := f.sctx, sup := f.sup, stream := f.stream, words := [],
    seq := 0, record := f.openRecord }

/-- A flit of the stream that the channel gathers. -/
def takeFlit (s : State) (cx : CtxState) (i : InStream) : StreamItem → State
  | .word w =>
    let i1 := { i with words := i.words ++ [w] }
    if i1.words.length = 5 then
      streamMessage (putCtx s (putStream cx { i1 with words := [], seq := i1.seq + 1 })) cx.num i1 0 i1.record
    else putCtx s (putStream cx i1)
  | .close r => streamMessage (putCtx s (closeStream cx i.chan)) cx.num i 2 r
  | .abort => streamMessage (putCtx s (closeStream cx i.chan)) cx.num i 4 i.record

/-- The marker of a stream that sent no word: its one message holds no words, and it needs no channel (R314, R315). -/
def wordless (s : State) (f : StreamFlit) : Option State :=
  match f.item with
  | .word _ => none
  | .close r => some (streamMessage s f.dctx (newStream f) 2 r)
  | .abort => some (streamMessage s f.dctx (newStream f) 4 f.openRecord)

/-- STREAM_WORD_ARRIVAL: the first word of a stream waits while another is open on its channel. -/
def execStreamWordArrival (flit : StreamFlit) (s : State) : Out :=
  event (do
    let s ← get
    if silenced s flit.dctx flit.spkg then pure ()
    else match findCtx s flit.dctx with
      | none => set (tellSource s flit.spkg flit.score flit.sctx 0 (arrivalHeader s flit.chan flit.spkg flit.score))
      | some cx =>
        match openStream cx flit.chan with
        | none => set (takeFlit s cx (newStream flit) flit.item)
        | some i =>
          if ofStream flit i then set (takeFlit s cx i flit.item)
          else match wordless s flit with
            | some u => set u
            | none => holdOther) s


/-! ### The end of a task (R207, R308) -/

/-- The task's slot stands for the stream being issued: releases are the task's. -/
def standIn (slot : BitVec 2) : Eff Unit := modify (fun s => { s with cur := (slot, .A) })

/-- Matrix commands that a task pushed and that are not complete (R207). -/
def hasCommands (s : State) (tid : Nat) : Bool :=
  s.mxQueue.any (fun c => decide (c.tid = tid)) ||
    (match s.mxRun with | some r => decide (r.cmd.tid = tid) | none => false)

/-- Step 1 to the beginning of step 3: the flags fold and the port closes as SCLOSE closes it. -/
def endFolding (slot : BitVec 2) : Eff Unit := do
  standIn slot
  let t ← theTask
  modify (fun s => { s with cx := orNumsum s.cx t.numflags.toNat })
  match t.port with
  | some p => closePort p
  | none => pure ()
  modTask (fun t => { t with ending := .departing })

/-- Steps 4 and 5: what the task held goes, its record is freed, the slot is free (R207, R332). -/
def endTask (s : State) (k : Nat) (t : Task) : State :=
  let n := t.chan.toNat
  let s1 := setSlot (keepX s t) k .free
  let cx := { s1.cx with results := s1.cx.results.filter (fun r => decide (r.tid ≠ t.tid)), taskEnded := true }
  let s2 := { s1 with cx := if t.spawned then cx else setChanActive (freeHead cx n) n false }
  giveSlots (retireEpoch (abortBroken (if t.spawned then s2 else refill s2 n) t))

/-- TASK_END: step 1, or when every staged send has left steps 4 and 5. -/
def execTaskEnd (slot : BitVec 2) (s : State) : Out :=
  event (do
    let s ← get
    match taskIn s slot.toNat with
    | none => noSubject
    | some t =>
      match t.ending with
      | .running => noSubject
      | .draining =>
        if numtrapNow s ≠ 0 ∧ hasCommands s t.tid = true then holdOther
        else match t.cmdTrap with
          | some c => set (takeTrapAt s slot.toNat c.stream true c.info c.pc)
          | none => endFolding slot
      | .departing => if t.staged.isEmpty then set (endTask s slot.toNat t) else noSubject) s

/-- Commands of the accumulate-send engine (R295). -/
def sendDepth : Nat := 2

/-- The head of a contribution is reached: the own core, or through an endpoint that covers any channel (R318). -/
def headContext (s : State) (cx : CtxState) (pkg : BitVec 9) (core : BitVec 10) : Option (BitVec 12) :=
  if pkg = s.pkg ∧ core = s.core then some cx.num
  else if !packagePresent s pkg then none
  else (findEndpoint cx pkg core coversAny).map (·.dctx)

/-- A message that may not leave: discarded with a report, and its reservation released (R308, R313). -/
def discardStaged (m : Message) (id : Option Nat) : Eff Unit :=
  modify (fun s =>
    let s1 := match id with | some i => releaseSpawn s i (msgPkg m) (msgCore m) | none => s
    reportIn s1 s1.cx.num (looseReport 0x16 (msgId m).toNat (headerBytes m)))

/-- One message leaves as a release, or is discarded. -/
def departMessage (m : Message) (id : Option Nat) : Eff Unit := do
  let s ← get
  match destCtx s s.cx (msgPkg m) (msgCore m) (msgChan m).toNat with
  | none => discardStaged m id
  | some _ => do
    let r ← releaseTask
    modify (fun s => sendMessage s { m with record := some r })

/-- The first staged send leaves (R308); a contribution is pushed into the send engine (R295). -/
def departFirst : Staged → Eff Unit
  | .message m => departMessage m none
  | .spawn m id => departMessage m (some id)
  | .contrib c => do
    let s ← get
    if s.sendQueue.length < sendDepth then do
      let _ ← releaseTask
      modify (fun s => { s with sendQueue := s.sendQueue ++ [c] })
    else holdOther

/-- MESSAGE_DEPARTURE. -/
def execMessageDeparture (slot : BitVec 2) (s : State) : Out :=
  event (do
    let s ← get
    match taskIn s slot.toNat with
    | none => noSubject
    | some t =>
      if t.ending ≠ .departing then noSubject
      else match t.staged with
        | [] => noSubject
        | x :: r => do
          standIn slot
          departFirst x
          modTask (fun t => { t with staged := r })) s

/-! ### Counters that run out, pending command traps -/

/-- The stream and PC that QUEUE_DEADLOCK and WATCHDOG record (R356). -/
def recordedPc (t : Task) : Stream × Word := if t.sa.ended then (.E, t.se.pc) else (.A, t.sa.pc)

/-- QUEUE_DEADLOCK (R139, R355). -/
def execQueueDeadlock (slot : BitVec 2) (s : State) : Out :=
  event (do
    let s ← get
    match taskIn s slot.toNat with
    | none => noSubject
    | some t =>
      if t.deadlock ≠ 65536#17 then noSubject
      else
        let p := recordedPc t
        set (takeTrapAt s slot.toNat p.1 false
          { cause := .queueDeadlock, detail := t.waitCodes.setWidth 32, addr := 0 } p.2)) s

/-- WATCHDOG (R356). -/
def execWatchdog (slot : BitVec 2) (s : State) : Out :=
  event (do
    let s ← get
    match taskIn s slot.toNat with
    | none => noSubject
    | some t =>
      if t.wdbudget ≠ 0 then noSubject
      else
        let p := recordedPc t
        set (takeTrapAt s slot.toNat p.1 false { cause := .watchdog, detail := 0, addr := 0 } p.2)) s

/-- COMMAND_TRAP: a pending command trap or matrix numeric trap is taken at an instruction at issue (R172, R351). -/
def execCommandTrap (slot : BitVec 2) (s : State) : Out :=
  event (do
    let s ← get
    match taskIn s slot.toNat with
    | none => noSubject
    | some t =>
      match t.cmdTrap with
      | some c => set (takeTrapAt s slot.toNat c.stream true c.info c.pc)
      | none => noSubject) s

/-! ### FATAL-CONTEXT (R359) -/

/-- The tasks of a context on this core, in slots and suspended. -/
def tasksOf (s : State) (ctx : BitVec 12) : List Task := (allTasks s).filter (fun t => decide (t.ctx = ctx))

/-- Everything of a context stops on this core: slots, store buffer, engines, chains, overflow store. -/
def stopContext (s0 : State) (ctx : BitVec 12) : State :=
  let s := (tasksOf s0 ctx).foldl releaseSpawns s0
  let here := decide (s.cx.num = ctx)
  let quiet := fun (c : CtxState) => if c.num = ctx then
      { c with chains := c.chains.map (fun _ => Chain.idle), susp := [], runq := [], results := [], held := [],
               inStreams := [], gang := [] }
    else c
  { s with
    slots := if here then Vector.replicate 4 .free else s.slots
    cx := quiet s.cx
    others := s.others.map quiet
    sb := s.sb.filter (fun e => decide (e.ctx ≠ ctx))
    copies := s.copies.filter (fun c => decide (c.ctx ≠ ctx))
    mxQueue := s.mxQueue.filter (fun c => decide (c.ctx ≠ ctx))
    mxRun := (match s.mxRun with | some r => if r.cmd.ctx = ctx then none else some r | none => none)
    lateCrws := if here then [] else s.lateCrws
    sendQueue := s.sendQueue.filter (fun c => decide (c.ctx ≠ ctx))
    sending := s.sending.filter (fun x => decide (x.contrib.ctx ≠ ctx))
    pending := dropReads (fun p => decide (p.ctx = ctx)) s.pending
    ovf := s.ovf.filter (fun e => decide (e.ctx ≠ ctx)) }

/-- FATAL_CONTEXT: `key`, a slice found no Active key slot or the Active slot was revoked; else an uncorrectable error in
context state. A context that has taken it takes nothing more. -/
def execFatalContext (ctx : BitVec 12) (key : Bool) (s : State) : Out :=
  event (do
    let s ← get
    if ctx = 0 then noSubject
    else if s.pk.fatals.contains ctx then pure ()
    else
      let s1 := errorStreams (stopContext s ctx) ctx
      let s2 := { s1 with pk := { s1.pk with fatals := s1.pk.fatals ++ [ctx] } }
      set (retireEpoch (emit s2 (.hostReport ctx (if key then 0x00 else 0x1C) (if key then 1 else 0))))) s

end Sys2Proof.Machine
end

