-- ==== Sys2Proof/Machine/Number.lean ====
section
/-! DEFINITION. Number formats and exact arithmetic: integers, binary floating point, block formats, rounding and
conversion (R152 to R161, R167, R273). -/
namespace Sys2Proof.Machine

/-! ### Exact values -/

/-- A decoded value: a NaN (signalling or not), an infinity, or (−1)^neg · m · 2^e, where m = 0 is a signed zero. -/
inductive Num where
  | nan (signalling : Bool)
  | inf (neg : Bool)
  | fin (neg : Bool) (m : Nat) (e : Int)
  deriving DecidableEq, Repr

/-- A floating-point format: exponent bits and fraction bits (R153 Table 1). -/
structure FloatFmt where
  ebits : Nat
  fbits : Nat
  deriving DecidableEq, Repr

def f32Fmt : FloatFmt := { ebits := 8, fbits := 23 }
def f16Fmt : FloatFmt := { ebits := 5, fbits := 10 }
def b16Fmt : FloatFmt := { ebits := 8, fbits := 7 }

def FloatFmt.width (f : FloatFmt) : Nat := 1 + f.ebits + f.fbits
def FloatFmt.bias (f : FloatFmt) : Nat := 2 ^ (f.ebits - 1) - 1
/-- The exponent field of infinities and NaNs. -/
def FloatFmt.top (f : FloatFmt) : Nat := 2 ^ f.ebits - 1
def FloatFmt.expOf (f : FloatFmt) (x : Nat) : Nat := x / 2 ^ f.fbits % 2 ^ f.ebits
def FloatFmt.fracOf (f : FloatFmt) (x : Nat) : Nat := x % 2 ^ f.fbits
def FloatFmt.signOf (f : FloatFmt) (x : Nat) : Bool := x.testBit (f.ebits + f.fbits)
/-- The canonical NaN (R153 Table 1). -/
def FloatFmt.qnan (f : FloatFmt) : Nat := f.top * 2 ^ f.fbits + 2 ^ (f.fbits - 1)
def FloatFmt.signBit (f : FloatFmt) (neg : Bool) : Nat := if neg then 2 ^ (f.ebits + f.fbits) else 0
def FloatFmt.infBits (f : FloatFmt) (neg : Bool) : Nat := f.signBit neg + f.top * 2 ^ f.fbits
def FloatFmt.maxBits (f : FloatFmt) (neg : Bool) : Nat :=
  f.signBit neg + (f.top - 1) * 2 ^ f.fbits + (2 ^ f.fbits - 1)

/-- Decodes a pattern (R153). -/
def decodeFloat (f : FloatFmt) (x : Nat) : Num :=
  let neg := f.signOf x
  let e := f.expOf x
  let m := f.fracOf x
  if e = f.top then (if m = 0 then .inf neg else .nan (!m.testBit (f.fbits - 1)))
  else if e = 0 then .fin neg m (1 - (f.bias : Int) - (f.fbits : Int))
  else .fin neg (m + 2 ^ f.fbits) ((e : Int) - (f.bias : Int) - (f.fbits : Int))

/-- A subnormal pattern. -/
def isSubnormal (f : FloatFmt) (x : Nat) : Bool := decide (f.expOf x = 0) && decide (f.fracOf x ≠ 0)

/-- DAZ (R156): a subnormal operand reads as zero of its sign. -/
def dazBits (f : FloatFmt) (daz : Bool) (x : Nat) : Nat :=
  if daz && isSubnormal f x then f.signBit (f.signOf x) else x

/-! ### Rounding -/

/-- Rounding modes (R155 Table 2). -/
inductive Rm where
  | rne
  | rtz
  | rup
  | rdn
  deriving DecidableEq, Repr

/-- Whether the magnitude goes up, given the kept value, where the rest lies against one half, and the sign. -/
def roundsUp (rm : Rm) (neg : Bool) (kept : Nat) (rest half : Nat) (sticky : Bool) : Bool :=
  let inexact := decide (rest ≠ 0) || sticky
  match rm with
  | .rne => decide (half < rest) || (decide (rest = half) && (sticky || decide (kept % 2 = 1)))
  | .rtz => false
  | .rup => inexact && !neg
  | .rdn => inexact && neg

/-- (m + δ) · 2^e in units of 2^q, rounded; δ is 0, or strictly between 0 and 1 when `sticky`. With `sticky`, e < q. -/
def roundUnits (rm : Rm) (neg : Bool) (m : Nat) (e : Int) (sticky : Bool) (q : Int) : Nat × Bool :=
  if q ≤ e then (m * 2 ^ (e - q).toNat, sticky)
  else
    let d := (q - e).toNat
    let kept := m / 2 ^ d
    let rest := m % 2 ^ d
    let up := roundsUp rm neg kept rest (2 ^ (d - 1)) sticky
    (if up then kept + 1 else kept, decide (rest ≠ 0) || sticky)

/-- Value given on overflow (R156). -/
def overflowBits (f : FloatFmt) (rm : Rm) (neg : Bool) : Nat :=
  match rm with
  | .rne => f.infBits neg
  | .rtz => f.maxBits neg
  | .rup => if neg then f.maxBits true else f.infBits false
  | .rdn => if neg then f.infBits true else f.maxBits false

/-- Exponent of the leading bit of a nonzero m · 2^e. -/
def topExp (m : Nat) (e : Int) : Int := e + (Nat.log2 m : Int)

/-- Rounds an exact value once to a format (R156): its pattern and its flags. Tininess is detected after rounding. -/
def roundFloat (f : FloatFmt) (rm : Rm) (ftz neg : Bool) (m : Nat) (e : Int) (sticky : Bool) : Nat × Nat :=
  if m = 0 then (f.signBit neg, 0)
  else
    let p : Int := f.fbits
    let emin : Int := 1 - f.bias
    let big := topExp m e
    let r1 := roundUnits rm neg m e sticky (big - p)
    let tiny := decide (big < emin) && !(decide (big = emin - 1) && decide (r1.1 = 2 ^ (f.fbits + 1)))
    if ftz && tiny then (f.signBit neg, orFlags flUnderflow flInexact)
    else
      let q := max (big - p) (emin - p)
      let r := roundUnits rm neg m e sticky q
      let pat := ((q - (emin - p)).toNat) * 2 ^ f.fbits + r.1
      if f.top * 2 ^ f.fbits ≤ pat then (overflowBits f rm neg, orFlags flOverflow flInexact)
      else (f.signBit neg + pat,
        if r.2 then (if tiny then orFlags flUnderflow flInexact else flInexact) else 0)

/-- Rounds an exact value to an integer: the magnitude and whether it changed. -/
def roundInteger (rm : Rm) (neg : Bool) (m : Nat) (e : Int) : Nat × Bool := roundUnits rm neg m e false 0

/-! ### FPMODE (R155) -/

def rmOf (mode : BitVec 4) : Rm :=
  match (mode.extractLsb' 0 2).toNat with
  | 0 => .rne | 1 => .rtz | 2 => .rup | _ => .rdn

def ftzOf (mode : BitVec 4) : Bool := mode.getLsbD 2
def dazOf (mode : BitVec 4) : Bool := mode.getLsbD 3

/-! ### Arithmetic (R154, R156, R157, R209, R247) -/

def Num.isNan : Num → Bool
  | .nan _ => true
  | _ => false

def Num.isSignalling : Num → Bool
  | .nan s => s
  | _ => false

/-- INVALID for a signalling NaN among the operands (R154). -/
def signalFlags (l : List Num) : Nat := if l.any Num.isSignalling then flInvalid else 0

/-- The NaN answer of operands one of which is a NaN. -/
def nanAnswer (f : FloatFmt) (l : List Num) : Nat × Nat := (f.qnan, signalFlags l)

def invalidAnswer (f : FloatFmt) : Nat × Nat := (f.qnan, flInvalid)

def signed (neg : Bool) (m : Nat) : Int := if neg then -(m : Int) else m

/-- The sum of two finite values as sign, magnitude, exponent; an exact zero of operands of opposite sign is +0, −0
under RDN (R209). -/
def addExact (rm : Rm) (n1 : Bool) (m1 : Nat) (e1 : Int) (n2 : Bool) (m2 : Nat) (e2 : Int) : Bool × Nat × Int :=
  let e := min e1 e2
  let z := signed n1 (m1 * 2 ^ (e1 - e).toNat) + signed n2 (m2 * 2 ^ (e2 - e).toNat)
  if z = 0 then ((if n1 = n2 then n1 else decide (rm = .rdn)), 0, e)
  else (decide (z < 0), z.natAbs, e)

def Num.negate : Num → Num
  | .nan s => .nan s
  | .inf n => .inf (!n)
  | .fin n m e => .fin (!n) m e

def addNum (f : FloatFmt) (mode : BitVec 4) (x y : Num) : Nat × Nat :=
  match x, y with
  | .nan _, _ => nanAnswer f [x, y]
  | _, .nan _ => nanAnswer f [x, y]
  | .inf a, .inf b => if a = b then (f.infBits a, 0) else invalidAnswer f
  | .inf a, _ => (f.infBits a, 0)
  | _, .inf b => (f.infBits b, 0)
  | .fin n1 m1 e1, .fin n2 m2 e2 =>
    let r := addExact (rmOf mode) n1 m1 e1 n2 m2 e2
    roundFloat f (rmOf mode) (ftzOf mode) r.1 r.2.1 r.2.2 false

def mulNum (f : FloatFmt) (mode : BitVec 4) (x y : Num) : Nat × Nat :=
  match x, y with
  | .nan _, _ => nanAnswer f [x, y]
  | _, .nan _ => nanAnswer f [x, y]
  | .inf a, .inf b => (f.infBits (a != b), 0)
  | .inf a, .fin b m _ => if m = 0 then invalidAnswer f else (f.infBits (a != b), 0)
  | .fin a m _, .inf b => if m = 0 then invalidAnswer f else (f.infBits (a != b), 0)
  | .fin n1 m1 e1, .fin n2 m2 e2 => roundFloat f (rmOf mode) (ftzOf mode) (n1 != n2) (m1 * m2) (e1 + e2) false

/-- x × y + z rounded once; INVALID for 0 × ∞ even with a quiet NaN addend (R209, R247). -/
def fmaNum (f : FloatFmt) (mode : BitVec 4) (x y z : Num) : Nat × Nat :=
  match x, y with
  | .nan _, _ => nanAnswer f [x, y, z]
  | _, .nan _ => nanAnswer f [x, y, z]
  | .inf a, .inf b => fmaInf f (a != b) z
  | .inf a, .fin b m _ => if m = 0 then invalidAnswer f else fmaInf f (a != b) z
  | .fin a m _, .inf b => if m = 0 then invalidAnswer f else fmaInf f (a != b) z
  | .fin n1 m1 e1, .fin n2 m2 e2 =>
    match z with
    | .nan _ => nanAnswer f [z]
    | .inf c => (f.infBits c, 0)
    | .fin n3 m3 e3 =>
      let r := addExact (rmOf mode) (n1 != n2) (m1 * m2) (e1 + e2) n3 m3 e3
      roundFloat f (rmOf mode) (ftzOf mode) r.1 r.2.1 r.2.2 false
where
  fmaInf (f : FloatFmt) (neg : Bool) (z : Num) : Nat × Nat :=
    match z with
    | .nan _ => nanAnswer f [z]
    | .inf c => if c = neg then (f.infBits neg, 0) else invalidAnswer f
    | .fin _ _ _ => (f.infBits neg, 0)

/-- Bits of the quotient and of the root beyond which only whether a rest remains matters. -/
def extraBits : Nat := 64

/-- Division; a finite nonzero value over zero gives an infinity and no flag (R209). -/
def divNum (f : FloatFmt) (mode : BitVec 4) (x y : Num) : Nat × Nat :=
  match x, y with
  | .nan _, _ => nanAnswer f [x, y]
  | _, .nan _ => nanAnswer f [x, y]
  | .inf _, .inf _ => invalidAnswer f
  | .inf a, .fin b _ _ => (f.infBits (a != b), 0)
  | .fin a _ _, .inf b => (f.signBit (a != b), 0)
  | .fin n1 m1 e1, .fin n2 m2 e2 =>
    if m2 = 0 then (if m1 = 0 then invalidAnswer f else (f.infBits (n1 != n2), 0))
    else
      let num := m1 * 2 ^ extraBits
      roundFloat f (rmOf mode) (ftzOf mode) (n1 != n2) (num / m2) (e1 - e2 - extraBits) (decide (num % m2 ≠ 0))

/-- The integer root, bit by bit from 2^(k-1). -/
def isqrtBits (n : Nat) : Nat → Nat → Nat
  | 0, r => r
  | k + 1, r => if (r + 2 ^ k) * (r + 2 ^ k) ≤ n then isqrtBits n k (r + 2 ^ k) else isqrtBits n k r

/-- Square root; √(−0) is −0, and a number below −0 is invalid (R209, R154). -/
def sqrtNum (f : FloatFmt) (mode : BitVec 4) (x : Num) : Nat × Nat :=
  match x with
  | .nan _ => nanAnswer f [x]
  | .inf n => if n then invalidAnswer f else (f.infBits false, 0)
  | .fin n m e =>
    if m = 0 then (f.signBit n, 0)
    else if n then invalidAnswer f
    else
      let odd := decide (e % 2 ≠ 0)
      let m1 := (if odd then m * 2 else m) * 2 ^ (2 * extraBits)
      let e1 := (if odd then e - 1 else e) / 2 - extraBits
      let r := isqrtBits m1 80 0
      roundFloat f (rmOf mode) (ftzOf mode) false r e1 (decide (r * r ≠ m1))

/-- Exact order of two values that are no NaNs; zeros of either sign are equal. -/
def numLt (x y : Num) : Bool :=
  match x, y with
  | .nan _, _ => false
  | _, .nan _ => false
  | .inf a, .inf b => a && !b
  | .inf a, .fin _ _ _ => a
  | .fin _ _ _, .inf b => !b
  | .fin n1 m1 e1, .fin n2 m2 e2 =>
    let e := min e1 e2
    decide (signed n1 (m1 * 2 ^ (e1 - e).toNat) < signed n2 (m2 * 2 ^ (e2 - e).toNat))

def numEq (x y : Num) : Bool := !x.isNan && !y.isNan && !numLt x y && !numLt y x

/-- FMIN and FMAX on patterns (R157): `big` for the maximum. -/
def minMaxFloat (f : FloatFmt) (mode : BitVec 4) (big : Bool) (x y : Nat) : Nat × Nat :=
  let a := dazBits f (dazOf mode) x
  let b := dazBits f (dazOf mode) y
  let na := decodeFloat f a
  let nb := decodeFloat f b
  let fl := signalFlags [na, nb]
  if na.isNan then (if nb.isNan then f.qnan else b, fl)
  else if nb.isNan then (a, fl)
  else
    let less := numLt na nb || (numEq na nb && f.signOf a && !f.signOf b)
    (if less then (if big then b else a) else (if big then a else b), fl)

/-- An operand as the arithmetic reads it: DAZ under FPMODE (R156). -/
def operand (f : FloatFmt) (mode : BitVec 4) (x : Nat) : Num :=
  decodeFloat f (dazBits f (dazOf mode) (x % 2 ^ f.width))

/-- Quiet comparisons (R210, R251). -/
def compareFloat (f : FloatFmt) (mode : BitVec 4) (rel : Num → Num → Bool) (x y : Nat) : Bool × Nat :=
  let a := operand f mode x
  let b := operand f mode y
  (rel a b, signalFlags [a, b])

def numLe (x y : Num) : Bool := numLt x y || numEq x y

/-- FCLASS (R211 Table 6): the bit of the class. -/
def classOf (f : FloatFmt) (x : Nat) : Nat :=
  let neg := f.signOf x
  match decodeFloat f x with
  | .nan s => if s then 8 else 9
  | .inf _ => if neg then 0 else 7
  | .fin _ m _ =>
    if m = 0 then (if neg then 3 else 4)
    else if isSubnormal f x then (if neg then 2 else 5)
    else if neg then 1 else 6

/-! ### Type codes (R181 Table 6) -/

/-- The floating-point format of codes 6, 7 and 8. -/
def floatOf (t : BitVec 4) : FloatFmt :=
  match t.toNat with
  | 6 => f16Fmt
  | 7 => b16Fmt
  | _ => f32Fmt

def isFloat (t : BitVec 4) : Bool := decide (6 ≤ t.toNat ∧ t.toNat ≤ 8)

/-- Width of a type; codes 9 and 10 are i64 and n64 in major 0x33. -/
def typeWidth (t : BitVec 4) : Nat :=
  match t.toNat with
  | 0 => 32 | 1 => 32 | 2 => 16 | 3 => 16 | 4 => 8 | 5 => 8 | 6 => 16 | 7 => 16 | 8 => 32 | _ => 64

/-- The signed integer types: i32, i16, i8, i64. -/
def isSignedType (t : BitVec 4) : Bool :=
  match t.toNat with
  | 0 => true | 2 => true | 4 => true | 9 => true | _ => false

/-- The value of an integer of a type. -/
def intValue (t : BitVec 4) (x : Nat) : Int :=
  if isSignedType t then signedOf (typeWidth t) x else ((x % 2 ^ typeWidth t : Nat) : Int)

/-! ### Conversions (R158, R213, R257) -/

/-- Integer to floating point: the exact value rounded. -/
def intToFloat (f : FloatFmt) (mode : BitVec 4) (z : Int) : Nat × Nat :=
  roundFloat f (rmOf mode) (ftzOf mode) (decide (z < 0)) z.natAbs 0 false

/-- Floating point to an integer of a type, modulo 2^width (R158). -/
def floatToInt (t : BitVec 4) (mode : BitVec 4) (x : Num) : Nat × Nat :=
  let n := typeWidth t
  if isSignedType t then
    let lim := 2 ^ (n - 1) - 1
    match x with
    | .nan _ => (2 ^ (n - 1), flInvalid)
    | .inf neg => (wrapInt n (signed neg lim), flInvalid)
    | .fin neg m e =>
      let r := roundInteger (rmOf mode) neg m e
      if lim < r.1 then (wrapInt n (signed neg lim), flInvalid)
      else (wrapInt n (signed neg r.1), if r.2 then flInexact else 0)
  else
    let lim := 2 ^ n - 1
    match x with
    | .nan _ => (0, flInvalid)
    | .inf neg => (if neg then 0 else lim, flInvalid)
    | .fin neg m e =>
      let r := roundInteger (rmOf mode) neg m e
      if neg && decide (r.1 ≠ 0) then (0, flInvalid)
      else if lim < r.1 then (lim, flInvalid)
      else (r.1, if r.2 then flInexact else 0)

/-- Floating point to floating point: the exact value rounded; a NaN becomes canonical. -/
def floatToFloat (g : FloatFmt) (mode : BitVec 4) (x : Num) : Nat × Nat :=
  match x with
  | .nan s => (g.qnan, if s then flInvalid else 0)
  | .inf n => (g.infBits n, 0)
  | .fin n m e => roundFloat g (rmOf mode) (ftzOf mode) n m e false

/-- A conversion between two types at least one of which is floating point: destination `u`, source `t`. A NaN
becomes the canonical NaN (R154); from a type to itself a quiet one stays as it is (R213, R257; log entry 20). -/
def convert (u t : BitVec 4) (mode : BitVec 4) (x : Nat) : Nat × Nat :=
  let y := x % 2 ^ typeWidth t
  if isFloat t then
    let v := operand (floatOf t) mode y
    if u = t ∧ v = .nan false then (y, 0)
    else if isFloat u then floatToFloat (floatOf u) mode v
    else floatToInt u mode v
  else intToFloat (floatOf u) mode (intValue t y)

/-- A result of a type extended to 64 bits: signed integers by their sign, all else by zeros (R208, R213). -/
def extendWord (t : BitVec 4) (x : Nat) : Word :=
  if isSignedType t then wordOfInt (signedOf (typeWidth t) x) else BitVec.ofNat 64 (x % 2 ^ typeWidth t)

/-! ### Block formats (R159 to R161) -/

/-- Value of mantissa `x` of m bits under exponent byte `e` (R159). -/
def blockNum (m : Nat) (e : Nat) (x : Nat) : Num :=
  if e = 255 then .nan false
  else
    let z := signedOf m x
    .fin (decide (z < 0)) z.natAbs ((e : Int) - 127 - ((m : Int) - 2))

/-- What a conversion into one block gives: mantissas, exponent byte, flags and saturations. -/
structure BlockOut where
  mants : List Nat
  expo : Nat
  flags : Nat
  sats : Nat
  deriving DecidableEq, Repr

def Num.isBad : Num → Bool
  | .fin _ _ _ => false
  | _ => true

/-- floor(log2 |x|) of a nonzero finite value. -/
def Num.log2 : Num → Option Int
  | .fin _ m e => if m = 0 then none else some (topExp m e)
  | _ => none

/-- The largest exponent among the values; none when all are zero. -/
def maxLog : List Num → Option Int
  | [] => none
  | x :: r =>
    match x.log2, maxLog r with
    | none, k => k
    | some a, none => some a
    | some a, some b => some (max a b)

/-- One element of a block: mantissa modulo 2^m, flags, saturations. -/
def blockElem (m : Nat) (scale : Int) (x : Num) : Nat × Nat × Nat :=
  match x with
  | .fin neg k e =>
    let r := roundInteger .rne neg k (e - scale)
    let lim := 2 ^ (m - 1) - 1
    let f1 := if r.2 then flInexact else 0
    let f2 := if r.1 = 0 ∧ k ≠ 0 then flUnderflow else 0
    let f3 := if lim < r.1 then flSat else 0
    (wrapInt m (signed neg (min r.1 lim)), orFlags f1 (orFlags f2 f3), if lim < r.1 then 1 else 0)
  | _ => (0, 0, 0)

/-- Conversion of 32 exact values into one BXm block (R161). -/
def toBlock (m : Nat) (xs : List Num) : BlockOut :=
  if xs.any Num.isBad then
    { mants := xs.map (fun _ => 0), expo := 255,
      flags := if xs.any (fun x => match x with | .inf _ => true | .nan s => s | _ => false) then flInvalid else 0,
      sats := 0 }
  else match maxLog xs with
    | none => { mants := xs.map (fun _ => 0), expo := 0, flags := 0, sats := 0 }
    | some k =>
      let e := (min (max (k + 127) 0) 254).toNat
      let rs := xs.map (blockElem m ((e : Int) - 127 - ((m : Int) - 2)))
      { mants := rs.map (·.1), expo := e, flags := rs.foldl (fun f r => orFlags f r.2.1) 0,
        sats := natSum (rs.map (·.2.2)) }

/-- Packs elements of w bits, the first least significant (R142, R159). -/
def packBits (w : Nat) : List Nat → Nat
  | [] => 0
  | x :: r => x % 2 ^ w + 2 ^ w * packBits w r

/-- Elements of w bits, n of them. -/
def unpackBits (w : Nat) (x : Nat) (n : Nat) : List Nat := (List.range n).map (fun i => x / 2 ^ (w * i) % 2 ^ w)

end Sys2Proof.Machine
end

