-- ==== Sys2Proof/Machine/Chains.lean ====
section
/-! DEFINITION. The accumulate network: chains, contributions, flits at the head and at the sender (R287 to R303). -/
namespace Sys2Proof.Machine

/-! ### Chain entries (R287, R301 Table 4) -/

def chainAt (cx : CtxState) (n : Nat) : Chain := vget cx.chains n Chain.idle

def putChain (cx : CtxState) (n : Nat) (c : Chain) : CtxState := { cx with chains := vset cx.chains n c }

/-- A flit parked for chain `n` of a context (R296). -/
def flitFor (ctx : BitVec 12) (n : Nat) (e : OvfEntry) : Bool :=
  decide (e.ctx = ctx) && (match e.item with | .flit f => decide (f.chain.toNat = n) | _ => false)

/-- The status word as it reads: the bits armed and parked follow the state. -/
def chainStatus (s : State) (cx : CtxState) (n : Nat) : Word :=
  let c := chainAt cx n
  putField (putField c.status 35 1 c.armed.toNat) 41 1 (s.ovf.any (flitFor cx.num n)).toNat

def orBit (w : Word) (k : Nat) : Word := w ||| BitVec.twoPow 64 k

/-- SAT and fflags of a status word, as NUMSUM.flags takes them (R299). -/
def statusFlags (w : Word) : Nat := field w 42 5 ||| (if w.getLsbD 36 then flSat else 0)

/-! ### Addition (R291, R292) -/

/-- The code that stands for poison: −2^127. -/
def poisonCode : Nat := 2 ^ 127

/-- sat128 (R152): to −(2^127 − 1) and 2^127 − 1. -/
def sat128 (z : Int) : Int := max (-(2 ^ 127 - 1)) (min (2 ^ 127 - 1) z)

/-- One WIDE addition: the new element and status word. -/
def addWide (l : Nat) (x : Int) (p : Bool) (w : Word) : Nat × Word :=
  if l = poisonCode ∨ p = true then (poisonCode, orBit w 37)
  else
    let z := signedOf 128 l + x
    if z = sat128 z then (wrapInt 128 z, w)
    else (wrapInt 128 (sat128 z), putField (orBit w 36) 48 16 (satAdd 0xFFFF (field w 48 16) 1))

/-- One 32-bit addition by mode (R291 Table 2): RNE, neither DAZ nor FTZ. -/
def addNarrow (mode : BitVec 3) (l x : Nat) (w : Word) : Nat × Word :=
  let fl := fun (r : Nat × Nat) => (r.1, w ||| BitVec.ofNat 64 (r.2 % 32 * 2 ^ 42))
  match mode.toNat with
  | 1 => fl (addNum f32Fmt 0 (decodeFloat f32Fmt l) (decodeFloat f32Fmt x))
  | 2 => ((l + x) % 2 ^ 32, w)
  | 3 => fl (minMaxFloat f32Fmt 0 true l x)
  | _ => (l ||| x, w)

/-- Adds one element of a flit into landing element `k`. -/
def addElem (c : Chain) (wide : Bool) (m : Mem) (w : Word) (k : Nat) (x : BitVec 128) (p : Bool) : Mem × Word :=
  if c.count.toNat ≤ k then (m, orBit w 40)
  else if c.mode = 0 then
    let a := c.base.toNat + 16 * k
    let r := addWide (leNat (memBytes m a 16)) (if wide then x.toInt else signedOf 32 x.toNat) (wide && p) w
    (memWrite m a (leBytes 16 r.1), r.2)
  else
    let a := c.base.toNat + 4 * k
    let r := addNarrow c.mode (leNat (memBytes m a 4)) (x.toNat % 2 ^ 32) w
    (memWrite m a (leBytes 4 r.1), r.2)

/-- Elements from index `k` on, with their poison bits. -/
def addElems (c : Chain) (wide : Bool) : Mem → Word → Nat → List (BitVec 128) → List Bool → Mem × Word
  | m, w, _, [], _ => (m, w)
  | m, w, k, x :: r, ps =>
    let q := addElem c wide m w k x (ps.headD false)
    addElems c wide q.1 q.2 (k + 1) r (ps.drop 1)

/-- The anchor of the first ASEND flit is kept; another one sets MIXED (R292). -/
def noteAnchor (c : Chain) (f : Flit) : Chain :=
  if f.wide then
    match c.anchor with
    | none => { c with anchor := some f.anchor }
    | some a => if a = f.anchor then c else { c with status := orBit c.status 38 }
  else c

/-- The announcement payload (R299 Table 6). -/
def announcePayload (s : State) (cx : CtxState) (n : Nat) : List Byte :=
  let c := chainAt cx n
  takePad 48 (leBytes 8 (mkVa 1 s.pkg s.core c.base.toNat).toNat ++ leBytes 8 (chainStatus s cx n).toNat ++
    leBytes 1 n ++ leBytes 1 0 ++ leBytes 2 (c.anchor.getD 0).toNat)

/-- The release of a complete chain, its stores performed: steps 2 to 4 of R299. The text gives the accumulate unit no
observation table: X of the record is a free choice. -/
def closeChain (s : State) (n : Nat) : State :=
  let c := chainAt s.cx n
  let s1 := { s with cx := putChain s.cx n { c with armed := false, closing := none }, fresh := s.fresh + 1 }
  let p := publish s1 (Config.choice s.fresh)
  let s2 := if c.akind.getLsbD 0 then
      sendFrom p.1 p.1.cx s.core s.pkg c.achan kindAnnounce (announcePayload p.1 p.1.cx n) p.1.cx.num (some p.2)
    else p.1
  if c.akind.getLsbD 1 then
    { s2 with cx := { s2.cx with sram := arriveAt s2.cx.sram c.boff.toNat Arrival.plain } }
  else s2

/-- The chain is complete (R299): its flags are folded, and its release waits for the stores in the store buffer (R85
step 2). Until the release the chain stays ARMED, and a flit of a further contribution that lands meanwhile is added (log
entry 173, DESIGN CHOICE). -/
def completeChain (s : State) (n : Nat) : State :=
  let c := chainAt s.cx n
  let s1 := { s with cx := putChain (orNumsum s.cx (statusFlags c.status)) n { c with closing := some s.sb.length } }
  if s.sb.isEmpty then closeChain s1 n else s1

/-- A store has been performed: a complete chain that has waited for the last of its stores is released. -/
def chainsAfterStore (s : State) : State :=
  (List.range 32).foldl (fun s n =>
    let c := chainAt s.cx n
    match c.closing with
    | none => s
    | some k =>
      if k ≤ 1 then closeChain s n else { s with cx := putChain s.cx n { c with closing := some (k - 1) } }) s

/-- A landing element that the flit adds to cannot be corrected (R302). -/
def lostLanding (s : State) (f : Flit) : Bool :=
  let c := chainAt s.cx f.chain.toNat
  let e := if c.mode = 0 then 16 else 4
  let n := min f.elems.length (c.count.toNat - f.eidx.toNat)
  decide (0 < n) && !(f.wide && decide (c.mode ≠ 0)) && badWord s.cx (c.base.toNat + e * f.eidx.toNat) (e * n)

/-- A flit is added to an armed chain of the resident context, and counted if it is the last of its contribution
(R291); a landing element that is lost ends the context (R302). -/
def addFlit (s : State) (f : Flit) : State :=
  let n := f.chain.toNat
  let c := chainAt s.cx n
  if lostLanding s f then endContext s s.cx.num false else
  let c1 := noteAnchor c f
  let r := if f.wide && decide (c.mode ≠ 0) then (s.cx.sram, { c1 with status := orBit c1.status 39 })
    else
      let q := addElems c1 f.wide s.cx.sram c1.status f.eidx.toNat f.elems f.poison
      (q.1, { c1 with status := q.2 })
  let count := field r.2.status 0 16 + (if f.last then 1 else 0)
  let c2 := { r.2 with status := putField r.2.status 0 16 count }
  let s1 := { s with cx := putChain { s.cx with sram := r.1 } n c2 }
  if f.last && decide (count = field c2.status 16 16) then completeChain s1 n else s1

/-- Parked flits of a chain are replayed in park order while it stays armed (R33, R289, R302). -/
def replayFlits (s : State) (n : Nat) : Nat → State
  | 0 => s
  | fuel + 1 =>
    if (chainAt s.cx n).armed then
      match s.ovf.find? (flitFor s.cx.num n) with
      | some e =>
        match e.item, readEntry s e with
        | .flit _, .inl s1 => s1
        | .flit f, .inr s1 => replayFlits (addFlit s1 f) n fuel
        | _, _ => s
      | none => s
    else s

/-! ### ACHAIN, ADISARM, ATEST (R289, R300, R301) -/

/-- Fields of the arming descriptor (R289 Table 1). -/
structure ArmDesc where
  expected : Nat
  achan : BitVec 6
  akind : BitVec 2
  boff : Nat
  ok : Bool
  deriving DecidableEq, Repr

def armDesc (w : Word) : ArmDesc :=
  { expected := field w 0 16, achan := w.extractLsb' 16 6, akind := w.extractLsb' 22 2, boff := field w 24 22,
    ok := decide (field w 46 18 = 0 ∧ field w 0 16 ≠ 0) && (!w.getLsbD 23 || decide (field w 24 22 % 32 = 0)) }

/-- A scratchpad range overlaps what an arming may not (R289 check 5). -/
def armOverlap (s : State) (off n : Nat) : Bool :=
  inArmed s.cx off n || onMatrixHold s off n true || inSched s.cx off n ||
    overlaps off n (s.cx.spillbase.toNat * 256) (s.cx.spilllim.toNat * 256 - s.cx.spillbase.toNat * 256)

/-- The checks of R289 on the range; its bytes. -/
def checkLanding (x : Cap) (esize : Nat) : Eff Nat := do
  let s ← get
  let t ← theTask
  let va := capAddr x
  let n := capTop x - va.toNat
  if foreignStore s t.ctx va n then trapWith .foreignStore 0 va else pure ()
  checkAccess { cap := x, va := va, len := n, perms := [permST], align := esize, store := false }
    (if ownSram s va then none else some dtlNotScratchpad)
  operandLimit (decide (n % esize = 0 ∧ 1 ≤ n / esize ∧ n / esize ≤ 16384))
  pure n

def execAchain (c b : BitVec 5) (m : BitVec 1) (n : BitVec 5) (o : BitVec 3) (s : State) : Out :=
  issueSeq (do
    let y ← readSrc b (marked m 0)
    let x ← readCap c
    let d := armDesc y
    let va := capAddr x
    let esize := if o = 0 then 16 else 4
    operandLimit d.ok
    let len ← checkLanding x esize
    let s ← get
    if d.akind.getLsbD 1 ∧ scratchEnd s.cx < d.boff + 32 then
      trapWith .pagePerm dtlNotScratchpad (mkVa 1 s.pkg s.core d.boff)
    else pure ()
    if (chainAt s.cx n.toNat).armed then trapWith .chainConflict 1 else pure ()
    if armOverlap s (vaOff va) len || (d.akind.getLsbD 1 && armOverlap s d.boff 32) then trapWith .chainConflict 2
    else pure ()
    if onScoreboard s va len then holdOther else pure ()
    needDrained
    let k : Chain :=
      { armed := true, mode := o, base := BitVec.ofNat 22 (vaOff va), count := BitVec.ofNat 15 (len / esize),
        achan := d.achan, akind := d.akind, boff := BitVec.ofNat 22 d.boff, anchor := none, closing := none,
        status := BitVec.ofNat 64 (d.expected * 2 ^ 16 + o.toNat * 2 ^ 32) }
    let s1 := { s with cx := putChain s.cx n.toNat k }
    if badWord s.cx (vaOff va) len then set (endContext s1 s.cx.num false)
    else set (replayFlits s1 n.toNat s.ovf.length)) s

def execAdisarm (n : BitVec 5) (s : State) : Out :=
  issueSeq (do
    let s ← get
    let c := chainAt s.cx n.toNat
    if !c.armed then trapWith .chainNotArmed n.toNat
    else set { s with cx := putChain (orNumsum s.cx (statusFlags c.status)) n.toNat { c with armed := false, closing := none },
                      ovf := s.ovf.filter (fun e => !flitFor s.cx.num n.toNat e) }) s

def execAtest (d : BitVec 5) (m : BitVec 1) (n : BitVec 5) (s : State) : Out :=
  issueSeq (do
    let s ← get
    writeDst d (marked m 0) (chainStatus s s.cx n.toNat)) s

/-! ### ASEND and AVSEND (R293, R294) -/

/-- Fields of the send descriptor (R293 Table 3). -/
structure ChainDesc where
  chain : BitVec 5
  core : BitVec 10
  pkg : BitVec 9
  row0 : BitVec 7
  nrm1 : BitVec 7
  eidx : BitVec 14
  ok : Bool
  deriving DecidableEq, Repr

/-- The fields of a send descriptor. A package number of 432 to 511 is no reserved value: it names no package, so that the head
cannot be reached (ENDPOINT; log entry 179, DESIGN CHOICE). -/
def chainDesc (w : Word) : ChainDesc :=
  { chain := w.extractLsb' 0 5, core := w.extractLsb' 5 10, pkg := w.extractLsb' 15 9, row0 := w.extractLsb' 24 7,
    nrm1 := w.extractLsb' 31 7, eidx := w.extractLsb' 38 14, ok := decide (field w 52 12 = 0) }

/-- The checks of R294 and the staging. `wide`: it is an ASEND. -/
def stageContrib (d : ChainDesc) (rows : Option (Bool × BitVec 7 × BitVec 7)) (lanes : List (BitVec 32)) : Eff Unit := do
  let s ← get
  let t ← theTask
  match headContext s s.cx d.pkg d.core with
  | none => trapWith .endpoint 0
  | some dctx => do
    let own := decide (d.pkg = s.pkg ∧ d.core = s.core)
    let c := chainAt s.cx d.chain.toNat
    if own && !c.armed then trapWith .chainNotArmed d.chain.toNat else pure ()
    if own && rows.isSome && decide (c.mode ≠ 0) then trapWith .chainConflict 3 else pure ()
    needStage
    let k : Contrib :=
      { num := s.nextId, tid := t.tid, ctx := t.ctx, chain := d.chain, hpkg := d.pkg, hcore := d.core, dctx := dctx,
        eidx := d.eidx, rows := rows, lanes := lanes, after := s.mxPushed }
    set { s with nextId := s.nextId + 1 }
    modTask (fun t => { t with staged := t.staged ++ [.contrib k] })

def execAsend (a : BitVec 5) (m w : BitVec 1) (s : State) : Out :=
  issueSeq (do
    let x ← readSrc a (marked m 0)
    let d := chainDesc x
    operandLimit (d.ok && decide (d.row0.toNat + d.nrm1.toNat < 128))
    stageContrib d (some (decide (w = 1), d.row0, d.nrm1)) []) s

def execAvsend (a v : BitVec 5) (m : BitVec 1) (s : State) : Out :=
  issueSeq (do
    let x ← readSrc a (marked m 0)
    let d := chainDesc x
    operandLimit (d.ok && decide (d.row0 = 0) && decide (d.nrm1 = 0))
    let t ← theTask
    stageContrib d none ((List.range 64).map (fun i => (vecVal t v).extractLsb' (32 * i) 32))) s

/-! ### The send engine (R295, R297, R298) -/

def contribId (s : State) (c : Contrib) : ContribId := { pkg := s.pkg, core := s.core, num := c.num }

/-- Element (i, j) of accumulator `n`. -/
def accElem (cx : CtxState) (n : Bool) (i j : Nat) : Acc :=
  sparseGet { w := 0, p := false } (vget cx.accs n.toNat []) (64 * i + j)

/-- Numbers of the words of tiles, or elements of accumulators, that cannot be corrected. -/
def lostNumbers (m : Sparse SectorHealth) : List Nat :=
  (m.filter (fun p => decide (p.2 = .uncorrectable))).map (·.1)

/-- The number of an accumulator element among those of both. -/
def accNo (n : Bool) (p : Nat × Nat) : Nat := 8192 * n.toNat + 64 * p.1 + p.2

/-- Some element of accumulator `n` that `q` names is lost. -/
def lostAcc (s : State) (n : Bool) (q : Nat → Bool) : Bool :=
  (lostNumbers s.cx.accErr).any (fun k => decide (k / 8192 = n.toNat) && q k)

/-- An element that an ASEND sends is lost (R285). -/
def lostRows (s : State) (c : Contrib) : Bool :=
  match c.rows with
  | some (n, row0, nrm1) =>
    lostAcc s n (fun k => decide (row0.toNat ≤ k % 8192 / 64 ∧ k % 8192 / 64 ≤ row0.toNat + nrm1.toNat))
  | none => false

/-- Flit `k` of an ASEND: two elements of a row. -/
def rowFlit (s : State) (c : Contrib) (n : Bool) (row0 nrows k : Nat) : Flit :=
  let e := fun j => accElem s.cx n (row0 + k / 32) (2 * (k % 32) + j)
  { contrib := contribId s c, seq := k, sctx := c.ctx, dctx := c.dctx, chain := c.chain,
    eidx := BitVec.ofNat 16 (c.eidx.toNat + 2 * k), wide := true, elems := [(e 0).w, (e 1).w],
    poison := [(e 0).p, (e 1).p], anchor := (vget s.cx.wctl n.toNat 0).extractLsb' 0 16,
    last := decide (k + 1 = 32 * nrows) }

/-- Flit `k` of eight lanes. -/
def laneFlit (s : State) (c : Contrib) (k : Nat) : Flit :=
  { contrib := contribId s c, seq := k, sctx := c.ctx, dctx := c.dctx, chain := c.chain,
    eidx := BitVec.ofNat 16 (c.eidx.toNat + 8 * k), wide := false,
    elems := ((c.lanes.drop (8 * k)).take 8).map (fun x => x.setWidth 128), poison := [], anchor := 0,
    last := decide (c.lanes.length ≤ 8 * (k + 1)) }

/-- Every flit of a contribution, in order (R293). -/
def flitsOf (s : State) (c : Contrib) : List Flit :=
  match c.rows with
  | some (n, row0, nrm1) =>
    (List.range (32 * (nrm1.toNat + 1))).map (rowFlit s c n row0.toNat (nrm1.toNat + 1))
  | none => (List.range ((c.lanes.length + 7) / 8)).map (laneFlit s c)

/-- Flits that may stand unacknowledged (R298). -/
def replayDepth : Nat := 64

/-- A flit leaves for its head. -/
def emitFlit (s : State) (c : Contrib) (f : Flit) : State :=
  if c.hpkg = s.pkg ∧ c.hcore = s.core then queueEvent s (.accumulateFlit f) else emit s (.flit f c.hpkg c.hcore)

/-- The first sequence number beyond the replay window of a sending. -/
def windowEnd (x : Sending) : Nat :=
  match x.flits.head? with
  | some f => f.seq + replayDepth
  | none => 0

/-- Sends what the window lets through. -/
def pumpFlits (s : State) (x : Sending) : State × Sending :=
  let out := x.flits.filter (fun f => decide (x.next ≤ f.seq ∧ f.seq < windowEnd x))
  (out.foldl (fun s f => emitFlit s x.contrib f) s, { x with next := max x.next (x.next + out.length) })

def findSending (s : State) (num : Nat) : Option Sending := s.sending.find? (fun x => decide (x.contrib.num = num))

def dropSending (s : State) (num : Nat) : State :=
  { s with sending := s.sending.filter (fun x => decide (x.contrib.num ≠ num)) }

/-- CHAIN_ABSENT to the sending context (R297, R354). -/
def refuseContrib (s : State) (c : Contrib) : State :=
  reportIn s c.ctx (reportPayload 0x10 4 0 0 0 (BitVec.ofNat 32 c.chain.toNat) 0 0
    (leBytes 1 c.chain.toNat ++ leBytes 1 0 ++ leBytes 2 c.eidx.toNat ++
      leBytes 4 (c.hcore.toNat + c.hpkg.toNat * 2 ^ 10)))

/-- Every command numbered below `n` is complete. -/
def commandsDone (s : State) (n : Nat) : Bool :=
  s.mxQueue.all (fun c => decide (n ≤ c.num)) &&
    (match s.mxRun with | some r => decide (n ≤ r.cmd.num) | none => true)

/-- ACCUMULATE_SEND_START: once the commands that were pushed before it are complete, the engine reads the first
contribution of its queue. Toward a package that has been fenced off it is refused (R370). -/
def execAccumulateSendStart (s : State) : Out :=
  event (do
    let s ← get
    match s.sendQueue with
    | [] => noSubject
    | c :: r =>
      if !s.sending.isEmpty then noSubject
      else if c.rows.isSome = true ∧ commandsDone s c.after = false then holdOther
      else if lostRows s c then set (endContext s c.ctx false)
      else if !packagePresent s c.hpkg then set (refuseContrib { s with sendQueue := r } c)
      else
        let x : Sending := { contrib := c, flits := flitsOf s c, next := 0 }
        let p := pumpFlits { s with sendQueue := r } x
        set { p.1 with sending := p.1.sending ++ [p.2] }) s

/-- FLIT_ACK: the flit leaves the replay buffer, and the window moves on. -/
def execFlitAck (num seq : Nat) (s : State) : Out :=
  event (do
    let s ← get
    match findSending s num with
    | none => noSubject
    | some x =>
      let y := { x with flits := x.flits.filter (fun f => decide (f.seq ≠ seq)) }
      let s1 := dropSending s num
      if y.flits.isEmpty then set s1
      else
        let p := pumpFlits s1 y
        set { p.1 with sending := p.1.sending ++ [p.2] }) s

/-- FLIT_RESEND_REQUEST: again, in order, from the named flit. -/
def execFlitResendRequest (num seq : Nat) (s : State) : Out :=
  event (do
    let s ← get
    match findSending s num with
    | none => noSubject
    | some x =>
      set ((x.flits.filter (fun f => decide (seq ≤ f.seq ∧ f.seq < x.next))).foldl (fun s f => emitFlit s x.contrib f) s)) s

/-- FLIT_REFUSAL: nothing further of the contribution is sent (R297). -/
def execFlitRefusal (num : Nat) (s : State) : Out :=
  event (do
    let s ← get
    match findSending s num with
    | none => noSubject
    | some x => set (refuseContrib (dropSending s num) x.contrib)) s

/-! ### Flits at the head (R290, R296, R298) -/

/-- How the head answers a flit. -/
inductive FlitAnswer where
  | ack (parked : Bool)
  | resend
  | refuse
  deriving DecidableEq, Repr

/-- Codes of the answers on the wire (MODEL): 0 acknowledged, 1 resend from `seq`, 2 refused. -/
def FlitAnswer.code : FlitAnswer → BitVec 2
  | .ack _ => 0
  | .resend => 1
  | .refuse => 2

/-- The answer goes to the sender: to this core's own engine, or its amax drain, as an event of its own. -/
def answerFlit (s : State) (f : Flit) (seq : Nat) (a : FlitAnswer) : State :=
  if f.contrib.pkg = s.pkg ∧ f.contrib.core = s.core then
    if (findSending s f.contrib.num).isSome then
      queueEvent s (match a with
        | .ack _ => .flitAck f.contrib.num seq
        | .resend => .flitResendRequest f.contrib.num seq
        | .refuse => .flitRefusal f.contrib.num)
    else match s.mxRun with
      | some r =>
        if r.awaiting then
          queueEvent s (.amaxAnswer (match a with | .ack p => (if p then .parked else .added) | _ => .refused))
        else s
      | none => s
  else emit s (.flitAnswer f.contrib seq a.code)

/-- The next flit expected of a contribution. -/
def expectedFlit (s : State) (c : ContribId) : Nat :=
  match s.flitNext.find? (fun p => decide (p.1 = c)) with
  | some p => p.2
  | none => 0

def noteFlit (s : State) (c : ContribId) (n : Nat) : State :=
  { s with flitNext := s.flitNext.filter (fun p => decide (p.1 ≠ c)) ++ [(c, n)] }

/-- A flit in sequence: added, parked or refused (R291, R296, R297, R413). -/
def placeFlit (s : State) (f : Flit) : State × FlitAnswer :=
  match findCtx s f.dctx with
  | none => (s, .refuse)
  | some cx =>
    let n := f.chain.toNat
    if cx.num = s.cx.num ∧ cx.residency = .resident ∧ (chainAt cx n).armed = true ∧ s.ovf.any (flitFor cx.num n) = false then
      (addFlit s f, .ack false)
    else match park s cx.num (.flit f) with
      | some s1 => (s1, .ack true)
      | none => (s, .refuse)

/-- The head has refused a flit of the contribution: what else comes of it is discarded, and it is never counted
(R297). -/
def noteRefused (s : State) (c : ContribId) (a : FlitAnswer) : State :=
  if a = .refuse then { s with flitRefused := s.flitRefused ++ [c] } else s

/-- ACCUMULATE_FLIT. One that comes ahead is discarded and asked for again; one that was taken already is
acknowledged again. From a fenced package it is discarded at the boundary; for a context that has taken FATAL-CONTEXT
it is discarded and the sender goes on. -/
def execAccumulateFlit (flit : Flit) (s : State) : Out :=
  event (do
    let s ← get
    let want := expectedFlit s flit.contrib
    if fencedOff s flit.contrib.pkg || s.flitRefused.contains flit.contrib then pure ()
    else if want < flit.seq then set (answerFlit s flit want .resend)
    else if flit.seq < want then set (answerFlit s flit flit.seq (.ack false))
    else if s.pk.fatals.contains flit.dctx then
      set (answerFlit (noteFlit s flit.contrib (want + 1)) flit flit.seq (.ack false))
    else
      let p := placeFlit (noteFlit s flit.contrib (want + 1)) flit
      set (answerFlit (noteRefused p.1 flit.contrib p.2) flit flit.seq p.2)) s

/-! ### The oldest entry of the store buffer (R76) -/

/-- STORE_PERFORMED: the oldest entry, after the fills of its lines that are under way (R65). A store to a host window
leaves for the host agent (R375, R386); an atomic there is performed by HOST_ATOMIC. -/
def execStorePerformed (s : State) : Out :=
  event (do
    let s ← get
    match s.sb with
    | [] => noSubject
    | e :: r =>
      if filling s e.ctx e.va (sbLen e) && e.loc.isSome then holdOther
      else match e.loc, e.kind with
      | some l, _ => set (chainsAfterStore (performAt { s with sb := r } e l))
      | none, .data bs _ => set (chainsAfterStore (emit { s with sb := r } (.hostStore e.ctx e.va bs (hostStream s e.ctx))))
      | none, .seq v => set (chainsAfterStore (emit { s with sb := r } (.hostStore e.ctx e.va (leBytes 8 v.toNat) (hostStream s e.ctx))))
      | none, .cap c => set (chainsAfterStore (emit { s with sb := r } (.hostStore e.ctx e.va (leBytes 16 c.bits.toNat) (hostStream s e.ctx))))
      | none, _ => noSubject) s

/-- HOST_ATOMIC: the host agent performs the oldest entry on the host line `q.line` and answers with the value that it
read (R378): by the link's native atomic where the window says so, else computed by the agent, which then writes what
R229 writes. -/
def execHostAtomic (q : HostAtomic) (s : State) : Out :=
  event (do
    let s ← get
    match s.sb with
    | [] => noSubject
    | e :: r =>
      match e.loc, e.kind with
      | none, .amo op wide y expected id =>
        let n := if wide then 8 else 4
        let x := q.line.toNat / 2 ^ (e.va.toNat % 64 * 8) % 2 ^ (8 * n)
        let s1 := { s with sb := r }
        let m := hostStream s e.ctx
        let native := match windowAt s e.ctx e.va with | some w => w.regB.getLsbD 31 | none => false
        let s2 :=
          if native then emit s1 (.hostAtomic id e.va op wide y expected m)
          else if amoWrites op x (expected.toNat % 2 ^ (8 * n)) then
            emit s1 (.hostStore e.ctx e.va (leBytes n (amoNew (8 * n) op x (y.toNat % 2 ^ (8 * n)))) m)
          else s1
        set (chainsAfterStore (answerAtomic s2 id (BitVec.ofNat 64 x)))
      | _, _ => noSubject) s

end Sys2Proof.Machine
end

