-- ==== Sys2Proof/WellFormed.lean ====
section
/-! DEFINITION. When the fields of an instruction are well formed for a stream: reserved field values (R175, R176,
R180, R181, R246) and queue marks (R135). -/
namespace Sys2Proof

/-- Which streams a major belongs to (R177 Table 2). -/
inductive MajorKind where
  | both
  | only (st : Stream)
  deriving DecidableEq, Repr

/-- The stream of a major; none where it is unallocated (R177 Table 2). -/
def majorKind (m : BitVec 6) : Option MajorKind :=
  let n := m.toNat
  if 1 ≤ n ∧ n ≤ 0x1A then some .both
  else if 0x20 ≤ n ∧ n ≤ 0x2E then some (.only .A)
  else if (0x30 ≤ n ∧ n ≤ 0x33) ∨ (0x3A ≤ n ∧ n ≤ 0x3C) then some (.only .E)
  else none

/-- A field marked as a queue port (R135): destination or source, and the port it holds. -/
structure Mark where
  dest : Bool
  port : BitVec 5
  deriving DecidableEq, Repr

/-- Bit `k` of the mark field marks the register field `r`. -/
def mark {n : Nat} (q : BitVec n) (k : Nat) (dest : Bool) (r : BitVec 5) : List Mark :=
  if q.getLsbD k then [{ dest := dest, port := r }] else []

/-- LDQ names a port, except at size `.v`, which names `vlq` (R180). -/
def ldqMark (s : BitVec 3) (d : BitVec 5) : List Mark :=
  if s = 4#3 then [] else [{ dest := true, port := d }]

/-- STQ names a port, except at size `.v`, which names `vsq` (R180). -/
def stqMark (s : BitVec 3) (v : BitVec 5) : List Mark :=
  if s = 4#3 then [] else [{ dest := false, port := v }]

/-- A mark of the wrong direction: stream A pushes ports 0 to 3 and pops 4 and 5, stream E the reverse (R134, R135). -/
def markDirBad (st : Stream) (k : Mark) : Bool :=
  let lq := decide (k.port.toNat < 4)
  match st with
  | .A => if k.dest then !lq else lq
  | .E => if k.dest then lq else !lq

/-- A field that names a `c` register holds 0 to 15 (R176). -/
def isCap (c : BitVec 5) : Bool := decide (c.toNat < 16)

/-- The last register that may begin a block (R178). -/
def blockOk (b : BitVec 5) (last : Nat) : Bool := decide (b.toNat ≤ last)

/-- Sizes of LD and ST: `.b` to `.d`, and no z with `.d` (R180). -/
def loadSize (s : BitVec 3) (z : BitVec 1) : Bool :=
  decide (s.toNat ≤ 3) && (decide (z = 0#1) || decide (s.toNat ≤ 2))

/-- Sizes of LDQ and STQ: `.b` to `.d`, or `.v` with a register field of 0 (R180). -/
def queueSize (s : BitVec 3) (z : BitVec 1) (r : BitVec 5) : Bool :=
  loadSize s z || (decide (s = 4#3) && decide (z = 0#1) && decide (r = 0#5))

/-- Codes 0x0 to 0x5: the integer lane types (R181 Table 6). -/
def isIntLane (t : BitVec 4) : Bool := decide (t.toNat ≤ 5)
/-- `i32`, `i16`, `i8`. -/
def isSignedLane (t : BitVec 4) : Bool := decide (t = 0#4) || decide (t = 2#4) || decide (t = 4#4)
/-- `f16`, `b16`, `f32`. -/
def isFloatType (t : BitVec 4) : Bool := decide (6 ≤ t.toNat ∧ t.toNat ≤ 8)
/-- The lane types of VADD (R246 Table 1). -/
def isLaneType (t : BitVec 4) : Bool := decide (t.toNat ≤ 8)
/-- Codes 0x9 to 0xF in the V format: `x2` to `x8`. -/
def isBlockType (t : BitVec 4) : Bool := decide (9 ≤ t.toNat)

/-- VRED and VSCAN: AND, OR and XOR take integer types only (R246, R255). -/
def reduceOk (o : BitVec 3) (t : BitVec 4) : Bool :=
  if o.toNat ≤ 2 then isLaneType t else decide (o.toNat ≤ 5) && isIntLane t

/-- Pairs of VCVT: at least one floating point among non-block types, or a block with a floating point (R257). -/
def vcvtOk (u t : BitVec 4) : Bool := isFloatType u || isFloatType t

/-- Pairs of FCVT: codes up to `n64`, at least one floating point (R213). -/
def fcvtOk (u t : BitVec 4) : Bool :=
  decide (u.toNat ≤ 10) && decide (t.toNat ≤ 10) && (isFloatType u || isFloatType t)

/-- Order 5 of R183: reserved field values and register blocks beyond their limit. -/
def fieldsOk : Instr → Bool
  | .add _ _ _ _ => true
  | .sub _ _ _ _ => true
  | .and _ _ _ _ => true
  | .or _ _ _ _ => true
  | .xor _ _ _ _ => true
  | .shl _ _ _ _ => true
  | .shr _ _ _ _ => true
  | .sar _ _ _ _ => true
  | .mul _ _ _ _ => true
  | .mulh _ _ _ _ => true
  | .mulhu _ _ _ _ => true
  | .div _ _ _ _ => true
  | .divu _ _ _ _ => true
  | .rem _ _ _ _ => true
  | .remu _ _ _ _ => true
  | .min _ _ _ _ => true
  | .max _ _ _ _ => true
  | .minu _ _ _ _ => true
  | .maxu _ _ _ _ => true
  | .slt _ _ _ _ => true
  | .sltu _ _ _ _ => true
  | .clz _ _ _ => true
  | .ctz _ _ _ => true
  | .popc _ _ _ => true
  | .sel _ _ _ _ => true
  | .ext _ _ _ _ => true
  | .addi _ _ _ => true
  | .andi _ _ _ => true
  | .ori _ _ _ => true
  | .xori _ _ _ => true
  | .shli _ _ _ => true
  | .shri _ _ _ => true
  | .sari _ _ _ => true
  | .slti _ _ _ => true
  | .sltiu _ _ _ => true
  | .lih _ _ _ => true
  | .beq _ _ _ => true
  | .bne _ _ _ => true
  | .blt _ _ _ => true
  | .bge _ _ _ => true
  | .bltu _ _ _ => true
  | .bgeu _ _ _ => true
  | .jmp _ => true
  | .jal _ => true
  | .jalr _ _ _ => true
  | .loop _ _ => true
  | .endStream => true
  | .crr _ _ => true
  | .crw _ _ => true
  | .crset _ _ => true
  | .crclr _ _ => true
  | .qtest _ _ => true
  | .sfset _ => true
  | .sfclr _ => true
  | .sfwait _ => true
  | .sftest _ _ => true
  | .fence _ _ => true
  | .fencel => true
  | .fenceh _ => true
  | .trap _ => true
  | .eret => true
  | .brk => true
  | .snap => true
  | .idle => true
  | .chen _ _ => true
  | .chdis _ _ => true
  | .chhold _ _ => true
  | .chrel _ _ => true
  | .chpend _ _ _ _ => true
  | .msgid _ _ => true
  | .ldImm _ c _ z s _ => isCap c && loadSize s z
  | .ldqImm d c _ z s _ => isCap c && queueSize s z d
  | .ldcImm d c _ _ => isCap c && isCap d
  | .stImm _ c s _ => isCap c && loadSize s 0
  | .stqImm v c s _ => isCap c && queueSize s 0 v
  | .stcImm v c _ => isCap c && isCap v
  | .ldReg _ c _ _ _ z s => isCap c && loadSize s z
  | .ldqReg d c _ _ _ z s => isCap c && queueSize s z d
  | .ldcReg d c _ _ _ => isCap c && isCap d
  | .stReg _ c _ _ s => isCap c && loadSize s 0
  | .stqReg v c _ _ s => isCap c && queueSize s 0 v
  | .stcReg v c _ _ => isCap c && isCap v
  | .amo _ c _ _ _ _ p => isCap c && decide (p.toNat ≤ 8)
  | .cas _ c _ _ _ => isCap c
  | .spillA _ _ => true
  | .spillC c => isCap c
  | .fillA _ _ => true
  | .fillC d => isCap d
  | .kbase _ c _ => isCap c
  | .klen _ c _ => isCap c
  | .kperm _ c _ => isCap c
  | .ktag _ c _ => isCap c
  | .ktype _ c _ => isCap c
  | .kaddr _ c _ => isCap c
  | .kseta d c _ _ => isCap c && isCap d
  | .kadd d c _ _ => isCap c && isCap d
  | .kclip d c _ _ => isCap c && isCap d
  | .kclipx d c _ _ => isCap c && isCap d
  | .kmask d c _ _ => isCap c && isCap d
  | .kseal d c e => isCap c && isCap e && isCap d
  | .kunseal d c e => isCap c && isCap e && isCap d
  | .kdrop d c => isCap c && isCap d
  | .kdiff _ c e _ => isCap c && isCap e
  | .kmov d c => isCap c && isCap d
  | .kspan _ _ _ _ => true
  | .kaddi d c _ => isCap c && isCap d
  | .copy d c _ _ _ => isCap c && isCap d
  | .pull d c _ _ _ => isCap c && isCap d
  | .pull2 d c b _ => isCap c && isCap d && blockOk b 30
  | .gather d c _ _ _ => isCap c && isCap d
  | .pref c _ _ _ _ => isCap c
  | .flush c _ _ _ => isCap c
  | .inval c _ _ _ => isCap c
  | .binit c _ => isCap c
  | .barr c => isCap c
  | .bwait _ c _ => isCap c
  | .btest _ c _ => isCap c
  | .mqA _ _ _ => true
  | .mqE _ _ _ => true
  | .achain c _ _ _ o => isCap c && decide (o.toNat ≤ 4)
  | .adisarm _ => true
  | .atest _ _ _ => true
  | .sendc _ b _ k => blockOk b 26 && decide (k.toNat ≤ 13)
  | .seqadv c _ _ => isCap c
  | .watch _ c _ _ => isCap c
  | .unwatch _ c => isCap c
  | .epbind _ c => isCap c
  | .rvmark c _ _ => isCap c
  | .rvmarkClr c _ _ => isCap c
  | .rvsweep c => isCap c
  | .vadd _ _ _ _ t => isLaneType t
  | .vsub _ _ _ _ t => isLaneType t
  | .vmul _ _ _ _ t => isLaneType t
  | .vfma _ _ _ _ t => isLaneType t
  | .vdiv _ _ _ _ t => isLaneType t
  | .vsqrt _ _ _ t => isFloatType t
  | .vmin _ _ _ _ t => isLaneType t
  | .vmax _ _ _ _ t => isLaneType t
  | .vabs _ _ _ t => (isSignedLane t || isFloatType t)
  | .vneg _ _ _ t => (isSignedLane t || isFloatType t)
  | .vand _ _ _ _ t => isIntLane t
  | .vor _ _ _ _ t => isIntLane t
  | .vxor _ _ _ _ t => isIntLane t
  | .vshl _ _ _ _ t => isIntLane t
  | .vshr _ _ _ _ t => isIntLane t
  | .vsar _ _ _ _ t => isSignedLane t
  | .vcmp _ _ _ _ _ t => isLaneType t
  | .vsel _ _ _ _ => true
  | .vcvt _ _ u _ t => vcvtOk u t
  | .vred _ _ o _ t => reduceOk o t
  | .vscan _ _ o _ t => reduceOk o t
  | .vperm _ _ _ _ => true
  | .vbcast _ _ _ t => isLaneType t
  | .vins _ _ _ t => isLaneType t
  | .vext _ _ _ t => isLaneType t
  | .vlq _ => true
  | .vsq _ => true
  | .viota _ _ t => isIntLane t
  | .mand _ _ _ => true
  | .mor _ _ _ => true
  | .mxor _ _ _ => true
  | .mnot _ _ => true
  | .mcnt _ _ => true
  | .mset _ _ => true
  | .fadd _ _ _ _ t => isFloatType t
  | .fsub _ _ _ _ t => isFloatType t
  | .fmul _ _ _ _ t => isFloatType t
  | .fmadd _ _ _ _ t => isFloatType t
  | .fdiv _ _ _ _ t => isFloatType t
  | .fsqrt _ _ _ t => isFloatType t
  | .fmin _ _ _ _ t => isFloatType t
  | .fmax _ _ _ _ t => isFloatType t
  | .feq _ _ _ _ t => isFloatType t
  | .flt _ _ _ _ t => isFloatType t
  | .fle _ _ _ _ t => isFloatType t
  | .fcvt _ _ u _ t => fcvtOk u t
  | .fclass _ _ _ t => isFloatType t
  | .fsgn _ _ _ _ t => isFloatType t
  | .asend _ _ _ => true
  | .avsend _ _ _ => true
  | .send _ b _ => blockOk b 26
  | .spawn _ _ b _ _ => blockOk b 28
  | .sopen _ => true
  | .sput _ _ => true
  | .sclose => true
  | .tld => true
  | .tst => true
  | .tzero => true
  | .tcopy => true
  | .txp => true
  | .tcvt => true
  | .mma => true
  | .mmag _ => true
  | .gangJoin => true
  | .gangTimeout => true
  | .wzero => true
  | .wanch => true
  | .wauto => true
  | .drain => true
  | .rowdrainDeposit => true
  | .drrel => true
  | .amaxAnswer _ => true
  | .matrixCommandStart => true
  | .commandTrap _ => true
  | .copyCommandStart => true
  | .copyRetire _ => true
  | .storePerformed => true
  | .permitReply _ => true
  | .sliceRequest _ => true
  | .sliceFillDone _ => true
  | .readResponse _ => true
  | .portRequest _ => true
  | .pageWake _ _ => true
  | .faultRetryTimer _ => true
  | .lineAgeDiscard _ _ => true
  | .ptwWrite => true
  | .ptwMove => true
  | .pageMoveDone => true
  | .invalidation _ => true
  | .invalidationComplete => true
  | .invalidationTimeout _ => true
  | .ovfcfgWrite => true
  | .ovfstatRead => true
  | .spillovfWrite => true
  | .rvcfgWrite => true
  | .rvclrRead => true
  | .tblcfgWrite => true
  | .ptwsWrite => true
  | .splitWrite => true
  | .vgroupWrite => true
  | .spillBoundsWrite => true
  | .tshapeWrite => true
  | .wctlWrite => true
  | .wctlRead => true
  | .numsumRead => true
  | .numsumWrite => true
  | .cpstatWrite => true
  | .gangcfgWrite => true
  | .ctxsaveWrite => true
  | .sliceWrite => true
  | .wdbudgetWrite => true
  | .runqstatRead => true
  | .keycmdRevoke => true
  | .ecccntRead => true
  | .scrubcfgWrite => true
  | .snapstatWrite => true
  | .routecfgWrite => true
  | .routestatRead => true
  | .lnkcfgWrite => true
  | .lnkfenceWrite => true
  | .lnkstatRead => true
  | .registerWrite => true
  | .queueDeadlock _ => true
  | .watchdog _ => true
  | .idleWake _ _ => true
  | .taskEnd _ => true
  | .messageDeparture _ => true
  | .fatalContext _ _ => true
  | .messageArrival _ => true
  | .ringHoldTimeout _ _ => true
  | .priorityAgeing _ => true
  | .channelBitArrival _ => true
  | .spawnRequest _ => true
  | .spawnResponse _ _ => true
  | .spawnArrival _ => true
  | .streamWordArrival _ => true
  | .watchRequest _ => true
  | .unwatchRequest _ => true
  | .fencehRequest _ => true
  | .fencehResponse _ _ => true
  | .epbindAnswer _ _ => true
  | .accumulateFlit _ => true
  | .flitResendRequest _ _ => true
  | .flitAck _ _ => true
  | .flitRefusal _ => true
  | .accumulateSendStart => true
  | .sweepRequest _ _ _ _ => true
  | .sweepDrainDone => true
  | .sweepScanDone => true
  | .sweepEpochEnd => true
  | .sliceExpiry => true
  | .contextSave _ => true
  | .hostLaunch _ => true
  | .prepare _ => true
  | .prepareAnswer _ _ _ _ => true
  | .commit _ => true
  | .committed _ _ => true
  | .launchAbort _ => true
  | .launchTimeout => true
  | .contextRelease _ => true
  | .doorbell => true
  | .ctxctlEvict => true
  | .ctxctlRestore => true
  | .hwinRegister => true
  | .hwinUnregister => true
  | .ssbindWrite => true
  | .accessDenied => true
  | .hostAcquireRead _ _ _ => true
  | .hostAtomic _ => true
  | .contextCreate => true
  | .grant _ => true
  | .grantWithdraw _ => true
  | .provision => true
  | .activate => true
  | .revoke => true
  | .resealDone _ => true
  | .scrubDone _ => true
  | .secureStreamUnit _ => true
  | .fenceRequest => true
  | .packageFence _ => true
  | .linkFenceTimeout _ => true
  | .admitPackage => true
  | .routingWindow _ => true
  | .linkFlit _ _ => true
  | .nak _ _ => true
  | .laneRepair _ _ => true
  | .streamRouteReserve _ => true
  | .coldBoot => true
  | .warmReset => true
  | .bootStageDone _ => true
  | .bootTimeout => true
  | .firmwareUpdate _ => true
  | .scrubRead _ _ => true
  | .snaptrig => true
  | .snapshotLatch => true
  | .thermalStep => true
  | .sweeperExamine _ => true
  | .copyDeposit _ => true

/-- The marked fields of an instruction, in the order D, S1, S2 (R175). -/
def queueMarks : Instr → List Mark
  | .add d a b q => mark q 0 true d ++ mark q 1 false a ++ mark q 2 false b
  | .sub d a b q => mark q 0 true d ++ mark q 1 false a ++ mark q 2 false b
  | .and d a b q => mark q 0 true d ++ mark q 1 false a ++ mark q 2 false b
  | .or d a b q => mark q 0 true d ++ mark q 1 false a ++ mark q 2 false b
  | .xor d a b q => mark q 0 true d ++ mark q 1 false a ++ mark q 2 false b
  | .shl d a b q => mark q 0 true d ++ mark q 1 false a ++ mark q 2 false b
  | .shr d a b q => mark q 0 true d ++ mark q 1 false a ++ mark q 2 false b
  | .sar d a b q => mark q 0 true d ++ mark q 1 false a ++ mark q 2 false b
  | .mul d a b q => mark q 0 true d ++ mark q 1 false a ++ mark q 2 false b
  | .mulh d a b q => mark q 0 true d ++ mark q 1 false a ++ mark q 2 false b
  | .mulhu d a b q => mark q 0 true d ++ mark q 1 false a ++ mark q 2 false b
  | .div d a b q => mark q 0 true d ++ mark q 1 false a ++ mark q 2 false b
  | .divu d a b q => mark q 0 true d ++ mark q 1 false a ++ mark q 2 false b
  | .rem d a b q => mark q 0 true d ++ mark q 1 false a ++ mark q 2 false b
  | .remu d a b q => mark q 0 true d ++ mark q 1 false a ++ mark q 2 false b
  | .min d a b q => mark q 0 true d ++ mark q 1 false a ++ mark q 2 false b
  | .max d a b q => mark q 0 true d ++ mark q 1 false a ++ mark q 2 false b
  | .minu d a b q => mark q 0 true d ++ mark q 1 false a ++ mark q 2 false b
  | .maxu d a b q => mark q 0 true d ++ mark q 1 false a ++ mark q 2 false b
  | .slt d a b q => mark q 0 true d ++ mark q 1 false a ++ mark q 2 false b
  | .sltu d a b q => mark q 0 true d ++ mark q 1 false a ++ mark q 2 false b
  | .clz d a q => mark q 0 true d ++ mark q 1 false a
  | .ctz d a q => mark q 0 true d ++ mark q 1 false a
  | .popc d a q => mark q 0 true d ++ mark q 1 false a
  | .sel _ a b q => mark q 0 false a ++ mark q 1 false b
  | .ext d a b q => mark q 0 true d ++ mark q 1 false a ++ mark q 2 false b
  | .addi _ _ _ => []
  | .andi _ _ _ => []
  | .ori _ _ _ => []
  | .xori _ _ _ => []
  | .shli _ _ _ => []
  | .shri _ _ _ => []
  | .sari _ _ _ => []
  | .slti _ _ _ => []
  | .sltiu _ _ _ => []
  | .lih _ _ _ => []
  | .beq _ _ _ => []
  | .bne _ _ _ => []
  | .blt _ _ _ => []
  | .bge _ _ _ => []
  | .bltu _ _ _ => []
  | .bgeu _ _ _ => []
  | .jmp _ => []
  | .jal _ => []
  | .jalr _ _ _ => []
  | .loop _ _ => []
  | .endStream => []
  | .crr _ _ => []
  | .crw _ _ => []
  | .crset _ _ => []
  | .crclr _ _ => []
  | .qtest _ _ => []
  | .sfset _ => []
  | .sfclr _ => []
  | .sfwait _ => []
  | .sftest _ _ => []
  | .fence _ _ => []
  | .fencel => []
  | .fenceh _ => []
  | .trap a => mark a.mark 0 false a.reg
  | .eret => []
  | .brk => []
  | .snap => []
  | .idle => []
  | .chen a m => mark m 0 false a
  | .chdis a m => mark m 0 false a
  | .chhold a m => mark m 0 false a
  | .chrel a m => mark m 0 false a
  | .chpend a b n m => mark m 0 false a ++ mark n 0 false b
  | .msgid d m => mark m 0 true d
  | .ldImm _ _ _ _ _ _ => []
  | .ldqImm d _ _ _ s _ => ldqMark s d
  | .ldcImm _ _ _ _ => []
  | .stImm _ _ _ _ => []
  | .stqImm v _ s _ => stqMark s v
  | .stcImm _ _ _ => []
  | .ldReg _ _ b m _ _ _ => mark m 0 false b
  | .ldqReg d _ b m _ _ s => ldqMark s d ++ mark m 0 false b
  | .ldcReg _ _ b m _ => mark m 0 false b
  | .stReg _ _ b m _ => mark m 0 false b
  | .stqReg v _ b m s => stqMark s v ++ mark m 0 false b
  | .stcReg _ _ b m => mark m 0 false b
  | .amo d _ b m n _ _ => mark n 0 true d ++ mark m 0 false b
  | .cas _ _ b m _ => mark m 0 false b
  | .spillA a m => mark m 0 false a
  | .spillC _ => []
  | .fillA d m => mark m 0 true d
  | .fillC _ => []
  | .kbase d _ m => mark m 0 true d
  | .klen d _ m => mark m 0 true d
  | .kperm d _ m => mark m 0 true d
  | .ktag d _ m => mark m 0 true d
  | .ktype d _ m => mark m 0 true d
  | .kaddr d _ m => mark m 0 true d
  | .kseta _ _ b m => mark m 0 false b
  | .kadd _ _ b m => mark m 0 false b
  | .kclip _ _ b m => mark m 0 false b
  | .kclipx _ _ b m => mark m 0 false b
  | .kmask _ _ b m => mark m 0 false b
  | .kseal _ _ _ => []
  | .kunseal _ _ _ => []
  | .kdrop _ _ => []
  | .kdiff d _ _ m => mark m 0 true d
  | .kmov _ _ => []
  | .kspan d _ _ m => mark m 0 true d
  | .kaddi _ _ _ => []
  | .copy _ _ b m _ => mark m 0 false b
  | .pull _ _ b m _ => mark m 0 false b
  | .pull2 _ _ _ _ => []
  | .gather _ _ b m _ => mark m 0 false b
  | .pref _ b m _ _ => mark m 0 false b
  | .flush _ b m _ => mark m 0 false b
  | .inval _ b m _ => mark m 0 false b
  | .binit _ _ => []
  | .barr _ => []
  | .bwait d _ m => mark m 0 true d
  | .btest d _ m => mark m 0 true d
  | .mqA _ _ _ => []
  | .mqE _ _ _ => []
  | .achain _ b m _ _ => mark m 0 false b
  | .adisarm _ => []
  | .atest d m _ => mark m 0 true d
  | .sendc a _ m _ => mark m 0 false a
  | .seqadv _ b m => mark m 0 false b
  | .watch _ _ b m => mark m 0 false b
  | .unwatch _ _ => []
  | .epbind _ _ => []
  | .rvmark _ b m => mark m 0 false b
  | .rvmarkClr _ b m => mark m 0 false b
  | .rvsweep _ => []
  | .vadd _ _ _ _ _ => []
  | .vsub _ _ _ _ _ => []
  | .vmul _ _ _ _ _ => []
  | .vfma _ _ _ _ _ => []
  | .vdiv _ _ _ _ _ => []
  | .vsqrt _ _ _ _ => []
  | .vmin _ _ _ _ _ => []
  | .vmax _ _ _ _ _ => []
  | .vabs _ _ _ _ => []
  | .vneg _ _ _ _ => []
  | .vand _ _ _ _ _ => []
  | .vor _ _ _ _ _ => []
  | .vxor _ _ _ _ _ => []
  | .vshl _ _ _ _ _ => []
  | .vshr _ _ _ _ _ => []
  | .vsar _ _ _ _ _ => []
  | .vcmp _ _ _ _ _ _ => []
  | .vsel _ _ _ _ => []
  | .vcvt _ _ _ _ _ => []
  | .vred _ _ _ _ _ => []
  | .vscan _ _ _ _ _ => []
  | .vperm _ _ _ _ => []
  | .vbcast _ _ _ _ => []
  | .vins _ _ _ _ => []
  | .vext _ _ _ _ => []
  | .vlq _ => []
  | .vsq _ => []
  | .viota _ _ _ => []
  | .mand _ _ _ => []
  | .mor _ _ _ => []
  | .mxor _ _ _ => []
  | .mnot _ _ => []
  | .mcnt _ _ => []
  | .mset _ _ => []
  | .fadd d a b m _ => mark m 0 true d ++ mark m 1 false a ++ mark m 2 false b
  | .fsub d a b m _ => mark m 0 true d ++ mark m 1 false a ++ mark m 2 false b
  | .fmul d a b m _ => mark m 0 true d ++ mark m 1 false a ++ mark m 2 false b
  | .fmadd _ a b m _ => mark m 0 false a ++ mark m 1 false b
  | .fdiv d a b m _ => mark m 0 true d ++ mark m 1 false a ++ mark m 2 false b
  | .fsqrt d a m _ => mark m 0 true d ++ mark m 1 false a
  | .fmin d a b m _ => mark m 0 true d ++ mark m 1 false a ++ mark m 2 false b
  | .fmax d a b m _ => mark m 0 true d ++ mark m 1 false a ++ mark m 2 false b
  | .feq d a b m _ => mark m 0 true d ++ mark m 1 false a ++ mark m 2 false b
  | .flt d a b m _ => mark m 0 true d ++ mark m 1 false a ++ mark m 2 false b
  | .fle d a b m _ => mark m 0 true d ++ mark m 1 false a ++ mark m 2 false b
  | .fcvt d a _ m _ => mark m 0 true d ++ mark m 1 false a
  | .fclass d a m _ => mark m 0 true d ++ mark m 1 false a
  | .fsgn d a b m _ => mark m 0 true d ++ mark m 1 false a ++ mark m 2 false b
  | .asend a m _ => mark m 0 false a
  | .avsend a _ m => mark m 0 false a
  | .send a _ m => mark m 0 false a
  | .spawn d a _ n m => mark m 0 true d ++ mark n 0 false a
  | .sopen _ => []
  | .sput a m => mark m 0 false a
  | .sclose => []
  | .tld => []
  | .tst => []
  | .tzero => []
  | .tcopy => []
  | .txp => []
  | .tcvt => []
  | .mma => []
  | .mmag _ => []
  | .gangJoin => []
  | .gangTimeout => []
  | .wzero => []
  | .wanch => []
  | .wauto => []
  | .drain => []
  | .rowdrainDeposit => []
  | .drrel => []
  | .amaxAnswer _ => []
  | .matrixCommandStart => []
  | .commandTrap _ => []
  | .copyCommandStart => []
  | .copyRetire _ => []
  | .storePerformed => []
  | .permitReply _ => []
  | .sliceRequest _ => []
  | .sliceFillDone _ => []
  | .readResponse _ => []
  | .portRequest _ => []
  | .pageWake _ _ => []
  | .faultRetryTimer _ => []
  | .lineAgeDiscard _ _ => []
  | .ptwWrite => []
  | .ptwMove => []
  | .pageMoveDone => []
  | .invalidation _ => []
  | .invalidationComplete => []
  | .invalidationTimeout _ => []
  | .ovfcfgWrite => []
  | .ovfstatRead => []
  | .spillovfWrite => []
  | .rvcfgWrite => []
  | .rvclrRead => []
  | .tblcfgWrite => []
  | .ptwsWrite => []
  | .splitWrite => []
  | .vgroupWrite => []
  | .spillBoundsWrite => []
  | .tshapeWrite => []
  | .wctlWrite => []
  | .wctlRead => []
  | .numsumRead => []
  | .numsumWrite => []
  | .cpstatWrite => []
  | .gangcfgWrite => []
  | .ctxsaveWrite => []
  | .sliceWrite => []
  | .wdbudgetWrite => []
  | .runqstatRead => []
  | .keycmdRevoke => []
  | .ecccntRead => []
  | .scrubcfgWrite => []
  | .snapstatWrite => []
  | .routecfgWrite => []
  | .routestatRead => []
  | .lnkcfgWrite => []
  | .lnkfenceWrite => []
  | .lnkstatRead => []
  | .registerWrite => []
  | .queueDeadlock _ => []
  | .watchdog _ => []
  | .idleWake _ _ => []
  | .taskEnd _ => []
  | .messageDeparture _ => []
  | .fatalContext _ _ => []
  | .messageArrival _ => []
  | .ringHoldTimeout _ _ => []
  | .priorityAgeing _ => []
  | .channelBitArrival _ => []
  | .spawnRequest _ => []
  | .spawnResponse _ _ => []
  | .spawnArrival _ => []
  | .streamWordArrival _ => []
  | .watchRequest _ => []
  | .unwatchRequest _ => []
  | .fencehRequest _ => []
  | .fencehResponse _ _ => []
  | .epbindAnswer _ _ => []
  | .accumulateFlit _ => []
  | .flitResendRequest _ _ => []
  | .flitAck _ _ => []
  | .flitRefusal _ => []
  | .accumulateSendStart => []
  | .sweepRequest _ _ _ _ => []
  | .sweepDrainDone => []
  | .sweepScanDone => []
  | .sweepEpochEnd => []
  | .sliceExpiry => []
  | .contextSave _ => []
  | .hostLaunch _ => []
  | .prepare _ => []
  | .prepareAnswer _ _ _ _ => []
  | .commit _ => []
  | .committed _ _ => []
  | .launchAbort _ => []
  | .launchTimeout => []
  | .contextRelease _ => []
  | .doorbell => []
  | .ctxctlEvict => []
  | .ctxctlRestore => []
  | .hwinRegister => []
  | .hwinUnregister => []
  | .ssbindWrite => []
  | .accessDenied => []
  | .hostAcquireRead _ _ _ => []
  | .hostAtomic _ => []
  | .contextCreate => []
  | .grant _ => []
  | .grantWithdraw _ => []
  | .provision => []
  | .activate => []
  | .revoke => []
  | .resealDone _ => []
  | .scrubDone _ => []
  | .secureStreamUnit _ => []
  | .fenceRequest => []
  | .packageFence _ => []
  | .linkFenceTimeout _ => []
  | .admitPackage => []
  | .routingWindow _ => []
  | .linkFlit _ _ => []
  | .nak _ _ => []
  | .laneRepair _ _ => []
  | .streamRouteReserve _ => []
  | .coldBoot => []
  | .warmReset => []
  | .bootStageDone _ => []
  | .bootTimeout => []
  | .firmwareUpdate _ => []
  | .scrubRead _ _ => []
  | .snaptrig => []
  | .snapshotLatch => []
  | .thermalStep => []
  | .sweeperExamine _ => []
  | .copyDeposit _ => []

/-- The streams that an instruction belongs to; none for an event or a tile command. -/
def instrKind : Instr → Option MajorKind
  | .add _ _ _ _ => some (MajorKind.both)
  | .sub _ _ _ _ => some (MajorKind.both)
  | .and _ _ _ _ => some (MajorKind.both)
  | .or _ _ _ _ => some (MajorKind.both)
  | .xor _ _ _ _ => some (MajorKind.both)
  | .shl _ _ _ _ => some (MajorKind.both)
  | .shr _ _ _ _ => some (MajorKind.both)
  | .sar _ _ _ _ => some (MajorKind.both)
  | .mul _ _ _ _ => some (MajorKind.both)
  | .mulh _ _ _ _ => some (MajorKind.both)
  | .mulhu _ _ _ _ => some (MajorKind.both)
  | .div _ _ _ _ => some (MajorKind.both)
  | .divu _ _ _ _ => some (MajorKind.both)
  | .rem _ _ _ _ => some (MajorKind.both)
  | .remu _ _ _ _ => some (MajorKind.both)
  | .min _ _ _ _ => some (MajorKind.both)
  | .max _ _ _ _ => some (MajorKind.both)
  | .minu _ _ _ _ => some (MajorKind.both)
  | .maxu _ _ _ _ => some (MajorKind.both)
  | .slt _ _ _ _ => some (MajorKind.both)
  | .sltu _ _ _ _ => some (MajorKind.both)
  | .clz _ _ _ => some (MajorKind.both)
  | .ctz _ _ _ => some (MajorKind.both)
  | .popc _ _ _ => some (MajorKind.both)
  | .sel _ _ _ _ => some (MajorKind.both)
  | .ext _ _ _ _ => some (MajorKind.both)
  | .addi _ _ _ => some (MajorKind.both)
  | .andi _ _ _ => some (MajorKind.both)
  | .ori _ _ _ => some (MajorKind.both)
  | .xori _ _ _ => some (MajorKind.both)
  | .shli _ _ _ => some (MajorKind.both)
  | .shri _ _ _ => some (MajorKind.both)
  | .sari _ _ _ => some (MajorKind.both)
  | .slti _ _ _ => some (MajorKind.both)
  | .sltiu _ _ _ => some (MajorKind.both)
  | .lih _ _ _ => some (MajorKind.both)
  | .beq _ _ _ => some (MajorKind.both)
  | .bne _ _ _ => some (MajorKind.both)
  | .blt _ _ _ => some (MajorKind.both)
  | .bge _ _ _ => some (MajorKind.both)
  | .bltu _ _ _ => some (MajorKind.both)
  | .bgeu _ _ _ => some (MajorKind.both)
  | .jmp _ => some (MajorKind.both)
  | .jal _ => some (MajorKind.both)
  | .jalr _ _ _ => some (MajorKind.both)
  | .loop _ _ => some (MajorKind.both)
  | .endStream => some (MajorKind.both)
  | .crr _ _ => some (MajorKind.both)
  | .crw _ _ => some (MajorKind.both)
  | .crset _ _ => some (MajorKind.both)
  | .crclr _ _ => some (MajorKind.both)
  | .qtest _ _ => some (MajorKind.both)
  | .sfset _ => some (MajorKind.both)
  | .sfclr _ => some (MajorKind.both)
  | .sfwait _ => some (MajorKind.both)
  | .sftest _ _ => some (MajorKind.both)
  | .fence _ _ => some (MajorKind.both)
  | .fencel => some (MajorKind.both)
  | .fenceh _ => some (MajorKind.both)
  | .trap _ => some (MajorKind.both)
  | .eret => some (MajorKind.both)
  | .brk => some (MajorKind.both)
  | .snap => some (MajorKind.both)
  | .idle => some (MajorKind.both)
  | .chen _ _ => some (MajorKind.both)
  | .chdis _ _ => some (MajorKind.both)
  | .chhold _ _ => some (MajorKind.both)
  | .chrel _ _ => some (MajorKind.both)
  | .chpend _ _ _ _ => some (MajorKind.both)
  | .msgid _ _ => some (MajorKind.both)
  | .ldImm _ _ _ _ _ _ => some (MajorKind.only .A)
  | .ldqImm _ _ _ _ _ _ => some (MajorKind.only .A)
  | .ldcImm _ _ _ _ => some (MajorKind.only .A)
  | .stImm _ _ _ _ => some (MajorKind.only .A)
  | .stqImm _ _ _ _ => some (MajorKind.only .A)
  | .stcImm _ _ _ => some (MajorKind.only .A)
  | .ldReg _ _ _ _ _ _ _ => some (MajorKind.only .A)
  | .ldqReg _ _ _ _ _ _ _ => some (MajorKind.only .A)
  | .ldcReg _ _ _ _ _ => some (MajorKind.only .A)
  | .stReg _ _ _ _ _ => some (MajorKind.only .A)
  | .stqReg _ _ _ _ _ => some (MajorKind.only .A)
  | .stcReg _ _ _ _ => some (MajorKind.only .A)
  | .amo _ _ _ _ _ _ _ => some (MajorKind.only .A)
  | .cas _ _ _ _ _ => some (MajorKind.only .A)
  | .spillA _ _ => some (MajorKind.only .A)
  | .spillC _ => some (MajorKind.only .A)
  | .fillA _ _ => some (MajorKind.only .A)
  | .fillC _ => some (MajorKind.only .A)
  | .kbase _ _ _ => some (MajorKind.only .A)
  | .klen _ _ _ => some (MajorKind.only .A)
  | .kperm _ _ _ => some (MajorKind.only .A)
  | .ktag _ _ _ => some (MajorKind.only .A)
  | .ktype _ _ _ => some (MajorKind.only .A)
  | .kaddr _ _ _ => some (MajorKind.only .A)
  | .kseta _ _ _ _ => some (MajorKind.only .A)
  | .kadd _ _ _ _ => some (MajorKind.only .A)
  | .kclip _ _ _ _ => some (MajorKind.only .A)
  | .kclipx _ _ _ _ => some (MajorKind.only .A)
  | .kmask _ _ _ _ => some (MajorKind.only .A)
  | .kseal _ _ _ => some (MajorKind.only .A)
  | .kunseal _ _ _ => some (MajorKind.only .A)
  | .kdrop _ _ => some (MajorKind.only .A)
  | .kdiff _ _ _ _ => some (MajorKind.only .A)
  | .kmov _ _ => some (MajorKind.only .A)
  | .kspan _ _ _ _ => some (MajorKind.only .A)
  | .kaddi _ _ _ => some (MajorKind.only .A)
  | .copy _ _ _ _ _ => some (MajorKind.only .A)
  | .pull _ _ _ _ _ => some (MajorKind.only .A)
  | .pull2 _ _ _ _ => some (MajorKind.only .A)
  | .gather _ _ _ _ _ => some (MajorKind.only .A)
  | .pref _ _ _ _ _ => some (MajorKind.only .A)
  | .flush _ _ _ _ => some (MajorKind.only .A)
  | .inval _ _ _ _ => some (MajorKind.only .A)
  | .binit _ _ => some (MajorKind.only .A)
  | .barr _ => some (MajorKind.only .A)
  | .bwait _ _ _ => some (MajorKind.only .A)
  | .btest _ _ _ => some (MajorKind.only .A)
  | .mqA _ _ _ => some (MajorKind.only .A)
  | .mqE _ _ _ => some (MajorKind.only .E)
  | .achain _ _ _ _ _ => some (MajorKind.only .A)
  | .adisarm _ => some (MajorKind.only .A)
  | .atest _ _ _ => some (MajorKind.only .A)
  | .sendc _ _ _ _ => some (MajorKind.only .A)
  | .seqadv _ _ _ => some (MajorKind.only .A)
  | .watch _ _ _ _ => some (MajorKind.only .A)
  | .unwatch _ _ => some (MajorKind.only .A)
  | .epbind _ _ => some (MajorKind.only .A)
  | .rvmark _ _ _ => some (MajorKind.only .A)
  | .rvmarkClr _ _ _ => some (MajorKind.only .A)
  | .rvsweep _ => some (MajorKind.only .A)
  | .vadd _ _ _ _ _ => some (MajorKind.only .E)
  | .vsub _ _ _ _ _ => some (MajorKind.only .E)
  | .vmul _ _ _ _ _ => some (MajorKind.only .E)
  | .vfma _ _ _ _ _ => some (MajorKind.only .E)
  | .vdiv _ _ _ _ _ => some (MajorKind.only .E)
  | .vsqrt _ _ _ _ => some (MajorKind.only .E)
  | .vmin _ _ _ _ _ => some (MajorKind.only .E)
  | .vmax _ _ _ _ _ => some (MajorKind.only .E)
  | .vabs _ _ _ _ => some (MajorKind.only .E)
  | .vneg _ _ _ _ => some (MajorKind.only .E)
  | .vand _ _ _ _ _ => some (MajorKind.only .E)
  | .vor _ _ _ _ _ => some (MajorKind.only .E)
  | .vxor _ _ _ _ _ => some (MajorKind.only .E)
  | .vshl _ _ _ _ _ => some (MajorKind.only .E)
  | .vshr _ _ _ _ _ => some (MajorKind.only .E)
  | .vsar _ _ _ _ _ => some (MajorKind.only .E)
  | .vcmp _ _ _ _ _ _ => some (MajorKind.only .E)
  | .vsel _ _ _ _ => some (MajorKind.only .E)
  | .vcvt _ _ _ _ _ => some (MajorKind.only .E)
  | .vred _ _ _ _ _ => some (MajorKind.only .E)
  | .vscan _ _ _ _ _ => some (MajorKind.only .E)
  | .vperm _ _ _ _ => some (MajorKind.only .E)
  | .vbcast _ _ _ _ => some (MajorKind.only .E)
  | .vins _ _ _ _ => some (MajorKind.only .E)
  | .vext _ _ _ _ => some (MajorKind.only .E)
  | .vlq _ => some (MajorKind.only .E)
  | .vsq _ => some (MajorKind.only .E)
  | .viota _ _ _ => some (MajorKind.only .E)
  | .mand _ _ _ => some (MajorKind.only .E)
  | .mor _ _ _ => some (MajorKind.only .E)
  | .mxor _ _ _ => some (MajorKind.only .E)
  | .mnot _ _ => some (MajorKind.only .E)
  | .mcnt _ _ => some (MajorKind.only .E)
  | .mset _ _ => some (MajorKind.only .E)
  | .fadd _ _ _ _ _ => some (MajorKind.only .E)
  | .fsub _ _ _ _ _ => some (MajorKind.only .E)
  | .fmul _ _ _ _ _ => some (MajorKind.only .E)
  | .fmadd _ _ _ _ _ => some (MajorKind.only .E)
  | .fdiv _ _ _ _ _ => some (MajorKind.only .E)
  | .fsqrt _ _ _ _ => some (MajorKind.only .E)
  | .fmin _ _ _ _ _ => some (MajorKind.only .E)
  | .fmax _ _ _ _ _ => some (MajorKind.only .E)
  | .feq _ _ _ _ _ => some (MajorKind.only .E)
  | .flt _ _ _ _ _ => some (MajorKind.only .E)
  | .fle _ _ _ _ _ => some (MajorKind.only .E)
  | .fcvt _ _ _ _ _ => some (MajorKind.only .E)
  | .fclass _ _ _ _ => some (MajorKind.only .E)
  | .fsgn _ _ _ _ _ => some (MajorKind.only .E)
  | .asend _ _ _ => some (MajorKind.only .E)
  | .avsend _ _ _ => some (MajorKind.only .E)
  | .send _ _ _ => some (MajorKind.only .E)
  | .spawn _ _ _ _ _ => some (MajorKind.only .E)
  | .sopen _ => some (MajorKind.only .E)
  | .sput _ _ => some (MajorKind.only .E)
  | .sclose => some (MajorKind.only .E)
  | .tld => none
  | .tst => none
  | .tzero => none
  | .tcopy => none
  | .txp => none
  | .tcvt => none
  | .mma => none
  | .mmag _ => none
  | .gangJoin => none
  | .gangTimeout => none
  | .wzero => none
  | .wanch => none
  | .wauto => none
  | .drain => none
  | .rowdrainDeposit => none
  | .drrel => none
  | .amaxAnswer _ => none
  | .matrixCommandStart => none
  | .commandTrap _ => none
  | .copyCommandStart => none
  | .copyRetire _ => none
  | .storePerformed => none
  | .permitReply _ => none
  | .sliceRequest _ => none
  | .sliceFillDone _ => none
  | .readResponse _ => none
  | .portRequest _ => none
  | .pageWake _ _ => none
  | .faultRetryTimer _ => none
  | .lineAgeDiscard _ _ => none
  | .ptwWrite => none
  | .ptwMove => none
  | .pageMoveDone => none
  | .invalidation _ => none
  | .invalidationComplete => none
  | .invalidationTimeout _ => none
  | .ovfcfgWrite => none
  | .ovfstatRead => none
  | .spillovfWrite => none
  | .rvcfgWrite => none
  | .rvclrRead => none
  | .tblcfgWrite => none
  | .ptwsWrite => none
  | .splitWrite => none
  | .vgroupWrite => none
  | .spillBoundsWrite => none
  | .tshapeWrite => none
  | .wctlWrite => none
  | .wctlRead => none
  | .numsumRead => none
  | .numsumWrite => none
  | .cpstatWrite => none
  | .gangcfgWrite => none
  | .ctxsaveWrite => none
  | .sliceWrite => none
  | .wdbudgetWrite => none
  | .runqstatRead => none
  | .keycmdRevoke => none
  | .ecccntRead => none
  | .scrubcfgWrite => none
  | .snapstatWrite => none
  | .routecfgWrite => none
  | .routestatRead => none
  | .lnkcfgWrite => none
  | .lnkfenceWrite => none
  | .lnkstatRead => none
  | .registerWrite => none
  | .queueDeadlock _ => none
  | .watchdog _ => none
  | .idleWake _ _ => none
  | .taskEnd _ => none
  | .messageDeparture _ => none
  | .fatalContext _ _ => none
  | .messageArrival _ => none
  | .ringHoldTimeout _ _ => none
  | .priorityAgeing _ => none
  | .channelBitArrival _ => none
  | .spawnRequest _ => none
  | .spawnResponse _ _ => none
  | .spawnArrival _ => none
  | .streamWordArrival _ => none
  | .watchRequest _ => none
  | .unwatchRequest _ => none
  | .fencehRequest _ => none
  | .fencehResponse _ _ => none
  | .epbindAnswer _ _ => none
  | .accumulateFlit _ => none
  | .flitResendRequest _ _ => none
  | .flitAck _ _ => none
  | .flitRefusal _ => none
  | .accumulateSendStart => none
  | .sweepRequest _ _ _ _ => none
  | .sweepDrainDone => none
  | .sweepScanDone => none
  | .sweepEpochEnd => none
  | .sliceExpiry => none
  | .contextSave _ => none
  | .hostLaunch _ => none
  | .prepare _ => none
  | .prepareAnswer _ _ _ _ => none
  | .commit _ => none
  | .committed _ _ => none
  | .launchAbort _ => none
  | .launchTimeout => none
  | .contextRelease _ => none
  | .doorbell => none
  | .ctxctlEvict => none
  | .ctxctlRestore => none
  | .hwinRegister => none
  | .hwinUnregister => none
  | .ssbindWrite => none
  | .accessDenied => none
  | .hostAcquireRead _ _ _ => none
  | .hostAtomic _ => none
  | .contextCreate => none
  | .grant _ => none
  | .grantWithdraw _ => none
  | .provision => none
  | .activate => none
  | .revoke => none
  | .resealDone _ => none
  | .scrubDone _ => none
  | .secureStreamUnit _ => none
  | .fenceRequest => none
  | .packageFence _ => none
  | .linkFenceTimeout _ => none
  | .admitPackage => none
  | .routingWindow _ => none
  | .linkFlit _ _ => none
  | .nak _ _ => none
  | .laneRepair _ _ => none
  | .streamRouteReserve _ => none
  | .coldBoot => none
  | .warmReset => none
  | .bootStageDone _ => none
  | .bootTimeout => none
  | .firmwareUpdate _ => none
  | .scrubRead _ _ => none
  | .snaptrig => none
  | .snapshotLatch => none
  | .thermalStep => none
  | .sweeperExamine _ => none
  | .copyDeposit _ => none

/-- An instruction word that the stream executes: encoded, of the stream, with no reserved value and no mark of a bad
port or direction. -/
def WellFormed (st : Stream) (i : Instr) : Prop :=
  (instrKind i = some .both ∨ instrKind i = some (.only st)) ∧ fieldsOk i = true ∧
  (queueMarks i).all (fun k => decide (k.port.toNat < 6) && !markDirBad st k) = true

end Sys2Proof
end

