-- ==== Sys2Proof/Decode.lean ====
section
/-! DEFINITION. Decoding and encoding of 32-bit instruction words (R173 to R183). A word is read by its major; the
first failing check of R183 refuses it by name. -/
namespace Sys2Proof

/-- Why a word is not an instruction (R183 Table 8, R355). -/
inductive DecodeErr where
  | zeroWord
  | unallocated
  | streamMajor
  | reservedFn
  | reservedField
  | queuePort
  | queueDir
  deriving DecidableEq, Repr

/-- A table row: the fixed bits of the row hold (orders 4 and 5 of R183: a fixed bit outside the function code is a
reserved field). -/
def row (w mask value : InstrWord) (i : Instr) : Except DecodeErr Instr :=
  if w &&& mask = value then .ok i else .error .reservedField

/-- Major 0x01 (R177 Table 2): ADD, SUB, AND, OR, XOR, SHL, SHR, SAR …. -/
def decodeMajor01 (w : InstrWord) : Except DecodeErr Instr :=
  match (w.extractLsb' 0 8).toNat with
  | 0 => row w 0xFC0000FF#32 0x04000000#32 (.add (w.extractLsb' 21 5) (w.extractLsb' 16 5) (w.extractLsb' 11 5) (w.extractLsb' 8 3))
  | 1 => row w 0xFC0000FF#32 0x04000001#32 (.sub (w.extractLsb' 21 5) (w.extractLsb' 16 5) (w.extractLsb' 11 5) (w.extractLsb' 8 3))
  | 2 => row w 0xFC0000FF#32 0x04000002#32 (.and (w.extractLsb' 21 5) (w.extractLsb' 16 5) (w.extractLsb' 11 5) (w.extractLsb' 8 3))
  | 3 => row w 0xFC0000FF#32 0x04000003#32 (.or (w.extractLsb' 21 5) (w.extractLsb' 16 5) (w.extractLsb' 11 5) (w.extractLsb' 8 3))
  | 4 => row w 0xFC0000FF#32 0x04000004#32 (.xor (w.extractLsb' 21 5) (w.extractLsb' 16 5) (w.extractLsb' 11 5) (w.extractLsb' 8 3))
  | 5 => row w 0xFC0000FF#32 0x04000005#32 (.shl (w.extractLsb' 21 5) (w.extractLsb' 16 5) (w.extractLsb' 11 5) (w.extractLsb' 8 3))
  | 6 => row w 0xFC0000FF#32 0x04000006#32 (.shr (w.extractLsb' 21 5) (w.extractLsb' 16 5) (w.extractLsb' 11 5) (w.extractLsb' 8 3))
  | 7 => row w 0xFC0000FF#32 0x04000007#32 (.sar (w.extractLsb' 21 5) (w.extractLsb' 16 5) (w.extractLsb' 11 5) (w.extractLsb' 8 3))
  | 8 => row w 0xFC0000FF#32 0x04000008#32 (.mul (w.extractLsb' 21 5) (w.extractLsb' 16 5) (w.extractLsb' 11 5) (w.extractLsb' 8 3))
  | 9 => row w 0xFC0000FF#32 0x04000009#32 (.mulh (w.extractLsb' 21 5) (w.extractLsb' 16 5) (w.extractLsb' 11 5) (w.extractLsb' 8 3))
  | 10 => row w 0xFC0000FF#32 0x0400000A#32 (.mulhu (w.extractLsb' 21 5) (w.extractLsb' 16 5) (w.extractLsb' 11 5) (w.extractLsb' 8 3))
  | 11 => row w 0xFC0000FF#32 0x0400000B#32 (.div (w.extractLsb' 21 5) (w.extractLsb' 16 5) (w.extractLsb' 11 5) (w.extractLsb' 8 3))
  | 12 => row w 0xFC0000FF#32 0x0400000C#32 (.divu (w.extractLsb' 21 5) (w.extractLsb' 16 5) (w.extractLsb' 11 5) (w.extractLsb' 8 3))
  | 13 => row w 0xFC0000FF#32 0x0400000D#32 (.rem (w.extractLsb' 21 5) (w.extractLsb' 16 5) (w.extractLsb' 11 5) (w.extractLsb' 8 3))
  | 14 => row w 0xFC0000FF#32 0x0400000E#32 (.remu (w.extractLsb' 21 5) (w.extractLsb' 16 5) (w.extractLsb' 11 5) (w.extractLsb' 8 3))
  | 15 => row w 0xFC0000FF#32 0x0400000F#32 (.min (w.extractLsb' 21 5) (w.extractLsb' 16 5) (w.extractLsb' 11 5) (w.extractLsb' 8 3))
  | 16 => row w 0xFC0000FF#32 0x04000010#32 (.max (w.extractLsb' 21 5) (w.extractLsb' 16 5) (w.extractLsb' 11 5) (w.extractLsb' 8 3))
  | 17 => row w 0xFC0000FF#32 0x04000011#32 (.minu (w.extractLsb' 21 5) (w.extractLsb' 16 5) (w.extractLsb' 11 5) (w.extractLsb' 8 3))
  | 18 => row w 0xFC0000FF#32 0x04000012#32 (.maxu (w.extractLsb' 21 5) (w.extractLsb' 16 5) (w.extractLsb' 11 5) (w.extractLsb' 8 3))
  | 19 => row w 0xFC0000FF#32 0x04000013#32 (.slt (w.extractLsb' 21 5) (w.extractLsb' 16 5) (w.extractLsb' 11 5) (w.extractLsb' 8 3))
  | 20 => row w 0xFC0000FF#32 0x04000014#32 (.sltu (w.extractLsb' 21 5) (w.extractLsb' 16 5) (w.extractLsb' 11 5) (w.extractLsb' 8 3))
  | 21 => row w 0xFC00FCFF#32 0x04000015#32 (.clz (w.extractLsb' 21 5) (w.extractLsb' 16 5) (w.extractLsb' 8 2))
  | 22 => row w 0xFC00FCFF#32 0x04000016#32 (.ctz (w.extractLsb' 21 5) (w.extractLsb' 16 5) (w.extractLsb' 8 2))
  | 23 => row w 0xFC00FCFF#32 0x04000017#32 (.popc (w.extractLsb' 21 5) (w.extractLsb' 16 5) (w.extractLsb' 8 2))
  | 24 => row w 0xFC0001FF#32 0x04000018#32 (.sel (w.extractLsb' 21 5) (w.extractLsb' 16 5) (w.extractLsb' 11 5) (w.extractLsb' 9 2))
  | 25 => row w 0xFC0000FF#32 0x04000019#32 (.ext (w.extractLsb' 21 5) (w.extractLsb' 16 5) (w.extractLsb' 11 5) (w.extractLsb' 8 3))
  | _ => .error .reservedFn

/-- Major 0x02 (R177 Table 2): ADDI. -/
def decodeMajor02 (w : InstrWord) : Except DecodeErr Instr :=
  row w 0xFC000000#32 0x08000000#32 (.addi (w.extractLsb' 21 5) (w.extractLsb' 16 5) (w.extractLsb' 0 16))

/-- Major 0x03 (R177 Table 2): ANDI. -/
def decodeMajor03 (w : InstrWord) : Except DecodeErr Instr :=
  row w 0xFC000000#32 0x0C000000#32 (.andi (w.extractLsb' 21 5) (w.extractLsb' 16 5) (w.extractLsb' 0 16))

/-- Major 0x04 (R177 Table 2): ORI. -/
def decodeMajor04 (w : InstrWord) : Except DecodeErr Instr :=
  row w 0xFC000000#32 0x10000000#32 (.ori (w.extractLsb' 21 5) (w.extractLsb' 16 5) (w.extractLsb' 0 16))

/-- Major 0x05 (R177 Table 2): XORI. -/
def decodeMajor05 (w : InstrWord) : Except DecodeErr Instr :=
  row w 0xFC000000#32 0x14000000#32 (.xori (w.extractLsb' 21 5) (w.extractLsb' 16 5) (w.extractLsb' 0 16))

/-- Major 0x06 (R177 Table 2): SHLI. -/
def decodeMajor06 (w : InstrWord) : Except DecodeErr Instr :=
  row w 0xFC00FFC0#32 0x18000000#32 (.shli (w.extractLsb' 21 5) (w.extractLsb' 16 5) (w.extractLsb' 0 6))

/-- Major 0x07 (R177 Table 2): SHRI. -/
def decodeMajor07 (w : InstrWord) : Except DecodeErr Instr :=
  row w 0xFC00FFC0#32 0x1C000000#32 (.shri (w.extractLsb' 21 5) (w.extractLsb' 16 5) (w.extractLsb' 0 6))

/-- Major 0x08 (R177 Table 2): SARI. -/
def decodeMajor08 (w : InstrWord) : Except DecodeErr Instr :=
  row w 0xFC00FFC0#32 0x20000000#32 (.sari (w.extractLsb' 21 5) (w.extractLsb' 16 5) (w.extractLsb' 0 6))

/-- Major 0x09 (R177 Table 2): SLTI. -/
def decodeMajor09 (w : InstrWord) : Except DecodeErr Instr :=
  row w 0xFC000000#32 0x24000000#32 (.slti (w.extractLsb' 21 5) (w.extractLsb' 16 5) (w.extractLsb' 0 16))

/-- Major 0x0A (R177 Table 2): SLTIU. -/
def decodeMajor0A (w : InstrWord) : Except DecodeErr Instr :=
  row w 0xFC000000#32 0x28000000#32 (.sltiu (w.extractLsb' 21 5) (w.extractLsb' 16 5) (w.extractLsb' 0 16))

/-- Major 0x0B (R177 Table 2): LIH. -/
def decodeMajor0B (w : InstrWord) : Except DecodeErr Instr :=
  row w 0xFC000000#32 0x2C000000#32 (.lih (w.extractLsb' 21 5) (w.extractLsb' 16 5) (w.extractLsb' 0 16))

/-- Major 0x0C (R177 Table 2): BEQ. -/
def decodeMajor0C (w : InstrWord) : Except DecodeErr Instr :=
  row w 0xFC000000#32 0x30000000#32 (.beq (w.extractLsb' 21 5) (w.extractLsb' 16 5) (w.extractLsb' 0 16))

/-- Major 0x0D (R177 Table 2): BNE. -/
def decodeMajor0D (w : InstrWord) : Except DecodeErr Instr :=
  row w 0xFC000000#32 0x34000000#32 (.bne (w.extractLsb' 21 5) (w.extractLsb' 16 5) (w.extractLsb' 0 16))

/-- Major 0x0E (R177 Table 2): BLT. -/
def decodeMajor0E (w : InstrWord) : Except DecodeErr Instr :=
  row w 0xFC000000#32 0x38000000#32 (.blt (w.extractLsb' 21 5) (w.extractLsb' 16 5) (w.extractLsb' 0 16))

/-- Major 0x0F (R177 Table 2): BGE. -/
def decodeMajor0F (w : InstrWord) : Except DecodeErr Instr :=
  row w 0xFC000000#32 0x3C000000#32 (.bge (w.extractLsb' 21 5) (w.extractLsb' 16 5) (w.extractLsb' 0 16))

/-- Major 0x10 (R177 Table 2): BLTU. -/
def decodeMajor10 (w : InstrWord) : Except DecodeErr Instr :=
  row w 0xFC000000#32 0x40000000#32 (.bltu (w.extractLsb' 21 5) (w.extractLsb' 16 5) (w.extractLsb' 0 16))

/-- Major 0x11 (R177 Table 2): BGEU. -/
def decodeMajor11 (w : InstrWord) : Except DecodeErr Instr :=
  row w 0xFC000000#32 0x44000000#32 (.bgeu (w.extractLsb' 21 5) (w.extractLsb' 16 5) (w.extractLsb' 0 16))

/-- Major 0x12 (R177 Table 2): JMP. -/
def decodeMajor12 (w : InstrWord) : Except DecodeErr Instr :=
  row w 0xFC000000#32 0x48000000#32 (.jmp (w.extractLsb' 0 26))

/-- Major 0x13 (R177 Table 2): JAL. -/
def decodeMajor13 (w : InstrWord) : Except DecodeErr Instr :=
  row w 0xFC000000#32 0x4C000000#32 (.jal (w.extractLsb' 0 26))

/-- Major 0x14 (R177 Table 2): JALR. -/
def decodeMajor14 (w : InstrWord) : Except DecodeErr Instr :=
  row w 0xFC000000#32 0x50000000#32 (.jalr (w.extractLsb' 21 5) (w.extractLsb' 16 5) (w.extractLsb' 0 16))

/-- Major 0x15 (R177 Table 2): LOOP. -/
def decodeMajor15 (w : InstrWord) : Except DecodeErr Instr :=
  row w 0xFC1F0000#32 0x54000000#32 (.loop (w.extractLsb' 21 5) (w.extractLsb' 0 16))

/-- Major 0x16 (R177 Table 2): END. -/
def decodeMajor16 (w : InstrWord) : Except DecodeErr Instr :=
  row w 0xFFFFFFFF#32 0x58000000#32 .endStream

/-- Major 0x17 (R177 Table 2): CRR, CRW, CRSET, CRCLR, QTEST, SFSET, SFCLR, SFWAIT …. -/
def decodeMajor17 (w : InstrWord) : Except DecodeErr Instr :=
  match (w.extractLsb' 12 4).toNat with
  | 0 => row w 0xFC1FF000#32 0x5C000000#32 (.crr (w.extractLsb' 21 5) (w.extractLsb' 0 12))
  | 1 => row w 0xFFE0F000#32 0x5C001000#32 (.crw (w.extractLsb' 16 5) (w.extractLsb' 0 12))
  | 2 => row w 0xFFE0F000#32 0x5C002000#32 (.crset (w.extractLsb' 16 5) (w.extractLsb' 0 12))
  | 3 => row w 0xFFE0F000#32 0x5C003000#32 (.crclr (w.extractLsb' 16 5) (w.extractLsb' 0 12))
  | 4 => row w 0xFC1FFFF8#32 0x5C004000#32 (.qtest (w.extractLsb' 21 5) (w.extractLsb' 0 3))
  | 5 => row w 0xFFFFFFF0#32 0x5C005000#32 (.sfset (w.extractLsb' 0 4))
  | 6 => row w 0xFFFFFFF0#32 0x5C006000#32 (.sfclr (w.extractLsb' 0 4))
  | 7 => row w 0xFFFFFFF0#32 0x5C007000#32 (.sfwait (w.extractLsb' 0 4))
  | 8 => row w 0xFC1FFFF0#32 0x5C008000#32 (.sftest (w.extractLsb' 21 5) (w.extractLsb' 0 4))
  | _ => .error .reservedFn

/-- Major 0x18 (R177 Table 2): FENCE, FENCEL, FENCEH. -/
def decodeMajor18 (w : InstrWord) : Except DecodeErr Instr :=
  match (w.extractLsb' 14 2).toNat with
  | 0 => row w 0xFFFFFFE0#32 0x60000000#32 (.fence (w.extractLsb' 2 3) (w.extractLsb' 0 2))
  | 1 => row w 0xFFFFFFFF#32 0x60004000#32 .fencel
  | 2 => row w 0xFFE0FFFF#32 0x6000801F#32 (.fenceh (w.extractLsb' 16 5))
  | _ => .error .reservedFn

/-- Major 0x19 (R177 Table 2): TRAP, ERET, BRK, SNAP, IDLE. -/
def decodeMajor19 (w : InstrWord) : Except DecodeErr Instr :=
  match (w.extractLsb' 0 8).toNat with
  | 0 => row w 0xFFE0FDFF#32 0x64000000#32 (.trap { reg := w.extractLsb' 16 5, mark := w.extractLsb' 9 1 })
  | 1 => row w 0xFFFFFFFF#32 0x64000001#32 .eret
  | 2 => row w 0xFFFFFFFF#32 0x64000002#32 .brk
  | 3 => row w 0xFFFFFFFF#32 0x64000003#32 .snap
  | 4 => row w 0xFFFFFFFF#32 0x64000004#32 .idle
  | _ => .error .reservedFn

/-- Major 0x1A (R177 Table 2): CHEN, CHDIS, CHHOLD, CHREL, CHPEND, MSGID. -/
def decodeMajor1A (w : InstrWord) : Except DecodeErr Instr :=
  match (w.extractLsb' 0 8).toNat with
  | 0 => row w 0xFFE0FDFF#32 0x68000000#32 (.chen (w.extractLsb' 16 5) (w.extractLsb' 9 1))
  | 1 => row w 0xFFE0FDFF#32 0x68000001#32 (.chdis (w.extractLsb' 16 5) (w.extractLsb' 9 1))
  | 2 => row w 0xFFE0FDFF#32 0x68000002#32 (.chhold (w.extractLsb' 16 5) (w.extractLsb' 9 1))
  | 3 => row w 0xFFE0FDFF#32 0x68000003#32 (.chrel (w.extractLsb' 16 5) (w.extractLsb' 9 1))
  | 4 => row w 0xFFE001FF#32 0x68000004#32 (.chpend (w.extractLsb' 16 5) (w.extractLsb' 11 5) (w.extractLsb' 10 1) (w.extractLsb' 9 1))
  | 5 => row w 0xFC1FFEFF#32 0x68000005#32 (.msgid (w.extractLsb' 21 5) (w.extractLsb' 8 1))
  | _ => .error .reservedFn

/-- Major 0x20 (R177 Table 2): LD_IMM, LDQ_IMM, LDC_IMM. -/
def decodeMajor20 (w : InstrWord) : Except DecodeErr Instr :=
  if w.extractLsb' 15 1 = 1#1 then row w 0xFC008000#32 0x80008000#32 (.ldqImm (w.extractLsb' 21 5) (w.extractLsb' 16 5) (w.extractLsb' 14 1) (w.extractLsb' 13 1) (w.extractLsb' 10 3) (w.extractLsb' 0 10))
  else if w.extractLsb' 10 3 = 7#3 then row w 0xFC00BC00#32 0x80001C00#32 (.ldcImm (w.extractLsb' 21 5) (w.extractLsb' 16 5) (w.extractLsb' 14 1) (w.extractLsb' 0 10))
  else row w 0xFC008000#32 0x80000000#32 (.ldImm (w.extractLsb' 21 5) (w.extractLsb' 16 5) (w.extractLsb' 14 1) (w.extractLsb' 13 1) (w.extractLsb' 10 3) (w.extractLsb' 0 10))

/-- Major 0x21 (R177 Table 2): ST_IMM, STQ_IMM, STC_IMM. -/
def decodeMajor21 (w : InstrWord) : Except DecodeErr Instr :=
  if w.extractLsb' 15 1 = 1#1 then row w 0xFC00E000#32 0x84008000#32 (.stqImm (w.extractLsb' 21 5) (w.extractLsb' 16 5) (w.extractLsb' 10 3) (w.extractLsb' 0 10))
  else if w.extractLsb' 10 3 = 7#3 then row w 0xFC00FC00#32 0x84001C00#32 (.stcImm (w.extractLsb' 21 5) (w.extractLsb' 16 5) (w.extractLsb' 0 10))
  else row w 0xFC00E000#32 0x84000000#32 (.stImm (w.extractLsb' 21 5) (w.extractLsb' 16 5) (w.extractLsb' 10 3) (w.extractLsb' 0 10))

/-- Major 0x22 (R177 Table 2): LD_REG, LDQ_REG, LDC_REG. -/
def decodeMajor22 (w : InstrWord) : Except DecodeErr Instr :=
  if w.extractLsb' 8 1 = 1#1 then row w 0xFC000383#32 0x88000100#32 (.ldqReg (w.extractLsb' 21 5) (w.extractLsb' 16 5) (w.extractLsb' 11 5) (w.extractLsb' 10 1) (w.extractLsb' 6 1) (w.extractLsb' 5 1) (w.extractLsb' 2 3))
  else if w.extractLsb' 2 3 = 7#3 then row w 0xFC0003BF#32 0x8800001C#32 (.ldcReg (w.extractLsb' 21 5) (w.extractLsb' 16 5) (w.extractLsb' 11 5) (w.extractLsb' 10 1) (w.extractLsb' 6 1))
  else row w 0xFC000383#32 0x88000000#32 (.ldReg (w.extractLsb' 21 5) (w.extractLsb' 16 5) (w.extractLsb' 11 5) (w.extractLsb' 10 1) (w.extractLsb' 6 1) (w.extractLsb' 5 1) (w.extractLsb' 2 3))

/-- Major 0x23 (R177 Table 2): ST_REG, STQ_REG, STC_REG. -/
def decodeMajor23 (w : InstrWord) : Except DecodeErr Instr :=
  if w.extractLsb' 8 1 = 1#1 then row w 0xFC0003E3#32 0x8C000100#32 (.stqReg (w.extractLsb' 21 5) (w.extractLsb' 16 5) (w.extractLsb' 11 5) (w.extractLsb' 10 1) (w.extractLsb' 2 3))
  else if w.extractLsb' 2 3 = 7#3 then row w 0xFC0003FF#32 0x8C00001C#32 (.stcReg (w.extractLsb' 21 5) (w.extractLsb' 16 5) (w.extractLsb' 11 5) (w.extractLsb' 10 1))
  else row w 0xFC0003E3#32 0x8C000000#32 (.stReg (w.extractLsb' 21 5) (w.extractLsb' 16 5) (w.extractLsb' 11 5) (w.extractLsb' 10 1) (w.extractLsb' 2 3))

/-- Major 0x24 (R177 Table 2): AMO, CAS. -/
def decodeMajor24 (w : InstrWord) : Except DecodeErr Instr :=
  match (w.extractLsb' 0 4).toNat with
  | 15 => row w 0xFC0003EF#32 0x9000000F#32 (.cas (w.extractLsb' 21 5) (w.extractLsb' 16 5) (w.extractLsb' 11 5) (w.extractLsb' 10 1) (w.extractLsb' 4 1))
  | 0 | 1 | 2 | 3 | 4 | 5 | 6 | 7 | 8 => row w 0xFC0002E0#32 0x90000000#32 (.amo (w.extractLsb' 21 5) (w.extractLsb' 16 5) (w.extractLsb' 11 5) (w.extractLsb' 10 1) (w.extractLsb' 8 1) (w.extractLsb' 4 1) (w.extractLsb' 0 4))
  | _ => .error .reservedFn

/-- Major 0x25 (R177 Table 2): SPILL_A, SPILL_C, FILL_A, FILL_C. -/
def decodeMajor25 (w : InstrWord) : Except DecodeErr Instr :=
  match (w.extractLsb' 0 8).toNat with
  | 0 => row w 0xFFE0FDFF#32 0x94000000#32 (.spillA (w.extractLsb' 16 5) (w.extractLsb' 9 1))
  | 1 => row w 0xFFE0FFFF#32 0x94000001#32 (.spillC (w.extractLsb' 16 5))
  | 2 => row w 0xFC1FFEFF#32 0x94000002#32 (.fillA (w.extractLsb' 21 5) (w.extractLsb' 8 1))
  | 3 => row w 0xFC1FFFFF#32 0x94000003#32 (.fillC (w.extractLsb' 21 5))
  | _ => .error .reservedFn

/-- Major 0x26 (R177 Table 2): KBASE, KLEN, KPERM, KTAG, KTYPE, KADDR, KSETA, KADD …. -/
def decodeMajor26 (w : InstrWord) : Except DecodeErr Instr :=
  match (w.extractLsb' 0 8).toNat with
  | 0 => row w 0xFC00FEFF#32 0x98000000#32 (.kbase (w.extractLsb' 21 5) (w.extractLsb' 16 5) (w.extractLsb' 8 1))
  | 1 => row w 0xFC00FEFF#32 0x98000001#32 (.klen (w.extractLsb' 21 5) (w.extractLsb' 16 5) (w.extractLsb' 8 1))
  | 2 => row w 0xFC00FEFF#32 0x98000002#32 (.kperm (w.extractLsb' 21 5) (w.extractLsb' 16 5) (w.extractLsb' 8 1))
  | 3 => row w 0xFC00FEFF#32 0x98000003#32 (.ktag (w.extractLsb' 21 5) (w.extractLsb' 16 5) (w.extractLsb' 8 1))
  | 4 => row w 0xFC00FEFF#32 0x98000004#32 (.ktype (w.extractLsb' 21 5) (w.extractLsb' 16 5) (w.extractLsb' 8 1))
  | 5 => row w 0xFC00FEFF#32 0x98000005#32 (.kaddr (w.extractLsb' 21 5) (w.extractLsb' 16 5) (w.extractLsb' 8 1))
  | 6 => row w 0xFC0003FF#32 0x98000006#32 (.kseta (w.extractLsb' 21 5) (w.extractLsb' 16 5) (w.extractLsb' 11 5) (w.extractLsb' 10 1))
  | 7 => row w 0xFC0003FF#32 0x98000007#32 (.kadd (w.extractLsb' 21 5) (w.extractLsb' 16 5) (w.extractLsb' 11 5) (w.extractLsb' 10 1))
  | 8 => row w 0xFC0003FF#32 0x98000008#32 (.kclip (w.extractLsb' 21 5) (w.extractLsb' 16 5) (w.extractLsb' 11 5) (w.extractLsb' 10 1))
  | 9 => row w 0xFC0003FF#32 0x98000009#32 (.kclipx (w.extractLsb' 21 5) (w.extractLsb' 16 5) (w.extractLsb' 11 5) (w.extractLsb' 10 1))
  | 10 => row w 0xFC0003FF#32 0x9800000A#32 (.kmask (w.extractLsb' 21 5) (w.extractLsb' 16 5) (w.extractLsb' 11 5) (w.extractLsb' 10 1))
  | 11 => row w 0xFC0007FF#32 0x9800000B#32 (.kseal (w.extractLsb' 21 5) (w.extractLsb' 16 5) (w.extractLsb' 11 5))
  | 12 => row w 0xFC0007FF#32 0x9800000C#32 (.kunseal (w.extractLsb' 21 5) (w.extractLsb' 16 5) (w.extractLsb' 11 5))
  | 13 => row w 0xFC00FFFF#32 0x9800000D#32 (.kdrop (w.extractLsb' 21 5) (w.extractLsb' 16 5))
  | 14 => row w 0xFC0006FF#32 0x9800000E#32 (.kdiff (w.extractLsb' 21 5) (w.extractLsb' 16 5) (w.extractLsb' 11 5) (w.extractLsb' 8 1))
  | 15 => row w 0xFC00FFFF#32 0x9800000F#32 (.kmov (w.extractLsb' 21 5) (w.extractLsb' 16 5))
  | 16 => row w 0xFC0006FF#32 0x98000010#32 (.kspan (w.extractLsb' 21 5) (w.extractLsb' 16 5) (w.extractLsb' 11 5) (w.extractLsb' 8 1))
  | _ => .error .reservedFn

/-- Major 0x27 (R177 Table 2): KADDI. -/
def decodeMajor27 (w : InstrWord) : Except DecodeErr Instr :=
  row w 0xFC000000#32 0x9C000000#32 (.kaddi (w.extractLsb' 21 5) (w.extractLsb' 16 5) (w.extractLsb' 0 16))

/-- Major 0x28 (R177 Table 2): COPY, PULL, PULL2, GATHER, PREF, FLUSH, INVAL. -/
def decodeMajor28 (w : InstrWord) : Except DecodeErr Instr :=
  match (w.extractLsb' 0 3).toNat with
  | 0 => row w 0xFC000387#32 0xA0000000#32 (.copy (w.extractLsb' 21 5) (w.extractLsb' 16 5) (w.extractLsb' 11 5) (w.extractLsb' 10 1) (w.extractLsb' 3 4))
  | 1 => row w 0xFC000387#32 0xA0000001#32 (.pull (w.extractLsb' 21 5) (w.extractLsb' 16 5) (w.extractLsb' 11 5) (w.extractLsb' 10 1) (w.extractLsb' 3 4))
  | 2 => row w 0xFC000787#32 0xA0000002#32 (.pull2 (w.extractLsb' 21 5) (w.extractLsb' 16 5) (w.extractLsb' 11 5) (w.extractLsb' 3 4))
  | 3 => row w 0xFC000387#32 0xA0000003#32 (.gather (w.extractLsb' 21 5) (w.extractLsb' 16 5) (w.extractLsb' 11 5) (w.extractLsb' 10 1) (w.extractLsb' 3 4))
  | 4 => row w 0xFFE00307#32 0xA0000004#32 (.pref (w.extractLsb' 16 5) (w.extractLsb' 11 5) (w.extractLsb' 10 1) (w.extractLsb' 7 1) (w.extractLsb' 3 4))
  | 5 => row w 0xFFE00387#32 0xA0000005#32 (.flush (w.extractLsb' 16 5) (w.extractLsb' 11 5) (w.extractLsb' 10 1) (w.extractLsb' 3 4))
  | 6 => row w 0xFFE00387#32 0xA0000006#32 (.inval (w.extractLsb' 16 5) (w.extractLsb' 11 5) (w.extractLsb' 10 1) (w.extractLsb' 3 4))
  | _ => .error .reservedFn

/-- Major 0x29 (R177 Table 2): BINIT, BARR, BWAIT, BTEST. -/
def decodeMajor29 (w : InstrWord) : Except DecodeErr Instr :=
  match (w.extractLsb' 0 8).toNat with
  | 0 => row w 0xFFE007FF#32 0xA4000000#32 (.binit (w.extractLsb' 16 5) (w.extractLsb' 11 5))
  | 1 => row w 0xFFE0FFFF#32 0xA4000001#32 (.barr (w.extractLsb' 16 5))
  | 2 => row w 0xFC00FEFF#32 0xA4000002#32 (.bwait (w.extractLsb' 21 5) (w.extractLsb' 16 5) (w.extractLsb' 8 1))
  | 3 => row w 0xFC00FEFF#32 0xA4000003#32 (.btest (w.extractLsb' 21 5) (w.extractLsb' 16 5) (w.extractLsb' 8 1))
  | _ => .error .reservedFn

/-- Major 0x2A (R177 Table 2): MQ_A. -/
def decodeMajor2A (w : InstrWord) : Except DecodeErr Instr :=
  row w 0xFC000000#32 0xA8000000#32 (.mqA (w.extractLsb' 21 5) (w.extractLsb' 16 5) (w.extractLsb' 0 16))

/-- Major 0x2B (R177 Table 2): ACHAIN. -/
def decodeMajor2B (w : InstrWord) : Except DecodeErr Instr :=
  match (w.extractLsb' 0 3).toNat with
  | 0 | 1 | 2 | 3 | 4 => row w 0xFFE00300#32 0xAC000000#32 (.achain (w.extractLsb' 16 5) (w.extractLsb' 11 5) (w.extractLsb' 10 1) (w.extractLsb' 3 5) (w.extractLsb' 0 3))
  | _ => .error .reservedFn

/-- Major 0x2C (R177 Table 2): ADISARM, ATEST. -/
def decodeMajor2C (w : InstrWord) : Except DecodeErr Instr :=
  match (w.extractLsb' 0 1).toNat with
  | 0 => row w 0xFFFFFFC1#32 0xB0000000#32 (.adisarm (w.extractLsb' 1 5))
  | 1 => row w 0xFC1FFEC1#32 0xB0000001#32 (.atest (w.extractLsb' 21 5) (w.extractLsb' 8 1) (w.extractLsb' 1 5))
  | _ => .error .reservedFn

/-- Major 0x2D (R177 Table 2): SENDC, SEQADV, WATCH, UNWATCH, EPBIND. -/
def decodeMajor2D (w : InstrWord) : Except DecodeErr Instr :=
  match (w.extractLsb' 0 3).toNat with
  | 0 => row w 0xFFE00587#32 0xB4000000#32 (.sendc (w.extractLsb' 16 5) (w.extractLsb' 11 5) (w.extractLsb' 9 1) (w.extractLsb' 3 4))
  | 1 => row w 0xFFE003FF#32 0xB4000001#32 (.seqadv (w.extractLsb' 16 5) (w.extractLsb' 11 5) (w.extractLsb' 10 1))
  | 2 => row w 0xFC0003FF#32 0xB4000002#32 (.watch (w.extractLsb' 21 5) (w.extractLsb' 16 5) (w.extractLsb' 11 5) (w.extractLsb' 10 1))
  | 3 => row w 0xFC00FFFF#32 0xB4000003#32 (.unwatch (w.extractLsb' 21 5) (w.extractLsb' 16 5))
  | 4 => row w 0xFC00FFFF#32 0xB4000004#32 (.epbind (w.extractLsb' 21 5) (w.extractLsb' 16 5))
  | _ => .error .reservedFn

/-- Major 0x2E (R177 Table 2): RVMARK, RVMARK_CLR, RVSWEEP. -/
def decodeMajor2E (w : InstrWord) : Except DecodeErr Instr :=
  match (w.extractLsb' 0 8).toNat with
  | 0 => row w 0xFFE003FF#32 0xB8000000#32 (.rvmark (w.extractLsb' 16 5) (w.extractLsb' 11 5) (w.extractLsb' 10 1))
  | 1 => row w 0xFFE003FF#32 0xB8000001#32 (.rvmarkClr (w.extractLsb' 16 5) (w.extractLsb' 11 5) (w.extractLsb' 10 1))
  | 2 => row w 0xFFE0FFFF#32 0xB8000002#32 (.rvsweep (w.extractLsb' 16 5))
  | _ => .error .reservedFn

/-- Major 0x30 (R177 Table 2): VADD, VSUB, VMUL, VFMA, VDIV, VSQRT, VMIN, VMAX …. -/
def decodeMajor30 (w : InstrWord) : Except DecodeErr Instr :=
  match (w.extractLsb' 0 4).toNat with
  | 0 => row w 0xFC00000F#32 0xC0000000#32 (.vadd (w.extractLsb' 21 5) (w.extractLsb' 16 5) (w.extractLsb' 11 5) (w.extractLsb' 8 3) (w.extractLsb' 4 4))
  | 1 => row w 0xFC00000F#32 0xC0000001#32 (.vsub (w.extractLsb' 21 5) (w.extractLsb' 16 5) (w.extractLsb' 11 5) (w.extractLsb' 8 3) (w.extractLsb' 4 4))
  | 2 => row w 0xFC00000F#32 0xC0000002#32 (.vmul (w.extractLsb' 21 5) (w.extractLsb' 16 5) (w.extractLsb' 11 5) (w.extractLsb' 8 3) (w.extractLsb' 4 4))
  | 3 => row w 0xFC00000F#32 0xC0000003#32 (.vfma (w.extractLsb' 21 5) (w.extractLsb' 16 5) (w.extractLsb' 11 5) (w.extractLsb' 8 3) (w.extractLsb' 4 4))
  | 4 => row w 0xFC00000F#32 0xC0000004#32 (.vdiv (w.extractLsb' 21 5) (w.extractLsb' 16 5) (w.extractLsb' 11 5) (w.extractLsb' 8 3) (w.extractLsb' 4 4))
  | 5 => row w 0xFC00F80F#32 0xC0000005#32 (.vsqrt (w.extractLsb' 21 5) (w.extractLsb' 16 5) (w.extractLsb' 8 3) (w.extractLsb' 4 4))
  | 6 => row w 0xFC00000F#32 0xC0000006#32 (.vmin (w.extractLsb' 21 5) (w.extractLsb' 16 5) (w.extractLsb' 11 5) (w.extractLsb' 8 3) (w.extractLsb' 4 4))
  | 7 => row w 0xFC00000F#32 0xC0000007#32 (.vmax (w.extractLsb' 21 5) (w.extractLsb' 16 5) (w.extractLsb' 11 5) (w.extractLsb' 8 3) (w.extractLsb' 4 4))
  | 8 => row w 0xFC00F80F#32 0xC0000008#32 (.vabs (w.extractLsb' 21 5) (w.extractLsb' 16 5) (w.extractLsb' 8 3) (w.extractLsb' 4 4))
  | 9 => row w 0xFC00F80F#32 0xC0000009#32 (.vneg (w.extractLsb' 21 5) (w.extractLsb' 16 5) (w.extractLsb' 8 3) (w.extractLsb' 4 4))
  | 10 => row w 0xFC00000F#32 0xC000000A#32 (.vand (w.extractLsb' 21 5) (w.extractLsb' 16 5) (w.extractLsb' 11 5) (w.extractLsb' 8 3) (w.extractLsb' 4 4))
  | 11 => row w 0xFC00000F#32 0xC000000B#32 (.vor (w.extractLsb' 21 5) (w.extractLsb' 16 5) (w.extractLsb' 11 5) (w.extractLsb' 8 3) (w.extractLsb' 4 4))
  | 12 => row w 0xFC00000F#32 0xC000000C#32 (.vxor (w.extractLsb' 21 5) (w.extractLsb' 16 5) (w.extractLsb' 11 5) (w.extractLsb' 8 3) (w.extractLsb' 4 4))
  | 13 => row w 0xFC00000F#32 0xC000000D#32 (.vshl (w.extractLsb' 21 5) (w.extractLsb' 16 5) (w.extractLsb' 11 5) (w.extractLsb' 8 3) (w.extractLsb' 4 4))
  | 14 => row w 0xFC00000F#32 0xC000000E#32 (.vshr (w.extractLsb' 21 5) (w.extractLsb' 16 5) (w.extractLsb' 11 5) (w.extractLsb' 8 3) (w.extractLsb' 4 4))
  | 15 => row w 0xFC00000F#32 0xC000000F#32 (.vsar (w.extractLsb' 21 5) (w.extractLsb' 16 5) (w.extractLsb' 11 5) (w.extractLsb' 8 3) (w.extractLsb' 4 4))
  | _ => .error .reservedFn

/-- Major 0x31 (R177 Table 2): VCMP, VSEL, VCVT, VRED, VSCAN, VPERM, VBCAST, VINS …. -/
def decodeMajor31 (w : InstrWord) : Except DecodeErr Instr :=
  match (w.extractLsb' 0 4).toNat with
  | 0 => row w 0xFC00000F#32 0xC4000000#32 (.vcmp (w.extractLsb' 24 2) (w.extractLsb' 21 3) (w.extractLsb' 16 5) (w.extractLsb' 11 5) (w.extractLsb' 8 3) (w.extractLsb' 4 4))
  | 1 => row w 0xFC0000FF#32 0xC4000001#32 (.vsel (w.extractLsb' 21 5) (w.extractLsb' 16 5) (w.extractLsb' 11 5) (w.extractLsb' 8 3))
  | 2 => row w 0xFC00800F#32 0xC4000002#32 (.vcvt (w.extractLsb' 21 5) (w.extractLsb' 16 5) (w.extractLsb' 11 4) (w.extractLsb' 8 3) (w.extractLsb' 4 4))
  | 3 => if 6 ≤ (w.extractLsb' 11 3).toNat then .error .reservedFn else row w 0xFC00C00F#32 0xC4000003#32 (.vred (w.extractLsb' 21 5) (w.extractLsb' 16 5) (w.extractLsb' 11 3) (w.extractLsb' 8 3) (w.extractLsb' 4 4))
  | 4 => if 6 ≤ (w.extractLsb' 11 3).toNat then .error .reservedFn else row w 0xFC00C00F#32 0xC4000004#32 (.vscan (w.extractLsb' 21 5) (w.extractLsb' 16 5) (w.extractLsb' 11 3) (w.extractLsb' 8 3) (w.extractLsb' 4 4))
  | 5 => row w 0xFC0000FF#32 0xC4000005#32 (.vperm (w.extractLsb' 21 5) (w.extractLsb' 16 5) (w.extractLsb' 11 5) (w.extractLsb' 8 3))
  | 6 => row w 0xFC00F80F#32 0xC4000006#32 (.vbcast (w.extractLsb' 21 5) (w.extractLsb' 16 5) (w.extractLsb' 8 3) (w.extractLsb' 4 4))
  | 7 => row w 0xFC00070F#32 0xC4000007#32 (.vins (w.extractLsb' 21 5) (w.extractLsb' 16 5) (w.extractLsb' 11 5) (w.extractLsb' 4 4))
  | 8 => row w 0xFC00070F#32 0xC4000008#32 (.vext (w.extractLsb' 21 5) (w.extractLsb' 16 5) (w.extractLsb' 11 5) (w.extractLsb' 4 4))
  | 9 => row w 0xFC1FFFFF#32 0xC4000009#32 (.vlq (w.extractLsb' 21 5))
  | 10 => row w 0xFFE0FFFF#32 0xC400000A#32 (.vsq (w.extractLsb' 16 5))
  | 11 => row w 0xFC1FF80F#32 0xC400000B#32 (.viota (w.extractLsb' 21 5) (w.extractLsb' 8 3) (w.extractLsb' 4 4))
  | _ => .error .reservedFn

/-- Major 0x32 (R177 Table 2): MAND, MOR, MXOR, MNOT, MCNT, MSET. -/
def decodeMajor32 (w : InstrWord) : Except DecodeErr Instr :=
  match (w.extractLsb' 0 4).toNat with
  | 0 => row w 0xFF18C7FF#32 0xC8000000#32 (.mand (w.extractLsb' 21 3) (w.extractLsb' 16 3) (w.extractLsb' 11 3))
  | 1 => row w 0xFF18C7FF#32 0xC8000001#32 (.mor (w.extractLsb' 21 3) (w.extractLsb' 16 3) (w.extractLsb' 11 3))
  | 2 => row w 0xFF18C7FF#32 0xC8000002#32 (.mxor (w.extractLsb' 21 3) (w.extractLsb' 16 3) (w.extractLsb' 11 3))
  | 3 => row w 0xFF18FFFF#32 0xC8000003#32 (.mnot (w.extractLsb' 21 3) (w.extractLsb' 16 3))
  | 4 => row w 0xFC18FFFF#32 0xC8000004#32 (.mcnt (w.extractLsb' 21 5) (w.extractLsb' 16 3))
  | 5 => row w 0xFF00FFFF#32 0xC8000005#32 (.mset (w.extractLsb' 21 3) (w.extractLsb' 16 5))
  | _ => .error .reservedFn

/-- Major 0x33 (R177 Table 2): FADD, FSUB, FMUL, FMADD, FDIV, FSQRT, FMIN, FMAX …. -/
def decodeMajor33 (w : InstrWord) : Except DecodeErr Instr :=
  match (w.extractLsb' 0 4).toNat with
  | 0 => row w 0xFC00000F#32 0xCC000000#32 (.fadd (w.extractLsb' 21 5) (w.extractLsb' 16 5) (w.extractLsb' 11 5) (w.extractLsb' 8 3) (w.extractLsb' 4 4))
  | 1 => row w 0xFC00000F#32 0xCC000001#32 (.fsub (w.extractLsb' 21 5) (w.extractLsb' 16 5) (w.extractLsb' 11 5) (w.extractLsb' 8 3) (w.extractLsb' 4 4))
  | 2 => row w 0xFC00000F#32 0xCC000002#32 (.fmul (w.extractLsb' 21 5) (w.extractLsb' 16 5) (w.extractLsb' 11 5) (w.extractLsb' 8 3) (w.extractLsb' 4 4))
  | 3 => row w 0xFC00010F#32 0xCC000003#32 (.fmadd (w.extractLsb' 21 5) (w.extractLsb' 16 5) (w.extractLsb' 11 5) (w.extractLsb' 9 2) (w.extractLsb' 4 4))
  | 4 => row w 0xFC00000F#32 0xCC000004#32 (.fdiv (w.extractLsb' 21 5) (w.extractLsb' 16 5) (w.extractLsb' 11 5) (w.extractLsb' 8 3) (w.extractLsb' 4 4))
  | 5 => row w 0xFC00FC0F#32 0xCC000005#32 (.fsqrt (w.extractLsb' 21 5) (w.extractLsb' 16 5) (w.extractLsb' 8 2) (w.extractLsb' 4 4))
  | 6 => row w 0xFC00000F#32 0xCC000006#32 (.fmin (w.extractLsb' 21 5) (w.extractLsb' 16 5) (w.extractLsb' 11 5) (w.extractLsb' 8 3) (w.extractLsb' 4 4))
  | 7 => row w 0xFC00000F#32 0xCC000007#32 (.fmax (w.extractLsb' 21 5) (w.extractLsb' 16 5) (w.extractLsb' 11 5) (w.extractLsb' 8 3) (w.extractLsb' 4 4))
  | 8 => row w 0xFC00000F#32 0xCC000008#32 (.feq (w.extractLsb' 21 5) (w.extractLsb' 16 5) (w.extractLsb' 11 5) (w.extractLsb' 8 3) (w.extractLsb' 4 4))
  | 9 => row w 0xFC00000F#32 0xCC000009#32 (.flt (w.extractLsb' 21 5) (w.extractLsb' 16 5) (w.extractLsb' 11 5) (w.extractLsb' 8 3) (w.extractLsb' 4 4))
  | 10 => row w 0xFC00000F#32 0xCC00000A#32 (.fle (w.extractLsb' 21 5) (w.extractLsb' 16 5) (w.extractLsb' 11 5) (w.extractLsb' 8 3) (w.extractLsb' 4 4))
  | 11 => row w 0xFC00840F#32 0xCC00000B#32 (.fcvt (w.extractLsb' 21 5) (w.extractLsb' 16 5) (w.extractLsb' 11 4) (w.extractLsb' 8 2) (w.extractLsb' 4 4))
  | 12 => row w 0xFC00FC0F#32 0xCC00000C#32 (.fclass (w.extractLsb' 21 5) (w.extractLsb' 16 5) (w.extractLsb' 8 2) (w.extractLsb' 4 4))
  | 13 => row w 0xFC00000F#32 0xCC00000D#32 (.fsgn (w.extractLsb' 21 5) (w.extractLsb' 16 5) (w.extractLsb' 11 5) (w.extractLsb' 8 3) (w.extractLsb' 4 4))
  | _ => .error .reservedFn

/-- Major 0x3A (R177 Table 2): MQ_E. -/
def decodeMajor3A (w : InstrWord) : Except DecodeErr Instr :=
  row w 0xFC000000#32 0xE8000000#32 (.mqE (w.extractLsb' 21 5) (w.extractLsb' 16 5) (w.extractLsb' 0 16))

/-- Major 0x3B (R177 Table 2): ASEND, AVSEND. -/
def decodeMajor3B (w : InstrWord) : Except DecodeErr Instr :=
  match (w.extractLsb' 0 1).toNat with
  | 0 => row w 0xFFE0FDFD#32 0xEC000000#32 (.asend (w.extractLsb' 16 5) (w.extractLsb' 9 1) (w.extractLsb' 1 1))
  | 1 => row w 0xFFE005FF#32 0xEC000001#32 (.avsend (w.extractLsb' 16 5) (w.extractLsb' 11 5) (w.extractLsb' 9 1))
  | _ => .error .reservedFn

/-- Major 0x3C (R177 Table 2): SEND, SPAWN, SOPEN, SPUT, SCLOSE. -/
def decodeMajor3C (w : InstrWord) : Except DecodeErr Instr :=
  match (w.extractLsb' 0 8).toNat with
  | 0 => row w 0xFFE005FF#32 0xF0000000#32 (.send (w.extractLsb' 16 5) (w.extractLsb' 11 5) (w.extractLsb' 9 1))
  | 1 => row w 0xFC0004FF#32 0xF0000001#32 (.spawn (w.extractLsb' 21 5) (w.extractLsb' 16 5) (w.extractLsb' 11 5) (w.extractLsb' 9 1) (w.extractLsb' 8 1))
  | 2 => row w 0xFFE0FFFF#32 0xF0000002#32 (.sopen (w.extractLsb' 16 5))
  | 3 => row w 0xFFE0FDFF#32 0xF0000003#32 (.sput (w.extractLsb' 16 5) (w.extractLsb' 9 1))
  | 4 => row w 0xFFFFFFFF#32 0xF0000004#32 .sclose
  | _ => .error .reservedFn

/-- The table row of a word whose major is allocated. -/
def decodeMajor (w : InstrWord) : Except DecodeErr Instr :=
  match (w.extractLsb' 26 6).toNat with
  | 1 => decodeMajor01 w
  | 2 => decodeMajor02 w
  | 3 => decodeMajor03 w
  | 4 => decodeMajor04 w
  | 5 => decodeMajor05 w
  | 6 => decodeMajor06 w
  | 7 => decodeMajor07 w
  | 8 => decodeMajor08 w
  | 9 => decodeMajor09 w
  | 10 => decodeMajor0A w
  | 11 => decodeMajor0B w
  | 12 => decodeMajor0C w
  | 13 => decodeMajor0D w
  | 14 => decodeMajor0E w
  | 15 => decodeMajor0F w
  | 16 => decodeMajor10 w
  | 17 => decodeMajor11 w
  | 18 => decodeMajor12 w
  | 19 => decodeMajor13 w
  | 20 => decodeMajor14 w
  | 21 => decodeMajor15 w
  | 22 => decodeMajor16 w
  | 23 => decodeMajor17 w
  | 24 => decodeMajor18 w
  | 25 => decodeMajor19 w
  | 26 => decodeMajor1A w
  | 32 => decodeMajor20 w
  | 33 => decodeMajor21 w
  | 34 => decodeMajor22 w
  | 35 => decodeMajor23 w
  | 36 => decodeMajor24 w
  | 37 => decodeMajor25 w
  | 38 => decodeMajor26 w
  | 39 => decodeMajor27 w
  | 40 => decodeMajor28 w
  | 41 => decodeMajor29 w
  | 42 => decodeMajor2A w
  | 43 => decodeMajor2B w
  | 44 => decodeMajor2C w
  | 45 => decodeMajor2D w
  | 46 => decodeMajor2E w
  | 48 => decodeMajor30 w
  | 49 => decodeMajor31 w
  | 50 => decodeMajor32 w
  | 51 => decodeMajor33 w
  | 58 => decodeMajor3A w
  | 59 => decodeMajor3B w
  | 60 => decodeMajor3C w
  | _ => .error .unallocated

/-- Checks 5 (field values) and 6 (queue marks) of R183 on a row that was read. -/
def checkFields (st : Stream) (i : Instr) : Except DecodeErr Instr :=
  if fieldsOk i = false then .error .reservedField
  else if (queueMarks i).any (fun k => 6 ≤ k.port.toNat) then .error .queuePort
  else if (queueMarks i).any (fun k => markDirBad st k) then .error .queueDir
  else .ok i

/-- The decoder of a stream (R183). -/
def decode (st : Stream) (w : InstrWord) : Except DecodeErr Instr :=
  if w = 0#32 then .error .zeroWord
  else match majorKind (w.extractLsb' 26 6) with
    | none => .error .unallocated
    | some k =>
      if k = .both ∨ k = .only st then
        match decodeMajor w with
        | .error e => .error e
        | .ok i => checkFields st i
      else .error .streamMajor

/-- A field's bits in place. -/
def put {n : Nat} (x : BitVec n) (lo : Nat) : InstrWord := (x.setWidth 32) <<< lo

/-- The words of an instruction: one word for an instruction of the table, none for an event or tile command
(R173 to R182). -/
def encode : Instr → List InstrWord
  | .add d a b q => [0x04000000#32 ||| put d 21 ||| put a 16 ||| put b 11 ||| put q 8]
  | .sub d a b q => [0x04000001#32 ||| put d 21 ||| put a 16 ||| put b 11 ||| put q 8]
  | .and d a b q => [0x04000002#32 ||| put d 21 ||| put a 16 ||| put b 11 ||| put q 8]
  | .or d a b q => [0x04000003#32 ||| put d 21 ||| put a 16 ||| put b 11 ||| put q 8]
  | .xor d a b q => [0x04000004#32 ||| put d 21 ||| put a 16 ||| put b 11 ||| put q 8]
  | .shl d a b q => [0x04000005#32 ||| put d 21 ||| put a 16 ||| put b 11 ||| put q 8]
  | .shr d a b q => [0x04000006#32 ||| put d 21 ||| put a 16 ||| put b 11 ||| put q 8]
  | .sar d a b q => [0x04000007#32 ||| put d 21 ||| put a 16 ||| put b 11 ||| put q 8]
  | .mul d a b q => [0x04000008#32 ||| put d 21 ||| put a 16 ||| put b 11 ||| put q 8]
  | .mulh d a b q => [0x04000009#32 ||| put d 21 ||| put a 16 ||| put b 11 ||| put q 8]
  | .mulhu d a b q => [0x0400000A#32 ||| put d 21 ||| put a 16 ||| put b 11 ||| put q 8]
  | .div d a b q => [0x0400000B#32 ||| put d 21 ||| put a 16 ||| put b 11 ||| put q 8]
  | .divu d a b q => [0x0400000C#32 ||| put d 21 ||| put a 16 ||| put b 11 ||| put q 8]
  | .rem d a b q => [0x0400000D#32 ||| put d 21 ||| put a 16 ||| put b 11 ||| put q 8]
  | .remu d a b q => [0x0400000E#32 ||| put d 21 ||| put a 16 ||| put b 11 ||| put q 8]
  | .min d a b q => [0x0400000F#32 ||| put d 21 ||| put a 16 ||| put b 11 ||| put q 8]
  | .max d a b q => [0x04000010#32 ||| put d 21 ||| put a 16 ||| put b 11 ||| put q 8]
  | .minu d a b q => [0x04000011#32 ||| put d 21 ||| put a 16 ||| put b 11 ||| put q 8]
  | .maxu d a b q => [0x04000012#32 ||| put d 21 ||| put a 16 ||| put b 11 ||| put q 8]
  | .slt d a b q => [0x04000013#32 ||| put d 21 ||| put a 16 ||| put b 11 ||| put q 8]
  | .sltu d a b q => [0x04000014#32 ||| put d 21 ||| put a 16 ||| put b 11 ||| put q 8]
  | .clz d a q => [0x04000015#32 ||| put d 21 ||| put a 16 ||| put q 8]
  | .ctz d a q => [0x04000016#32 ||| put d 21 ||| put a 16 ||| put q 8]
  | .popc d a q => [0x04000017#32 ||| put d 21 ||| put a 16 ||| put q 8]
  | .sel d a b q => [0x04000018#32 ||| put d 21 ||| put a 16 ||| put b 11 ||| put q 9]
  | .ext d a b q => [0x04000019#32 ||| put d 21 ||| put a 16 ||| put b 11 ||| put q 8]
  | .addi d a i => [0x08000000#32 ||| put d 21 ||| put a 16 ||| put i 0]
  | .andi d a i => [0x0C000000#32 ||| put d 21 ||| put a 16 ||| put i 0]
  | .ori d a i => [0x10000000#32 ||| put d 21 ||| put a 16 ||| put i 0]
  | .xori d a i => [0x14000000#32 ||| put d 21 ||| put a 16 ||| put i 0]
  | .shli d a k => [0x18000000#32 ||| put d 21 ||| put a 16 ||| put k 0]
  | .shri d a k => [0x1C000000#32 ||| put d 21 ||| put a 16 ||| put k 0]
  | .sari d a k => [0x20000000#32 ||| put d 21 ||| put a 16 ||| put k 0]
  | .slti d a i => [0x24000000#32 ||| put d 21 ||| put a 16 ||| put i 0]
  | .sltiu d a i => [0x28000000#32 ||| put d 21 ||| put a 16 ||| put i 0]
  | .lih d a i => [0x2C000000#32 ||| put d 21 ||| put a 16 ||| put i 0]
  | .beq a b o => [0x30000000#32 ||| put a 21 ||| put b 16 ||| put o 0]
  | .bne a b o => [0x34000000#32 ||| put a 21 ||| put b 16 ||| put o 0]
  | .blt a b o => [0x38000000#32 ||| put a 21 ||| put b 16 ||| put o 0]
  | .bge a b o => [0x3C000000#32 ||| put a 21 ||| put b 16 ||| put o 0]
  | .bltu a b o => [0x40000000#32 ||| put a 21 ||| put b 16 ||| put o 0]
  | .bgeu a b o => [0x44000000#32 ||| put a 21 ||| put b 16 ||| put o 0]
  | .jmp o => [0x48000000#32 ||| put o 0]
  | .jal o => [0x4C000000#32 ||| put o 0]
  | .jalr d a i => [0x50000000#32 ||| put d 21 ||| put a 16 ||| put i 0]
  | .loop a o => [0x54000000#32 ||| put a 21 ||| put o 0]
  | .endStream => [0x58000000#32]
  | .crr d n => [0x5C000000#32 ||| put d 21 ||| put n 0]
  | .crw a n => [0x5C001000#32 ||| put a 16 ||| put n 0]
  | .crset a n => [0x5C002000#32 ||| put a 16 ||| put n 0]
  | .crclr a n => [0x5C003000#32 ||| put a 16 ||| put n 0]
  | .qtest d q => [0x5C004000#32 ||| put d 21 ||| put q 0]
  | .sfset f => [0x5C005000#32 ||| put f 0]
  | .sfclr f => [0x5C006000#32 ||| put f 0]
  | .sfwait f => [0x5C007000#32 ||| put f 0]
  | .sftest d f => [0x5C008000#32 ||| put d 21 ||| put f 0]
  | .fence s o => [0x60000000#32 ||| put s 2 ||| put o 0]
  | .fencel => [0x60004000#32]
  | .fenceh a => [0x6000801F#32 ||| put a 16]
  | .trap a => [0x64000000#32 ||| put a.reg 16 ||| put a.mark 9]
  | .eret => [0x64000001#32]
  | .brk => [0x64000002#32]
  | .snap => [0x64000003#32]
  | .idle => [0x64000004#32]
  | .chen a m => [0x68000000#32 ||| put a 16 ||| put m 9]
  | .chdis a m => [0x68000001#32 ||| put a 16 ||| put m 9]
  | .chhold a m => [0x68000002#32 ||| put a 16 ||| put m 9]
  | .chrel a m => [0x68000003#32 ||| put a 16 ||| put m 9]
  | .chpend a b n m => [0x68000004#32 ||| put a 16 ||| put b 11 ||| put n 10 ||| put m 9]
  | .msgid d m => [0x68000005#32 ||| put d 21 ||| put m 8]
  | .ldImm d c n z s o => [0x80000000#32 ||| put d 21 ||| put c 16 ||| put n 14 ||| put z 13 ||| put s 10 ||| put o 0]
  | .ldqImm d c n z s o => [0x80008000#32 ||| put d 21 ||| put c 16 ||| put n 14 ||| put z 13 ||| put s 10 ||| put o 0]
  | .ldcImm d c n o => [0x80001C00#32 ||| put d 21 ||| put c 16 ||| put n 14 ||| put o 0]
  | .stImm v c s o => [0x84000000#32 ||| put v 21 ||| put c 16 ||| put s 10 ||| put o 0]
  | .stqImm v c s o => [0x84008000#32 ||| put v 21 ||| put c 16 ||| put s 10 ||| put o 0]
  | .stcImm v c o => [0x84001C00#32 ||| put v 21 ||| put c 16 ||| put o 0]
  | .ldReg d c b m n z s => [0x88000000#32 ||| put d 21 ||| put c 16 ||| put b 11 ||| put m 10 ||| put n 6 ||| put z 5 ||| put s 2]
  | .ldqReg d c b m n z s => [0x88000100#32 ||| put d 21 ||| put c 16 ||| put b 11 ||| put m 10 ||| put n 6 ||| put z 5 ||| put s 2]
  | .ldcReg d c b m n => [0x8800001C#32 ||| put d 21 ||| put c 16 ||| put b 11 ||| put m 10 ||| put n 6]
  | .stReg v c b m s => [0x8C000000#32 ||| put v 21 ||| put c 16 ||| put b 11 ||| put m 10 ||| put s 2]
  | .stqReg v c b m s => [0x8C000100#32 ||| put v 21 ||| put c 16 ||| put b 11 ||| put m 10 ||| put s 2]
  | .stcReg v c b m => [0x8C00001C#32 ||| put v 21 ||| put c 16 ||| put b 11 ||| put m 10]
  | .amo d c b m n z p => [0x90000000#32 ||| put d 21 ||| put c 16 ||| put b 11 ||| put m 10 ||| put n 8 ||| put z 4 ||| put p 0]
  | .cas d c b m z => [0x9000000F#32 ||| put d 21 ||| put c 16 ||| put b 11 ||| put m 10 ||| put z 4]
  | .spillA a m => [0x94000000#32 ||| put a 16 ||| put m 9]
  | .spillC c => [0x94000001#32 ||| put c 16]
  | .fillA d m => [0x94000002#32 ||| put d 21 ||| put m 8]
  | .fillC d => [0x94000003#32 ||| put d 21]
  | .kbase d c m => [0x98000000#32 ||| put d 21 ||| put c 16 ||| put m 8]
  | .klen d c m => [0x98000001#32 ||| put d 21 ||| put c 16 ||| put m 8]
  | .kperm d c m => [0x98000002#32 ||| put d 21 ||| put c 16 ||| put m 8]
  | .ktag d c m => [0x98000003#32 ||| put d 21 ||| put c 16 ||| put m 8]
  | .ktype d c m => [0x98000004#32 ||| put d 21 ||| put c 16 ||| put m 8]
  | .kaddr d c m => [0x98000005#32 ||| put d 21 ||| put c 16 ||| put m 8]
  | .kseta d c b m => [0x98000006#32 ||| put d 21 ||| put c 16 ||| put b 11 ||| put m 10]
  | .kadd d c b m => [0x98000007#32 ||| put d 21 ||| put c 16 ||| put b 11 ||| put m 10]
  | .kclip d c b m => [0x98000008#32 ||| put d 21 ||| put c 16 ||| put b 11 ||| put m 10]
  | .kclipx d c b m => [0x98000009#32 ||| put d 21 ||| put c 16 ||| put b 11 ||| put m 10]
  | .kmask d c b m => [0x9800000A#32 ||| put d 21 ||| put c 16 ||| put b 11 ||| put m 10]
  | .kseal d c e => [0x9800000B#32 ||| put d 21 ||| put c 16 ||| put e 11]
  | .kunseal d c e => [0x9800000C#32 ||| put d 21 ||| put c 16 ||| put e 11]
  | .kdrop d c => [0x9800000D#32 ||| put d 21 ||| put c 16]
  | .kdiff d c e m => [0x9800000E#32 ||| put d 21 ||| put c 16 ||| put e 11 ||| put m 8]
  | .kmov d c => [0x9800000F#32 ||| put d 21 ||| put c 16]
  | .kspan d a b m => [0x98000010#32 ||| put d 21 ||| put a 16 ||| put b 11 ||| put m 8]
  | .kaddi d c i => [0x9C000000#32 ||| put d 21 ||| put c 16 ||| put i 0]
  | .copy d c b m k => [0xA0000000#32 ||| put d 21 ||| put c 16 ||| put b 11 ||| put m 10 ||| put k 3]
  | .pull d c b m k => [0xA0000001#32 ||| put d 21 ||| put c 16 ||| put b 11 ||| put m 10 ||| put k 3]
  | .pull2 d c b k => [0xA0000002#32 ||| put d 21 ||| put c 16 ||| put b 11 ||| put k 3]
  | .gather d c b m k => [0xA0000003#32 ||| put d 21 ||| put c 16 ||| put b 11 ||| put m 10 ||| put k 3]
  | .pref c b m t k => [0xA0000004#32 ||| put c 16 ||| put b 11 ||| put m 10 ||| put t 7 ||| put k 3]
  | .flush c b m k => [0xA0000005#32 ||| put c 16 ||| put b 11 ||| put m 10 ||| put k 3]
  | .inval c b m k => [0xA0000006#32 ||| put c 16 ||| put b 11 ||| put m 10 ||| put k 3]
  | .binit c b => [0xA4000000#32 ||| put c 16 ||| put b 11]
  | .barr c => [0xA4000001#32 ||| put c 16]
  | .bwait d c m => [0xA4000002#32 ||| put d 21 ||| put c 16 ||| put m 8]
  | .btest d c m => [0xA4000003#32 ||| put d 21 ||| put c 16 ||| put m 8]
  | .mqA x y o => [0xA8000000#32 ||| put x 21 ||| put y 16 ||| put o 0]
  | .mqE x y o => [0xE8000000#32 ||| put x 21 ||| put y 16 ||| put o 0]
  | .achain c b m n o => [0xAC000000#32 ||| put c 16 ||| put b 11 ||| put m 10 ||| put n 3 ||| put o 0]
  | .adisarm n => [0xB0000000#32 ||| put n 1]
  | .atest d m n => [0xB0000001#32 ||| put d 21 ||| put m 8 ||| put n 1]
  | .sendc a b m k => [0xB4000000#32 ||| put a 16 ||| put b 11 ||| put m 9 ||| put k 3]
  | .seqadv c b m => [0xB4000001#32 ||| put c 16 ||| put b 11 ||| put m 10]
  | .watch d c b m => [0xB4000002#32 ||| put d 21 ||| put c 16 ||| put b 11 ||| put m 10]
  | .unwatch d c => [0xB4000003#32 ||| put d 21 ||| put c 16]
  | .epbind d c => [0xB4000004#32 ||| put d 21 ||| put c 16]
  | .rvmark c b m => [0xB8000000#32 ||| put c 16 ||| put b 11 ||| put m 10]
  | .rvmarkClr c b m => [0xB8000001#32 ||| put c 16 ||| put b 11 ||| put m 10]
  | .rvsweep c => [0xB8000002#32 ||| put c 16]
  | .vadd v a b k t => [0xC0000000#32 ||| put v 21 ||| put a 16 ||| put b 11 ||| put k 8 ||| put t 4]
  | .vsub v a b k t => [0xC0000001#32 ||| put v 21 ||| put a 16 ||| put b 11 ||| put k 8 ||| put t 4]
  | .vmul v a b k t => [0xC0000002#32 ||| put v 21 ||| put a 16 ||| put b 11 ||| put k 8 ||| put t 4]
  | .vfma v a b k t => [0xC0000003#32 ||| put v 21 ||| put a 16 ||| put b 11 ||| put k 8 ||| put t 4]
  | .vdiv v a b k t => [0xC0000004#32 ||| put v 21 ||| put a 16 ||| put b 11 ||| put k 8 ||| put t 4]
  | .vsqrt v a k t => [0xC0000005#32 ||| put v 21 ||| put a 16 ||| put k 8 ||| put t 4]
  | .vmin v a b k t => [0xC0000006#32 ||| put v 21 ||| put a 16 ||| put b 11 ||| put k 8 ||| put t 4]
  | .vmax v a b k t => [0xC0000007#32 ||| put v 21 ||| put a 16 ||| put b 11 ||| put k 8 ||| put t 4]
  | .vabs v a k t => [0xC0000008#32 ||| put v 21 ||| put a 16 ||| put k 8 ||| put t 4]
  | .vneg v a k t => [0xC0000009#32 ||| put v 21 ||| put a 16 ||| put k 8 ||| put t 4]
  | .vand v a b k t => [0xC000000A#32 ||| put v 21 ||| put a 16 ||| put b 11 ||| put k 8 ||| put t 4]
  | .vor v a b k t => [0xC000000B#32 ||| put v 21 ||| put a 16 ||| put b 11 ||| put k 8 ||| put t 4]
  | .vxor v a b k t => [0xC000000C#32 ||| put v 21 ||| put a 16 ||| put b 11 ||| put k 8 ||| put t 4]
  | .vshl v a b k t => [0xC000000D#32 ||| put v 21 ||| put a 16 ||| put b 11 ||| put k 8 ||| put t 4]
  | .vshr v a b k t => [0xC000000E#32 ||| put v 21 ||| put a 16 ||| put b 11 ||| put k 8 ||| put t 4]
  | .vsar v a b k t => [0xC000000F#32 ||| put v 21 ||| put a 16 ||| put b 11 ||| put k 8 ||| put t 4]
  | .vcmp c m a b k t => [0xC4000000#32 ||| put c 24 ||| put m 21 ||| put a 16 ||| put b 11 ||| put k 8 ||| put t 4]
  | .vsel v a b k => [0xC4000001#32 ||| put v 21 ||| put a 16 ||| put b 11 ||| put k 8]
  | .vcvt v a u k t => [0xC4000002#32 ||| put v 21 ||| put a 16 ||| put u 11 ||| put k 8 ||| put t 4]
  | .vred v a o k t => [0xC4000003#32 ||| put v 21 ||| put a 16 ||| put o 11 ||| put k 8 ||| put t 4]
  | .vscan v a o k t => [0xC4000004#32 ||| put v 21 ||| put a 16 ||| put o 11 ||| put k 8 ||| put t 4]
  | .vperm v a b k => [0xC4000005#32 ||| put v 21 ||| put a 16 ||| put b 11 ||| put k 8]
  | .vbcast v e k t => [0xC4000006#32 ||| put v 21 ||| put e 16 ||| put k 8 ||| put t 4]
  | .vins v e g t => [0xC4000007#32 ||| put v 21 ||| put e 16 ||| put g 11 ||| put t 4]
  | .vext e v g t => [0xC4000008#32 ||| put e 21 ||| put v 16 ||| put g 11 ||| put t 4]
  | .vlq v => [0xC4000009#32 ||| put v 21]
  | .vsq v => [0xC400000A#32 ||| put v 16]
  | .viota v k t => [0xC400000B#32 ||| put v 21 ||| put k 8 ||| put t 4]
  | .mand d a b => [0xC8000000#32 ||| put d 21 ||| put a 16 ||| put b 11]
  | .mor d a b => [0xC8000001#32 ||| put d 21 ||| put a 16 ||| put b 11]
  | .mxor d a b => [0xC8000002#32 ||| put d 21 ||| put a 16 ||| put b 11]
  | .mnot d a => [0xC8000003#32 ||| put d 21 ||| put a 16]
  | .mcnt e a => [0xC8000004#32 ||| put e 21 ||| put a 16]
  | .mset d e => [0xC8000005#32 ||| put d 21 ||| put e 16]
  | .fadd d a b m t => [0xCC000000#32 ||| put d 21 ||| put a 16 ||| put b 11 ||| put m 8 ||| put t 4]
  | .fsub d a b m t => [0xCC000001#32 ||| put d 21 ||| put a 16 ||| put b 11 ||| put m 8 ||| put t 4]
  | .fmul d a b m t => [0xCC000002#32 ||| put d 21 ||| put a 16 ||| put b 11 ||| put m 8 ||| put t 4]
  | .fmadd d a b m t => [0xCC000003#32 ||| put d 21 ||| put a 16 ||| put b 11 ||| put m 9 ||| put t 4]
  | .fdiv d a b m t => [0xCC000004#32 ||| put d 21 ||| put a 16 ||| put b 11 ||| put m 8 ||| put t 4]
  | .fsqrt d a m t => [0xCC000005#32 ||| put d 21 ||| put a 16 ||| put m 8 ||| put t 4]
  | .fmin d a b m t => [0xCC000006#32 ||| put d 21 ||| put a 16 ||| put b 11 ||| put m 8 ||| put t 4]
  | .fmax d a b m t => [0xCC000007#32 ||| put d 21 ||| put a 16 ||| put b 11 ||| put m 8 ||| put t 4]
  | .feq d a b m t => [0xCC000008#32 ||| put d 21 ||| put a 16 ||| put b 11 ||| put m 8 ||| put t 4]
  | .flt d a b m t => [0xCC000009#32 ||| put d 21 ||| put a 16 ||| put b 11 ||| put m 8 ||| put t 4]
  | .fle d a b m t => [0xCC00000A#32 ||| put d 21 ||| put a 16 ||| put b 11 ||| put m 8 ||| put t 4]
  | .fcvt d a u m t => [0xCC00000B#32 ||| put d 21 ||| put a 16 ||| put u 11 ||| put m 8 ||| put t 4]
  | .fclass d a m t => [0xCC00000C#32 ||| put d 21 ||| put a 16 ||| put m 8 ||| put t 4]
  | .fsgn d a b m t => [0xCC00000D#32 ||| put d 21 ||| put a 16 ||| put b 11 ||| put m 8 ||| put t 4]
  | .asend a m w => [0xEC000000#32 ||| put a 16 ||| put m 9 ||| put w 1]
  | .avsend a v m => [0xEC000001#32 ||| put a 16 ||| put v 11 ||| put m 9]
  | .send a b m => [0xF0000000#32 ||| put a 16 ||| put b 11 ||| put m 9]
  | .spawn d a b n m => [0xF0000001#32 ||| put d 21 ||| put a 16 ||| put b 11 ||| put n 9 ||| put m 8]
  | .sopen a => [0xF0000002#32 ||| put a 16]
  | .sput a m => [0xF0000003#32 ||| put a 16 ||| put m 9]
  | .sclose => [0xF0000004#32]
  | .tld => []
  | .tst => []
  | .tzero => []
  | .tcopy => []
  | .txp => []
  | .tcvt => []
  | .mma => []
  | .mmag _ => []
  | .gangJoin => []
  | .gangTimeout => []
  | .wzero => []
  | .wanch => []
  | .wauto => []
  | .drain => []
  | .rowdrainDeposit => []
  | .drrel => []
  | .amaxAnswer _ => []
  | .matrixCommandStart => []
  | .commandTrap _ => []
  | .copyCommandStart => []
  | .copyRetire _ => []
  | .storePerformed => []
  | .permitReply _ => []
  | .sliceRequest _ => []
  | .sliceFillDone _ => []
  | .readResponse _ => []
  | .portRequest _ => []
  | .pageWake _ _ => []
  | .faultRetryTimer _ => []
  | .lineAgeDiscard _ _ => []
  | .ptwWrite => []
  | .ptwMove => []
  | .pageMoveDone => []
  | .invalidation _ => []
  | .invalidationComplete => []
  | .invalidationTimeout _ => []
  | .ovfcfgWrite => []
  | .ovfstatRead => []
  | .spillovfWrite => []
  | .rvcfgWrite => []
  | .rvclrRead => []
  | .tblcfgWrite => []
  | .ptwsWrite => []
  | .splitWrite => []
  | .vgroupWrite => []
  | .spillBoundsWrite => []
  | .tshapeWrite => []
  | .wctlWrite => []
  | .wctlRead => []
  | .numsumRead => []
  | .numsumWrite => []
  | .cpstatWrite => []
  | .gangcfgWrite => []
  | .ctxsaveWrite => []
  | .sliceWrite => []
  | .wdbudgetWrite => []
  | .runqstatRead => []
  | .keycmdRevoke => []
  | .ecccntRead => []
  | .scrubcfgWrite => []
  | .snapstatWrite => []
  | .routecfgWrite => []
  | .routestatRead => []
  | .lnkcfgWrite => []
  | .lnkfenceWrite => []
  | .lnkstatRead => []
  | .registerWrite => []
  | .queueDeadlock _ => []
  | .watchdog _ => []
  | .idleWake _ _ => []
  | .taskEnd _ => []
  | .messageDeparture _ => []
  | .fatalContext _ _ => []
  | .messageArrival _ => []
  | .ringHoldTimeout _ _ => []
  | .priorityAgeing _ => []
  | .channelBitArrival _ => []
  | .spawnRequest _ => []
  | .spawnResponse _ _ => []
  | .spawnArrival _ => []
  | .streamWordArrival _ => []
  | .watchRequest _ => []
  | .unwatchRequest _ => []
  | .fencehRequest _ => []
  | .fencehResponse _ _ => []
  | .epbindAnswer _ _ => []
  | .accumulateFlit _ => []
  | .flitResendRequest _ _ => []
  | .flitAck _ _ => []
  | .flitRefusal _ => []
  | .accumulateSendStart => []
  | .sweepRequest _ _ _ _ => []
  | .sweepDrainDone => []
  | .sweepScanDone => []
  | .sweepEpochEnd => []
  | .sliceExpiry => []
  | .contextSave _ => []
  | .hostLaunch _ => []
  | .prepare _ => []
  | .prepareAnswer _ _ _ _ => []
  | .commit _ => []
  | .committed _ _ => []
  | .launchAbort _ => []
  | .launchTimeout => []
  | .contextRelease _ => []
  | .doorbell => []
  | .ctxctlEvict => []
  | .ctxctlRestore => []
  | .hwinRegister => []
  | .hwinUnregister => []
  | .ssbindWrite => []
  | .accessDenied => []
  | .hostAcquireRead _ _ _ => []
  | .hostAtomic _ => []
  | .contextCreate => []
  | .grant _ => []
  | .grantWithdraw _ => []
  | .provision => []
  | .activate => []
  | .revoke => []
  | .resealDone _ => []
  | .scrubDone _ => []
  | .secureStreamUnit _ => []
  | .fenceRequest => []
  | .packageFence _ => []
  | .linkFenceTimeout _ => []
  | .admitPackage => []
  | .routingWindow _ => []
  | .linkFlit _ _ => []
  | .nak _ _ => []
  | .laneRepair _ _ => []
  | .streamRouteReserve _ => []
  | .coldBoot => []
  | .warmReset => []
  | .bootStageDone _ => []
  | .bootTimeout => []
  | .firmwareUpdate _ => []
  | .scrubRead _ _ => []
  | .snaptrig => []
  | .snapshotLatch => []
  | .thermalStep => []
  | .sweeperExamine _ => []
  | .copyDeposit _ => []

/-- The instruction that the decoder reads from a word: the access stream's reading, else the execute stream's. -/
def decodeTableWord (nbits w : Nat) : Option Instr :=
  if nbits = 0 then none
  else match decode .A (BitVec.ofNat 32 w) with
    | .ok i => some i
    | .error _ =>
      match decode .E (BitVec.ofNat 32 w) with
      | .ok i => some i
      | .error _ => none

end Sys2Proof
end

