-- ==== Sys2Proof/Machine/Fetch.lean ====
section
/-! DEFINITION. Instruction fetch (R39, R64, R71, R73, R205) and the traps of words that are not instructions (R183). -/
namespace Sys2Proof.Machine

/-- A fetch line that the context holds. -/
def findFetchLine (s : State) (ctx : BitVec 12) (va : Word) : Option FetchLine :=
  s.fetchLines.find? (fun l => decide (l.ctx = ctx) && decide (l.line = lineOf va))

/-- `n` bytes of a line from `va`. -/
def lineBytes (d : BitVec 512) (va : Word) (n : Nat) : Nat := d.toNat / 2 ^ (va.toNat % 64 * 8) % 2 ^ (8 * n)

/-- The line that holds `va`, from the own slices or from its owner (R64, R73). -/
def missBytes (va : Word) (n : Nat) : Eff Nat := do
  let s ← get
  let t ← theTask
  let st ← theStream
  if noPackage s va then trapWith .pagePerm dtlNoPackage va
  else if moveHolds s t.ctx va then holdOther
  else if isOwn s va && decide (vaSpace va ≠ 1) then
    if (activeKey s t.ctx).isNone then fatalNow true
    else match walk s t.ctx (decide (vaSpace va = 3)) true (vaOff va / 64 * 64) with
    | .notPresent => trapWith .pageNotPresent 0 va
    | .refused => trapWith .pagePerm 0 va
    | .broken => fatalNow false
    | .ok b l => do
      if !l.x then trapWith .fetchNx 0 va
      else if badRead s t.ctx ((va >>> 6) <<< 6) b 64 then trapWith .eccUncorrectable 0 va
      else
        let d := BitVec.ofNat 512 (leNat (pageBytes s.home.mem l.tol b 64))
        let f : FetchLine := { ctx := t.ctx, line := lineOf va, data := d }
        modify (fun u => 
          correctSectors (noteWalk { u with fetchLines := u.fetchLines ++ [f] } t.ctx (decide (vaSpace va = 3)) (vaOff va)) b 64)
        pure (lineBytes d va n)
  else do
    let r ← askRead ((va >>> 6) <<< 6) 64 false (streamOf t st).auth .fetch
    pure (leAt r.data (va.toNat % 64) n)

/-- Bytes of code at `va`, `n` of them inside one 64-byte line, as a number: the checks of a fetch (R205), then a held
fetch line, or a miss. A held line may have been evicted at any time: Config.fetchKept. -/
def fetchBytes (va : Word) (n : Nat) : Eff Nat := do
  let s ← get
  let t ← theTask
  let st ← theStream
  let auth := (streamOf t st).auth
  if !hasPerm auth permEXE then trapWith .capPerm 0 va
  else if !inBounds auth va.toNat n then trapWith .capBounds 0 va
  else match (if noPackage s va then none else findFetchLine s t.ctx va) with
    | some l => do
      set { s with fresh := s.fresh + 1 }
      if Config.fetchKept s.fresh then pure (lineBytes l.data va n) else missBytes va n
    | none => missBytes va n

/-- The word at the program counter of the stream being issued. -/
def fetchWord : Eff InstrWord := do
  let t ← theTask
  let st ← theStream
  let x ← fetchBytes (curPc t st) 4
  pure (BitVec.ofNat 32 x)

/-- Cause and detail of a word that is not an instruction (R183 Table 8, R355). -/
def decodeTrap : DecodeErr → TrapInfo
  | .zeroWord => { cause := .illegalOp, detail := 0x01, addr := 0 }
  | .unallocated => { cause := .illegalOp, detail := 0x02, addr := 0 }
  | .streamMajor => { cause := .streamMismatch, detail := 0x01, addr := 0 }
  | .reservedFn => { cause := .illegalOp, detail := 0x03, addr := 0 }
  | .reservedField => { cause := .illegalOp, detail := 0x04, addr := 0 }
  | .queuePort => { cause := .illegalOp, detail := 0x05, addr := 0 }
  | .queueDir => { cause := .illegalOp, detail := 0x06, addr := 0 }

end Sys2Proof.Machine
end

