-- ==== Sys2Proof/Machine/Tiles.lean ====
section
/-! DEFINITION. Tile command words and MQ (R185 to R187, R265 to R267), the ranges that commands hold (R270), tile and
accumulator elements (R142 to R144), and the arithmetic of write-backs and drains (R162 to R167, R273). -/
namespace Sys2Proof.Machine

/-! ### The tile command word (R185) -/

def tcwOp (w0 : Word) : Nat := field w0 0 8
def tcwSub1 (w0 : Word) : Bool := w0.getLsbD 8
def tcwSub2 (w0 : Word) : Bool := w0.getLsbD 9
def tcwCap (w0 : Word) : Bool := w0.getLsbD 10
def tcwZacc (w0 : Word) : Bool := w0.getLsbD 11
def tcwDst (w0 : Word) : Nat := field w0 16 3
def tcwSrca (w0 : Word) : Nat := field w0 20 3
def tcwSrcb (w0 : Word) : Nat := field w0 24 3
def tcwAcc (w0 : Word) : Bool := w0.getLsbD 28
def tcwFa (w0 : Word) : Nat := field w0 32 4
def tcwFb (w0 : Word) : Nat := field w0 36 4
def tcwFo (w0 : Word) : Nat := field w0 40 4
def tcwDm (w0 : Word) : Nat := field w0 44 2
def tcwGang (w0 : Word) : Nat := field w0 48 4
def tcwChain (w0 : Word) : BitVec 5 := w0.extractLsb' 52 5
def tcwAnchor (w3 : Word) : Int := signedOf 16 (field w3 0 16)
def tcwRow0 (w3 : Word) : Nat := field w3 16 9
def tcwNrows (w3 : Word) : Nat := field w3 25 9
def tcwCol0 (w3 : Word) : Nat := field w3 34 9
def tcwNcols (w3 : Word) : Nat := field w3 43 9
def tcwHchan (w3 : Word) : BitVec 6 := w3.extractLsb' 52 6

/-- Tile opcodes (R186 Table 10). -/
def opTld : Nat := 0x01
def opTst : Nat := 0x02
def opTzero : Nat := 0x10
def opTcopy : Nat := 0x11
def opTxp : Nat := 0x12
def opTcvt : Nat := 0x13
def opMma : Nat := 0x20
def opMmag : Nat := 0x21
def opWzero : Nat := 0x30
def opWanch : Nat := 0x31
def opWauto : Nat := 0x32
def opDrain : Nat := 0x40
def opDrrel : Nat := 0x41

/-- The stream that pushes an opcode; none when it is reserved. -/
def opStream (op : Nat) : Option Stream :=
  if op = opTld ∨ op = opTst then some .A
  else if [opTzero, opTcopy, opTxp, opTcvt, opMma, opMmag, opWzero, opWanch, opWauto, opDrain, opDrrel].contains op then
    some .E
  else none

/-- Bits of word 0 that carry fields; the rest is reserved. -/
def tcwFields0 : Word := 0x01FF3FFF17770FFF

/-- Bits of word 0, beside op, that an opcode uses (R266 Table 2). -/
def tcwUsed0 (op fo dm : Nat) : Word :=
  let dst : Word := 0x70000
  let srca : Word := 0x700000
  let fa : Word := 0xF00000000
  if op = opTld then 0x500 ||| dst ||| fa
  else if op = opTst then 0x500 ||| srca ||| fa
  else if op = opTzero then dst
  else if op = opTcopy ∨ op = opTxp then dst ||| srca
  else if op = opTcvt then dst ||| srca ||| fa ||| 0xF0000000000 ||| (if isBlockFmt fo then 0x100 else 0)
  else if op = opMma then srca ||| fa ||| 0xF017000800
  else if op = opMmag then srca ||| fa ||| 0xF00F017000800
  else if op = opDrain then
    0x3F0010000100 ||| (if isBlockFmt fo then 0x200 else 0) ||| (if dm = 0 ∨ dm = 3 then 0x1F0000000000000 else 0)
  else if op = opDrrel then 0x10000100
  else 0x10000000

/-- Bits of word 3 that an opcode uses. -/
def tcwUsed3 (op dm : Nat) : Word :=
  if op = opWanch then 0xFFFF
  else if op = opWauto ∨ op = opDrrel then 0
  else if op = opDrain ∧ (dm = 0 ∨ dm = 2) then 0x3FFFFFFFFFF0000
  else 0xFFFFFFFFF0000

def tcwUsesSlot1 (op fo : Nat) : Bool :=
  decide (op = opDrain ∨ op = opDrrel) || (decide (op = opTcvt) && isBlockFmt fo)

def tcwUsesSlot2 (op fo : Nat) : Bool := decide (op = opDrain) && isBlockFmt fo

/-- Step 2 of R187 with the reserved fields of R266: the literal is refused with TCW_RESERVED. -/
def tcwReserved (st : Stream) (x y : BitVec 5) (w0 w1 w2 w3 : Word) : Bool :=
  let op := tcwOp w0
  let used := tcwUsed0 op (tcwFo w0) (tcwDm w0) ||| 0xFF
  (opStream op).isNone || decide (w0 &&& ~~~tcwFields0 ≠ 0) || decide (field w3 58 6 ≠ 0) ||
    (tcwCap w0 && (decide (st = .E) || !tcwSub1 w0 || tcwSub2 w0 || decide (16 ≤ x.toNat))) ||
    (decide (x ≠ 0) && !tcwSub1 w0) || (decide (y ≠ 0) && !tcwSub2 w0) ||
    decide (w0 &&& ~~~used ≠ 0) || decide (w3 &&& ~~~tcwUsed3 op (tcwDm w0) ≠ 0) ||
    (decide (w1 ≠ 0) && !tcwUsesSlot1 op (tcwFo w0) && !tcwSub1 w0) ||
    (decide (w2 ≠ 0) && !tcwUsesSlot2 op (tcwFo w0) && !tcwSub2 w0 && !tcwCap w0)

/-- Formats that a use accepts (R267 Table 3). -/
def fmtTile (f : Nat) : Bool := decide (tileWidth f ≠ 0)
def fmtMma (f : Nat) : Bool := decide (1 ≤ f ∧ f ≤ 4) || isBlockFmt f
def fmtCvt (f : Nat) : Bool := decide (1 ≤ f ∧ f ≤ 6) || isBlockFmt f
def fmtDrain (f : Nat) : Bool := decide (f = 1) || decide (3 ≤ f ∧ f ≤ 6) || isBlockFmt f

/-- Formats that the word names. -/
def tcwFormats (w0 : Word) : List Nat :=
  let op := tcwOp w0
  if op = opTld ∨ op = opTst then [tcwFa w0]
  else if op = opTcvt then [tcwFa w0, tcwFo w0]
  else if op = opMma ∨ op = opMmag then [tcwFa w0, tcwFb w0]
  else if op = opDrain then [tcwFo w0]
  else []

def tcwFmtOk (w0 : Word) : Bool :=
  let op := tcwOp w0
  (tcwFormats w0).all (if op = opTcvt then fmtCvt else if op = opDrain then fmtDrain
    else if op = opMma ∨ op = opMmag then fmtMma else fmtTile)

/-- The issue checks of R266 Table 2 on the completed word. -/
def tcwValid (w0 w1 w2 w3 : Word) : Bool :=
  let op := tcwOp w0
  let r := tcwRow0 w3 + tcwNrows w3
  let c := tcwCol0 w3 + tcwNcols w3
  let fo := tcwFo w0
  (!decide (op < 0x20) || decide (r ≤ 511 ∧ c ≤ 511)) &&
  (!decide (op = opMma ∨ op = opMmag ∨ op = opWzero ∨ op = opDrain) || decide (r ≤ 127 ∧ c ≤ 63)) &&
  tcwFmtOk w0 &&
  (!(tcwFormats w0).any isBlockFmt || decide (tcwCol0 w3 % 32 = 0 ∧ (tcwNcols w3 + 1) % 32 = 0)) &&
  (!decide (op = opTld ∨ op = opTst) || tcwCap w0) &&
  (!decide (op = opTcvt) || (decide (tcwFa w0 ≠ fo) && (!isBlockFmt fo || decide (field w1 22 42 = 0)))) &&
  (!decide (op = opDrain) || (decide (field w1 22 42 = 0) && (!isBlockFmt fo || decide (field w2 22 42 = 0)))) &&
  (!decide (op = opDrrel) || decide (field w1 9 55 = 0))

/-! ### Shapes, windows and held ranges (R142, R270) -/

structure Shape where
  fmt : Nat
  rows : Nat
  cols : Nat
  deriving DecidableEq, Repr

def shapeOf (w : Word) : Shape := { fmt := field w 0 4, rows := field w 8 10, cols := field w 20 10 }

/-- Bytes of a packed window row of `m` elements. -/
def rowBytes (fmt m : Nat) : Nat := m * tileWidth fmt / 8

/-- Bytes of the memory side of a TLD or TST. -/
def windowBytes (w0 w3 : Word) : Nat := (tcwNrows w3 + 1) * rowBytes (tcwFa w0) (tcwNcols w3 + 1)

/-- Bytes of the exponent array of a tile (R160). -/
def expBytes (sh : Shape) : Nat := sh.rows * sh.cols / 32

/-- The exponent array of an operand, when its format is a block format. -/
def expHold (fmt : Nat) (sh : Shape) (base : Nat) : List (Nat × Nat × Bool) :=
  if isBlockFmt fmt then [(base, expBytes sh, false)] else []

/-- Rows `from` on of the exponent output of a window. -/
def expOutHold (fo base start n m : Nat) : List (Nat × Nat × Bool) :=
  if isBlockFmt fo then [(base + start * (m / 32), (n - start) * (m / 32), true)] else []

/-- The scratchpad ranges of a command: offset, bytes, whether it writes them. `start`: rows that a row-handler drain has
deposited. -/
def rangesOf (shape : Nat → Shape) (sa sb : Nat) (w0 w1 w2 w3 : Word) (start : Nat) : List (Nat × Nat × Bool) :=
  let op := tcwOp w0
  let n := tcwNrows w3 + 1
  let m := tcwNcols w3 + 1
  let off := fun (w : Word) => field w 0 22
  if op = opTld then [(off w1, windowBytes w0 w3, false)]
  else if op = opTst then [(off w1, windowBytes w0 w3, true)]
  else if op = opTcvt then
    expHold (tcwFa w0) (shape (tcwSrca w0)) sa ++ expOutHold (tcwFo w0) (off w1) 0 n m
  else if op = opMma ∨ op = opMmag then
    expHold (tcwFa w0) (shape (tcwSrca w0)) sa ++ expHold (tcwFb w0) (shape (tcwSrcb w0)) sb
  else if op = opDrain then
    (off w1 + start * rowBytes (tcwFo w0) m, (n - start) * rowBytes (tcwFo w0) m, true) ::
      expOutHold (tcwFo w0) (off w2) start n m
  else []

/-- The ranges that the values in force for the pushing stream place (R270). -/
def rangesAtPush (s : State) (w0 w1 w2 w3 : Word) : List (Nat × Nat × Bool) :=
  rangesOf (fun i => shapeOf (withLate s (0x100 + i) (vget s.cx.tshape i 0)))
    (field (withLate s 0x10A (s.cx.scalea.setWidth 64)) 0 22) (field (withLate s 0x10B (s.cx.scaleb.setWidth 64)) 0 22)
    w0 w1 w2 w3 0

/-! ### MQ (R187, R265, R266) -/

/-- Entries of the engine's command queue. -/
def mxDepth : Nat := 2

/-- The checks of R44 on the capability of a TLD or TST. -/
def checkTileRange (k : Cap) (n : Nat) (store : Bool) : Eff Unit := do
  let s ← get
  let va := capAddr k
  checkAccess { cap := k, va := va, len := n, perms := [if store then permST else permLD], align := 16, store := store }
    (if ownSram s va then none else some dtlNotScratchpad)
  if onScoreboard s va n then holdOther else pure ()

/-- MQ in stream `st`. -/
def pushTcw (st : Stream) (x y : BitVec 5) (o : BitVec 16) : Eff Unit := do
  let t ← theTask
  let pc := curPc t st
  let lit := (pc >>> 5 <<< 5) + 32 * sext64 o
  let bits ← fetchBytes lit 32
  let wd := fun (i : Nat) => BitVec.ofNat 64 (bits / 2 ^ (64 * i))
  let w0 := wd 0
  if tcwReserved st x y w0 (wd 1) (wd 2) (wd 3) then trapWith .illegalOp dtlTcwReserved else pure ()
  if opStream (tcwOp w0) ≠ some st then trapWith .streamMismatch 2 else pure ()
  let k := if tcwCap w0 then capVal t x.toNat else Cap.null
  let w1 := if tcwCap w0 then capAddr k else if tcwSub1 w0 then regVal t st x else wd 1
  let w2 := if tcwCap w0 then k.bits.extractLsb' 64 64 else if tcwSub2 w0 then regVal t st y else wd 2
  if !tcwValid w0 w1 w2 (wd 3) then trapWith .illegalOp dtlTcwValue else pure ()
  if tcwCap w0 then checkTileRange k (windowBytes w0 (wd 3)) (decide (tcwOp w0 = opTst)) else pure ()
  if tcwOp w0 = opDrrel then needDrained else pure ()
  let s ← get
  if mxDepth ≤ s.mxQueue.length then holdOther
  else
    let c : MxCmd :=
      { num := s.mxPushed, tid := t.tid, ctx := t.ctx, stream := st, pc := pc, w0 := w0, w1 := w1, w2 := w2, w3 := wd 3,
        cap := k, stamp := s.nextId, holds := rangesAtPush s w0 w1 w2 (wd 3) }
    set { s with mxQueue := s.mxQueue ++ [c], mxPushed := s.mxPushed + 1 }

def execMqA (x y : BitVec 5) (o : BitVec 16) (s : State) : Out := issueSeq (pushTcw .A x y o) s
def execMqE (x y : BitVec 5) (o : BitVec 16) (s : State) : Out := issueSeq (pushTcw .E x y o) s

/-! ### Tile elements (R142, R163) -/

/-- Bit position of element (i, j). -/
def elemPos (sh : Shape) (i j : Nat) : Nat := (i * sh.cols + j) * tileWidth sh.fmt

def tileElem (sh : Shape) (t : BitVec 262144) (i j : Nat) : Nat := (t.toNat >>> elemPos sh i j) % 2 ^ tileWidth sh.fmt

/-- Writes elements: position and value. -/
def putElems (sh : Shape) (t : BitVec 262144) (l : List ((Nat × Nat) × Nat)) : BitVec 262144 :=
  BitVec.ofNat 262144 (l.foldl (fun x p => putBits x (elemPos sh p.1.1 p.1.2) (tileWidth sh.fmt) p.2) t.toNat)

/-- The positions of an n × m window, row by row. -/
def windowOf (n m : Nat) : List (Nat × Nat) := (List.range n).flatMap (fun i => (List.range m).map (fun j => (i, j)))

/-- Mantissa width of a block format code. -/
def mantWidth (fmt : Nat) : Nat := fmt - 6

/-- The exact value of an element; `e` is the exponent byte of its block. -/
def elemNum (fmt bits e : Nat) : Num :=
  let int := fun (z : Int) => Num.fin (decide (z < 0)) z.natAbs 0
  match fmt with
  | 1 => int (signedOf 8 bits)
  | 2 => int bits
  | 3 => decodeFloat b16Fmt bits
  | 4 => decodeFloat f16Fmt bits
  | 5 => decodeFloat f32Fmt bits
  | 6 => int (signedOf 32 bits)
  | _ => blockNum (mantWidth fmt) e bits

/-- Element (i, j) of a tile with its exponent array (R160). -/
def tileNum (sh : Shape) (t : BitVec 262144) (exps : List Byte) (i j : Nat) : Num :=
  elemNum sh.fmt (tileElem sh t i j) (exps.getD (i * (sh.cols / 32) + j / 32) 0).toNat

/-! ### Write-back (R162, R164, R165) -/

/-- floor_align of z · 2^e at anchor `a`: the integer and whether bits were shed. -/
def floorAlign (z e a : Int) : Int × Bool :=
  let k := e + 64 - a
  if 0 ≤ k then (z * 2 ^ k.toNat, false) else (z / 2 ^ (-k).toNat, decide (z % 2 ^ (-k).toNat ≠ 0))

/-- The exact product of two elements; a bad one contributes zero. -/
def product (x y : Num) : Int × Int :=
  match x, y with
  | .fin n1 m1 e1, .fin n2 m2 e2 => (signed (n1 != n2) (m1 * m2), e1 + e2)
  | _, _ => (0, 0)

/-- The clamp of an aligned product. -/
def clampProduct (y : Int) : Int × Nat :=
  if 2 ^ 129 < y then (2 ^ 129, flSat) else if y < -(2 ^ 129) then (-(2 ^ 129), flSat) else (y, 0)

/-- The sum of aligned products on top of `z`, with flags. -/
def sumProducts (a : Int) : Int → List (Int × Int) → Int × Nat
  | z, [] => (z, 0)
  | z, p :: r =>
    let y := floorAlign p.1 p.2 a
    let c := clampProduct y.1
    let q := sumProducts a (z + c.1) r
    (q.1, orFlags (orFlags (if y.2 then flInexact else 0) c.2) q.2)

/-- One write-back: element, flags and saturations. `bad`: some product uses a bad element. -/
def writeBack (a : Int) (x : Acc) (ps : List (Int × Int)) (bad : Bool) : Acc × Nat × Nat :=
  let r := sumProducts a x.w.toInt ps
  let exceeds := decide (r.1 ≠ sat128 r.1)
  ({ w := BitVec.ofInt 128 (sat128 r.1), p := x.p || bad },
    orFlags r.2 (orFlags (if exceeds then flSat else 0) (if bad then flInvalid else 0)), if exceeds then 1 else 0)

/-- The operands of one slab pair. -/
structure Slabs where
  shA : Shape
  shB : Shape
  a : BitVec 262144
  b : BitVec 262144
  ea : List Byte
  eb : List Byte

/-- The write-back of row i of A with row j of the B tile. -/
def slabInto (anchor : Int) (p : Slabs) (i j : Nat) (x : Acc) : Acc × Nat × Nat :=
  let ks := List.range p.shA.cols
  let xs := ks.map (tileNum p.shA p.a p.ea i)
  let ys := ks.map (tileNum p.shB p.b p.eb j)
  writeBack anchor x (List.zipWith product xs ys) (xs.any Num.isBad || ys.any Num.isBad)

/-- Write-backs of several slab pairs in order (R277). -/
def slabsInto (anchor : Int) (i j : Nat) : List Slabs → Acc → Acc × Nat × Nat
  | [], x => (x, 0, 0)
  | p :: r, x =>
    let u := slabInto anchor p i j x
    let v := slabsInto anchor i j r u.1
    (v.1, orFlags u.2.1 v.2.1, u.2.2 + v.2.2)

/-! ### Conversions (R167, R273) -/

/-- An element as it is encoded: bits, flags, saturations, whether it is a NaN output. -/
structure Enc where
  bits : Nat
  flags : Nat
  cvts : Nat
  nan : Bool
  deriving DecidableEq, Repr

/-- Rounding to a floating-point format, RNE and no FTZ. -/
def encFloat (f : FloatFmt) (x : Num) : Enc :=
  match x with
  | .nan s => { bits := f.qnan, flags := if s then flInvalid else 0, cvts := 0, nan := true }
  | .inf n => { bits := f.infBits n, flags := 0, cvts := 0, nan := false }
  | .fin n m e =>
    let r := roundFloat f .rne false n m e false
    { bits := r.1, flags := r.2, cvts := 0, nan := false }

/-- Rounding to an integer with limits `lo` and `hi`; a NaN gives `nanCode`. -/
def encInt (n : Nat) (lo hi : Int) (nanCode nanFlags : Nat) (x : Num) : Enc :=
  match x with
  | .nan _ => { bits := nanCode, flags := nanFlags, cvts := 0, nan := true }
  | .inf neg => { bits := wrapInt n (if neg then lo else hi), flags := flSat, cvts := 1, nan := false }
  | .fin neg m e =>
    let r := roundInteger .rne neg m e
    let z := signed neg r.1
    let exceeds := decide (z < lo ∨ hi < z)
    { bits := wrapInt n (max lo (min hi z)), flags := orFlags (if r.2 then flInexact else 0) (if exceeds then flSat else 0),
      cvts := if exceeds then 1 else 0, nan := false }

/-- One element in a format that is no block format; `nanFlags` is what an integer target raises for a NaN. -/
def encElem (fmt nanFlags : Nat) (x : Num) : Enc :=
  match fmt with
  | 1 => encInt 8 (-127) 127 0x80 nanFlags x
  | 2 => encInt 8 0 255 0 nanFlags x
  | 3 => encFloat b16Fmt x
  | 4 => encFloat f16Fmt x
  | 5 => encFloat f32Fmt x
  | _ => encInt 32 (-(2 ^ 31 - 1)) (2 ^ 31 - 1) 0x80000000 nanFlags x

/-- What an infinity or a signalling NaN in a block raises. -/
def badFlags : Num → Nat
  | .inf _ => flInvalid
  | .nan signalling => if signalling then flInvalid else 0
  | .fin _ _ _ => 0

/-- The elements of one block: encodings and the exponent byte (R161). -/
def encBlock (fmt : Nat) (xs : List Num) : List Enc × Nat :=
  let m := mantWidth fmt
  let b := toBlock m xs
  if xs.any Num.isBad then
    (xs.map (fun x => { bits := 0, flags := badFlags x, cvts := 0, nan := true }), b.expo)
  else
    (xs.map (fun x =>
      let r := blockElem m ((b.expo : Int) - 127 - ((m : Int) - 2)) x
      { bits := r.1, flags := if (maxLog xs).isSome then r.2.1 else 0, cvts := if (maxLog xs).isSome then r.2.2 else 0,
        nan := false }), b.expo)

/-- Consecutive blocks of 32. -/
def encBlocks (fmt : Nat) : Nat → List Num → List Enc × List Nat
  | 0, _ => ([], [])
  | k + 1, xs =>
    let b := encBlock fmt (xs.take 32)
    let q := encBlocks fmt k (xs.drop 32)
    (b.1 ++ q.1, b.2 :: q.2)

/-- A row of a window in an output format: its elements and its exponent bytes. -/
def encRow (fmt nanFlags : Nat) (xs : List Num) : List Enc × List Nat :=
  if isBlockFmt fmt then encBlocks fmt (xs.length / 32) xs else (xs.map (encElem fmt nanFlags), [])

/-! ### Reports (R169, R172) -/

def MxReport.empty : MxReport := { flags := 0, sats := 0, cvts := 0, flagAt := none, nanAt := none }

/-- Adds what one element at a row and a column recorded; `en` are the enabled flags. -/
def MxReport.note (r : MxReport) (en : Nat) (at' : Nat × Nat) (flags sats cvts : Nat) (nan : Bool) : MxReport :=
  { flags := orFlags r.flags flags, sats := r.sats + sats, cvts := r.cvts + cvts,
    flagAt := r.flagAt <|> (if (flags &&& en) % 32 = 0 then none else some at'),
    nanAt := r.nanAt <|> (if nan then some at' else none) }

/-- A row of encodings from column `col`. -/
def noteRow (en row : Nat) : Nat → List Enc → MxReport → MxReport
  | _, [], r => r
  | col, x :: l, r => noteRow en row (col + 1) l (r.note en (row, col) x.flags 0 x.cvts x.nan)

end Sys2Proof.Machine
end

