-- ==== Sys2Proof/Machine/Matrix.lean ====
section
/-! DEFINITION. The matrix engine: starting, performing and completing tile commands, gangs and row-handler drains
(R268 to R286). A command row acts on the command that has started. -/
namespace Sys2Proof.Machine

/-! ### Shapes and numbers of a command -/

def cmdOp (c : MxCmd) : Nat := tcwOp c.w0
def cmdRows (c : MxCmd) : Nat := tcwNrows c.w3 + 1
def cmdCols (c : MxCmd) : Nat := tcwNcols c.w3 + 1
def runShape (r : MxRun) (i : Nat) : Shape := shapeOf (vget r.tshape i 0)

/-- The scratchpad ranges that the sampled values place (R270). -/
def runRanges (r : MxRun) (start : Nat) : List (Nat × Nat × Bool) :=
  rangesOf (runShape r) r.scalea.toNat r.scaleb.toNat r.cmd.w0 r.cmd.w1 r.cmd.w2 r.cmd.w3 start

/-- The mode of a drain (R280): 0 PLAIN, 1 ROWHANDLER, 2 AMAX. -/
def drainMode (r : MxRun) : Nat :=
  if tcwDm r.cmd.w0 = 0 then field (vget r.wctl (tcwAcc r.cmd.w0).toNat 0) 16 2 else tcwDm r.cmd.w0 - 1

/-- The anchor in force for the accumulator that the command names. -/
def runAnchor (r : MxRun) : Int := signedOf 16 (field (vget r.wctl (tcwAcc r.cmd.w0).toNat 0) 0 16)

def runFlagen (r : MxRun) : Nat := r.numtrap.toNat % 32

/-- Commands that name an accumulator. -/
def namesAcc (op : Nat) : Bool := decide (0x20 ≤ op)

/-- Commands that write an accumulator (R268). -/
def writesAcc (op : Nat) : Bool := [opMma, opMmag, opWzero, opWanch, opWauto].contains op

def scratchVa (s : State) (off : Nat) : Word := mkVa 1 s.pkg s.core off

/-! ### Locks, traps, completion -/

/-- A staged contribution of accumulator `n`. -/
def stagedRows (n : Bool) : Staged → Bool
  | .contrib c => (match c.rows with | some (k, _, _) => k == n | none => false)
  | _ => false

/-- Accumulator `n` is locked: an ASEND of it is staged, or pushed and not read (R294). -/
def lockedAcc (s : State) (n : Bool) : Bool :=
  s.slots.toList.any (fun x => match x with
    | .running t => t.staged.any (stagedRows n)
    | .held t _ => t.staged.any (stagedRows n)
    | _ => false) ||
  s.cx.susp.any (fun p => p.1.staged.any (stagedRows n)) ||
  s.sendQueue.any (fun c => stagedRows n (.contrib c))

/-- A command trap waits for the task that pushed the command: its first only, and not once its end has passed step 1
(R172, R269). -/
def postTrap (s : State) (c : MxCmd) (cause : Cause) (detail : Nat) : State :=
  let p : CmdTrap := { info := { cause := cause, detail := BitVec.ofNat 32 detail, addr := 0 }, pc := c.pc, stream := c.stream }
  mapTasks (fun t => if t.tid = c.tid ∧ t.cmdTrap.isNone = true ∧ t.ending ≠ .departing then { t with cmdTrap := some p } else t) s

/-- The detail of a numeric trap (R172). -/
def numDetail (c : MxCmd) (at' : Nat × Nat) (flags : Nat) : Nat :=
  at'.1 % 512 + at'.2 % 512 * 2 ^ 9 + (if namesAcc (cmdOp c) then (tcwAcc c.w0).toNat else 0) * 2 ^ 18 + flags % 32 * 2 ^ 19

/-- The numeric trap of a command, NUM_NAN before NUM_FLAG (R172). -/
def numericTrap (r : MxRun) : Option (Cause × Nat) :=
  match r.report.nanAt, r.report.flagAt with
  | some p, q =>
    if r.numtrap.getLsbD 5 ∧ cmdOp r.cmd = opDrain then some (.numNan, numDetail r.cmd p r.report.flags)
    else q.map (fun x => (.numFlag, numDetail r.cmd x r.report.flags))
  | none, q => q.map (fun x => (.numFlag, numDetail r.cmd x r.report.flags))

/-- Adds saturations to WCTLn.satcnt (R164). -/
def addSatcnt (cx : CtxState) (n k : Nat) : CtxState :=
  let w := vget cx.wctl n 0
  { cx with wctl := vset cx.wctl n (putField w 32 32 (satAdd 0xFFFFFFFF (field w 32 32) k)) }

/-- A command completes: what it recorded lands, a trap condition goes to its task, its holds end (R169, R172). -/
def completeRun (s : State) (r : MxRun) : State :=
  let cx := addCvtsat (orNumsum s.cx r.report.flags) r.report.cvts
  let cx1 := if namesAcc (cmdOp r.cmd) then addSatcnt cx (tcwAcc r.cmd.w0).toNat r.report.sats else cx
  let s1 := { s with cx := cx1, mxRun := none }
  match numericTrap r with
  | some (c, d) => postTrap s1 r.cmd c d
  | none => s1

/-- CRWs that waited for commands to start take effect, in order (R145). -/
def applyLate (s : State) : List LateCrw → State
  | [] => { s with lateCrws := [] }
  | w :: r =>
    if s.mxQueue.any (fun c => decide (c.num < w.upTo)) then { s with lateCrws := w :: r }
    else applyLate { s with cx := setSampled s.cx w.num.toNat w.value } r

/-- The command leaves the queue. -/
def dequeue (s : State) (c : MxCmd) : State := { s with mxQueue := s.mxQueue.filter (fun x => decide (x.num ≠ c.num)) }

def settleLate (s : State) : State := applyLate s s.lateCrws

/-! ### Start (R268) -/

/-- A window within a tile. -/
def windowFits (sh : Shape) (r n c m : Nat) : Bool := decide (r + n ≤ sh.rows ∧ c + m ≤ sh.cols)

def tileFmtIs (sh : Shape) (f : Nat) : Bool := decide (sh.fmt ≠ 0 ∧ sh.fmt = f)

/-- Rows 1 to 3 of Table 4. -/
def shapesOk (r : MxRun) : Bool :=
  let w0 := r.cmd.w0
  let w3 := r.cmd.w3
  let op := tcwOp w0
  let n := cmdRows r.cmd
  let m := cmdCols r.cmd
  let d := runShape r (tcwDst w0)
  let a := runShape r (tcwSrca w0)
  let b := runShape r (tcwSrcb w0)
  let win := fun sh => windowFits sh (tcwRow0 w3) n (tcwCol0 w3) m
  let whole := fun sh => !isBlockFmt sh.fmt || decide (tcwCol0 w3 % 32 = 0 ∧ m % 32 = 0)
  if op = opTld then tileFmtIs d (tcwFa w0) && win d
  else if op = opTst then tileFmtIs a (tcwFa w0) && win a
  else if op = opTzero then decide (d.fmt ≠ 0) && win d && whole d
  else if op = opTcopy then decide (d.fmt ≠ 0 ∧ a.fmt = d.fmt) && win d && win a && whole d
  else if op = opTxp then
    decide (d.fmt ≠ 0 ∧ a.fmt = d.fmt) && !isBlockFmt d.fmt && win a && decide (m ≤ d.rows ∧ n ≤ d.cols)
  else if op = opTcvt then tileFmtIs a (tcwFa w0) && tileFmtIs d (tcwFo w0) && win a && win d
  else if op = opMma ∨ op = opMmag then
    tileFmtIs a (tcwFa w0) && tileFmtIs b (tcwFb w0) && decide (a.rows = n ∧ b.rows = m ∧ a.cols = b.cols)
  else true

/-- The ranges that row 4 checks: exponent arrays, drain destinations and exponent outputs. -/
def rangesChecked (r : MxRun) : List (Nat × Nat × Bool) :=
  if cmdOp r.cmd = opTld ∨ cmdOp r.cmd = opTst then [] else runRanges r 0

/-- Table 4, and the scheduler's ranges, which no command may write (R329). -/
def startChecks (s : State) (r : MxRun) : Option (Cause × Nat) :=
  if !shapesOk r then some (.illegalOp, dtlShape)
  else if (rangesChecked r).any (fun h => decide (0 < h.2.1 ∧ scratchEnd s.cx < h.1 + h.2.1)) then
    some (.pagePerm, dtlNotScratchpad)
  else if (rangesChecked r).any (fun h => h.2.2 && inSched s.cx h.1 h.2.1) then some (.pagePerm, dtlSchedArea)
  else if (runRanges r 0).any (fun h => h.2.2 && inArmed s.cx h.1 h.2.1) then some (.chainConflict, 0)
  else none

/-- Scratchpad bytes as the engine reads them, with forwarding (R270). -/
def readScratch (s : State) (ctx : BitVec 12) (off n : Nat) : List Byte :=
  forward s ctx (scratchVa s off).toNat (memBytes s.cx.sram off n)

/-- An entry of the store buffer overlaps a scratchpad range. -/
def bufferedIn (s : State) (ctx : BitVec 12) (h : Nat × Nat × Bool) : Bool :=
  s.sb.any (fun e => sbOverlaps e ctx (scratchVa s h.1) h.2.1)

/-- A copy that was pushed earlier still holds a range of the command (R110). -/
def copyBefore (s : State) (c : MxCmd) (h : Nat × Nat × Bool) : Bool :=
  s.copies.any (fun x => holdsScore x && decide (x.id < c.stamp) && decide (0 < copyDstLen x) &&
    (let d := gran64 (capAddr x.dst).toNat (copyDstLen x)
     overlaps (scratchVa s h.1).toNat h.2.1 d.1 d.2))

/-- The exponent array of an operand tile; none is read for another format. -/
def readExps (s : State) (ctx : BitVec 12) (sh : Shape) (off : Nat) : List Byte :=
  if isBlockFmt sh.fmt then readScratch s ctx off (expBytes sh) else []

def usesA (op : Nat) : Bool := decide (op = opTcvt ∨ op = opMma ∨ op = opMmag)
def usesB (op : Nat) : Bool := decide (op = opMma ∨ op = opMmag)

/-- A command as it starts: the registers sampled. -/
def sample (s : State) (c : MxCmd) : MxRun :=
  { cmd := c, tshape := s.cx.tshape, wctl := s.cx.wctl, scalea := s.cx.scalea, scaleb := s.cx.scaleb,
    numtrap := s.cx.numtrap, gangcfg := s.cx.gangcfg, expsA := [], expsB := [], report := MxReport.empty, row := 0,
    heldRows := [], rowMsgs := [], awaiting := false, arrived := false }

/-- The exponents are read and the holds move to where the sampled values place them (R270). -/
def withExponents (s : State) (r : MxRun) : MxRun :=
  let op := cmdOp r.cmd
  let a := if usesA op then readExps s r.cmd.ctx (runShape r (tcwSrca r.cmd.w0)) r.scalea.toNat else []
  let b := if usesB op then readExps s r.cmd.ctx (runShape r (tcwSrcb r.cmd.w0)) r.scaleb.toNat else []
  let keep := (runRanges r 0).filter (fun h => h.2.2 || decide (op = opTld))
  { r with expsA := a, expsB := b, cmd := { r.cmd with holds := keep } }

/-- Elements of an accumulator, with their keys (R144). -/
def accElems (cx : CtxState) (n : Bool) : Sparse Acc := vget cx.accs n.toNat []

/-- The new anchor of WANCH and WAUTO (R279). -/
def newAnchor (cx : CtxState) (r : MxRun) : Int :=
  if cmdOp r.cmd = opWanch then tcwAnchor r.cmd.w3
  else
    let big := (accElems cx (tcwAcc r.cmd.w0)).foldl (fun x p => if p.2.p then x else max x p.2.w.toInt.natAbs) 0
    if big = 0 then runAnchor r
    else min (max (runAnchor r + (Nat.log2 big : Int) + 1 - 112) (-32768)) 32767

/-- WANCH and WAUTO write the anchor as they start (R279). -/
def startAnchor (cx : CtxState) (r : MxRun) : CtxState :=
  if cmdOp r.cmd = opWanch ∨ cmdOp r.cmd = opWauto then
    let n := (tcwAcc r.cmd.w0).toNat
    { cx with wctl := vset cx.wctl n (putField (vget cx.wctl n 0) 0 16 (wrapInt 16 (newAnchor cx r))) }
  else cx

/-- Bytes that cannot be corrected, met by a command (R285): the context ends. -/
def lostScratch (s : State) (c : MxCmd) : State := endContext s c.ctx false

/-- Some element of tile `i` at the positions `ps` lies in a word that is lost. -/
def lostTile (s : State) (r : MxRun) (i : Nat) (ps : List (Nat × Nat)) : Bool :=
  let sh := runShape r i
  (lostNumbers s.cx.tileErr).any (fun k => decide (k / 4096 = i) && ps.any (fun p =>
    overlaps (elemPos sh p.1 p.2) (tileWidth sh.fmt) (k % 4096 * 64) 64))

/-- Every position of a tile. -/
def wholeTile (r : MxRun) (i : Nat) : List (Nat × Nat) := windowOf (runShape r i).rows (runShape r i).cols

/-- A tile or an accumulator that the command reads is lost where it reads it (R285). -/
def lostOperands (s : State) (r : MxRun) : Bool :=
  let op := cmdOp r.cmd
  let w0 := r.cmd.w0
  let win := (windowOf (cmdRows r.cmd) (cmdCols r.cmd)).map (fun p => (tcwRow0 r.cmd.w3 + p.1, tcwCol0 r.cmd.w3 + p.2))
  let inWin := fun k => win.any (fun p => decide (accNo (tcwAcc w0) p = k))
  if s.cx.tileErr.isEmpty && s.cx.accErr.isEmpty then false
  else if op = opTst ∨ op = opTcopy ∨ op = opTxp ∨ op = opTcvt then lostTile s r (tcwSrca w0) win
  else if op = opMma ∨ op = opMmag then
    lostTile s r (tcwSrca w0) (wholeTile r (tcwSrca w0)) || lostTile s r (tcwSrcb w0) (wholeTile r (tcwSrcb w0)) ||
      (!tcwZacc w0 && lostAcc s (tcwAcc w0) inWin)
  else if op = opWanch ∨ op = opWauto then lostAcc s (tcwAcc w0) (fun _ => true)
  else if op = opDrain then lostAcc s (tcwAcc w0) inWin
  else false

/-- The ranges that a command reads as it starts: exponent arrays. -/
def exponentRanges (r : MxRun) (rs : List (Nat × Nat × Bool)) : List (Nat × Nat × Bool) :=
  if cmdOp r.cmd = opTld then [] else rs.filter (fun h => !h.2.2)

/-- MATRIX_COMMAND_START (R268): the head of the queue, when no other command runs. -/
def execMatrixCommandStart (s : State) : Out :=
  event (do
    let s ← get
    match s.mxQueue with
    | [] => noSubject
    | c :: _ =>
      if s.mxRun.isSome = true ∨ cmdOp c = opDrrel then noSubject
      else if writesAcc (cmdOp c) && lockedAcc s (tcwAcc c.w0) then holdOther
      else
        let r := sample s c
        let rs := runRanges r 0
        if rs.any (copyBefore s c) then holdOther
        else if rs.any (fun h => !h.2.2 && sbMustWait s c.ctx (scratchVa s h.1) h.2.1) then holdOther
        else match startChecks s r with
          | some (cause, d) => set (settleLate (postTrap (dequeue s c) c cause d))
          | none =>
            if (exponentRanges r rs).any (fun h => badWord s.cx h.1 h.2.1) then set (lostScratch s c) else
            let s1 := (exponentRanges r rs).foldl (fun s h => correctWords s h.1 h.2.1) (dequeue s c)
            set (settleLate { s1 with mxRun := some (withExponents s r), cx := startAnchor s1.cx r })) s

/-! ### Performing a command -/

/-- The command that has started, when it is of the row's kind. -/
def startedRun (op : Nat) : Eff MxRun := do
  let s ← get
  match s.mxRun with
  | some r => if cmdOp r.cmd ≠ op then noSubject else pure r
  | none => noSubject

/-- The same for a row that reads the operands of the command: one that reads what is lost ends the context (R285). -/
def theRun (op : Nat) : Eff MxRun := do
  let r ← startedRun op
  let s ← get
  if lostOperands s r then throw (.ask (lostScratch s r.cmd)) else pure r

/-- A deposit waits for older stores to its bytes. -/
def needDeposit (c : MxCmd) (hs : List (Nat × Nat × Bool)) : Eff Unit := do
  let s ← get
  if hs.any (bufferedIn s c.ctx) then holdOther else pure ()

def tileAt (s : State) (i : Nat) : BitVec 262144 := vget s.cx.tiles i 0

def putTile (s : State) (i : Nat) (t : BitVec 262144) : State := { s with cx := { s.cx with tiles := vset s.cx.tiles i t } }

/-- Words of tile `i` that elements at `ps` cover whole are right again. -/
def rewriteTile (s : State) (sh : Shape) (i : Nat) (ps : List (Nat × Nat)) : State :=
  { s with cx := { s.cx with tileErr := s.cx.tileErr.filter (fun e => !(decide (e.1 / 4096 = i) &&
      (List.range 64).all (fun b => ps.any (fun p =>
        overlaps (elemPos sh p.1 p.2) (tileWidth sh.fmt) (e.1 % 4096 * 64 + b) 1)))) } }

/-- Elements are written into tile `i`. -/
def writeTile (s : State) (sh : Shape) (i : Nat) (l : List ((Nat × Nat) × Nat)) : State :=
  rewriteTile (putTile s i (putElems sh (tileAt s i) l)) sh i (l.map (·.1))

/-- A deposit into the scratchpad: an owner write (R271). -/
def depositScratch (s : State) (off : Nat) (bs : List Byte) : State := sramWrite s off bs

/-- Window positions of a command in a tile or accumulator. -/
def shifted (c : MxCmd) (p : Nat × Nat) : Nat × Nat := (tcwRow0 c.w3 + p.1, tcwCol0 c.w3 + p.2)

def cmdWindow (c : MxCmd) : List (Nat × Nat) := windowOf (cmdRows c) (cmdCols c)

/-- TLD (R271). -/
def execTld (s : State) : Out :=
  event (do
    let r ← theRun opTld
    let s ← get
    let c := r.cmd
    let off := field c.w1 0 22
    if sbMustWait s c.ctx (scratchVa s off) (windowBytes c.w0 c.w3) then holdOther else pure ()
    if badWord s.cx off (windowBytes c.w0 c.w3) then set (lostScratch s c)
    else
    let bs := readScratch s c.ctx off (windowBytes c.w0 c.w3)
    let rb := rowBytes (tcwFa c.w0) (cmdCols c)
    let w := tileWidth (tcwFa c.w0)
    let d := tcwDst c.w0
    let l := (cmdWindow c).map (fun p => (shifted c p, leAt bs (p.1 * rb) rb / 2 ^ (w * p.2) % 2 ^ w))
    set (completeRun (writeTile (correctWords s off (windowBytes c.w0 c.w3)) (runShape r d) d l) r)) s

/-- TST (R271). -/
def execTst (s : State) : Out :=
  event (do
    let r ← theRun opTst
    let c := r.cmd
    needDeposit c c.holds
    let s ← get
    let sh := runShape r (tcwSrca c.w0)
    let t := tileAt s (tcwSrca c.w0)
    let row := fun i => leBytes (rowBytes sh.fmt (cmdCols c)) (packBits (tileWidth sh.fmt)
      ((List.range (cmdCols c)).map (fun j => tileElem sh t (tcwRow0 c.w3 + i) (tcwCol0 c.w3 + j))))
    set (completeRun (depositScratch s (field c.w1 0 22) ((List.range (cmdRows c)).flatMap row)) r)) s

/-- Writes elements into the destination tile of the command and completes it. -/
def finishTile (r : MxRun) (s : State) (l : List ((Nat × Nat) × Nat)) : State :=
  let d := tcwDst r.cmd.w0
  completeRun (writeTile s (runShape r d) d l) r

/-- TZERO (R272). -/
def execTzero (s : State) : Out :=
  event (do
    let r ← theRun opTzero
    let s ← get
    set (finishTile r s ((cmdWindow r.cmd).map (fun p => (shifted r.cmd p, 0))))) s

/-- The element of the first source at a window position. -/
def srcElem (r : MxRun) (s : State) (p : Nat × Nat) : Nat :=
  let q := shifted r.cmd p
  tileElem (runShape r (tcwSrca r.cmd.w0)) (tileAt s (tcwSrca r.cmd.w0)) q.1 q.2

/-- TCOPY (R272). -/
def execTcopy (s : State) : Out :=
  event (do
    let r ← theRun opTcopy
    let s ← get
    set (finishTile r s ((cmdWindow r.cmd).map (fun p => (shifted r.cmd p, srcElem r s p))))) s

/-- TXP (R272). -/
def execTxp (s : State) : Out :=
  event (do
    let r ← theRun opTxp
    let s ← get
    set (finishTile r s ((cmdWindow r.cmd).map (fun p => ((p.2, p.1), srcElem r s p))))) s

/-- Rows of encodings from window row `i` on, reported. -/
def noteRows (en row0 col0 : Nat) : Nat → List (List Enc × List Nat) → MxReport → MxReport
  | _, [], rep => rep
  | i, x :: l, rep => noteRows en row0 col0 (i + 1) l (noteRow en (row0 + i) col0 x.1 rep)

/-- TCVT (R273). -/
def execTcvt (s : State) : Out :=
  event (do
    let r ← theRun opTcvt
    let c := r.cmd
    needDeposit c c.holds
    let s ← get
    let a := tcwSrca c.w0
    let val := fun i j => tileNum (runShape r a) (tileAt s a) r.expsA (tcwRow0 c.w3 + i) (tcwCol0 c.w3 + j)
    let rows := (List.range (cmdRows c)).map (fun i =>
      encRow (tcwFo c.w0) flInvalid ((List.range (cmdCols c)).map (val i)))
    let l := (cmdWindow c).zip (rows.flatMap (fun x => x.1.map (·.bits)))
    let rep := noteRows (runFlagen r) (tcwRow0 c.w3) (tcwCol0 c.w3) 0 rows r.report
    let es := rows.flatMap (fun x => x.2.map (BitVec.ofNat 8))
    let s1 := if es.isEmpty then s else depositScratch s (field c.w1 0 22) es
    set (finishTile { r with report := rep } s1 (l.map (fun p => (shifted c p.1, p.2))))) s

/-! ### Accumulators -/

def accKey (p : Nat × Nat) : Nat := 64 * p.1 + p.2

def putAcc (cx : CtxState) (n : Bool) (p : Nat × Nat) (x : Acc) : CtxState :=
  { cx with
    accs := vset cx.accs n.toNat (sparsePut { w := 0, p := false } (accElems cx n) (accKey p) x)
    accErr := cx.accErr.filter (fun e => decide (e.1 ≠ accNo n p)) }

/-- The write-backs of the window, one slab pair after another in each element (R274, R277). -/
def accumulate (r : MxRun) (ps : List Slabs) : List (Nat × Nat) → CtxState → MxReport → CtxState × MxReport
  | [], cx, rep => (cx, rep)
  | p :: l, cx, rep =>
    let q := shifted r.cmd p
    let acc := tcwAcc r.cmd.w0
    let x := if tcwZacc r.cmd.w0 then { w := 0, p := false } else accElem cx acc q.1 q.2
    let u := slabsInto (runAnchor r) p.1 p.2 ps x
    accumulate r ps l (putAcc cx acc q u.1) (rep.note (runFlagen r) q u.2.1 u.2.2 0 false)

/-- The products of the slab pairs are added and the command completes. -/
def finishAccumulate (r : MxRun) (ps : List Slabs) (s : State) : State :=
  let u := accumulate r ps (cmdWindow r.cmd) s.cx r.report
  completeRun { s with cx := u.1 } { r with report := u.2 }

/-- MMA (R274). -/
def execMma (s : State) : Out :=
  event (do
    let r ← theRun opMma
    let s ← get
    let a := tcwSrca r.cmd.w0
    let b := tcwSrcb r.cmd.w0
    let p : Slabs :=
      { shA := runShape r a, shB := runShape r b, a := tileAt s a, b := tileAt s b, ea := r.expsA, eb := r.expsB }
    set (finishAccumulate r [p] s)) s

/-- WZERO (R278). -/
def execWzero (s : State) : Out :=
  event (do
    let r ← theRun opWzero
    let s ← get
    let clear := fun cx p => putAcc cx (tcwAcc r.cmd.w0) (shifted r.cmd p) { w := 0, p := false }
    set (completeRun { s with cx := (cmdWindow r.cmd).foldl clear s.cx } r)) s

/-- One element re-aligned from anchor `a` to `b`: element, flags, saturations (R279). -/
def realign (a b : Int) (x : Acc) : Acc × Nat × Nat :=
  let y := floorAlign x.w.toInt (a - 64) b
  let exceeds := decide (y.1 ≠ sat128 y.1)
  ({ x with w := BitVec.ofInt 128 (sat128 y.1) },
    orFlags (if y.2 then flInexact else 0) (if exceeds then flSat else 0), if exceeds then 1 else 0)

/-- Every element of the accumulator; one that is not listed is zero and stays so. -/
def realignAll (r : MxRun) (b : Int) : List (Nat × Acc) → CtxState → MxReport → CtxState × MxReport
  | [], cx, rep => (cx, rep)
  | (k, x) :: l, cx, rep =>
    let p := (k / 64, k % 64)
    let u := realign (runAnchor r) b x
    realignAll r b l (putAcc cx (tcwAcc r.cmd.w0) p u.1) (rep.note (runFlagen r) p u.2.1 u.2.2 0 false)

/-- The re-alignment of WANCH and WAUTO. -/
def finishRealign (r : MxRun) (s : State) : State :=
  let u := realignAll r (newAnchor s.cx r) (accElems s.cx (tcwAcc r.cmd.w0)) s.cx r.report
  completeRun { s with cx := u.1 } { r with report := u.2 }

/-- WANCH (R279). -/
def execWanch (s : State) : Out :=
  event (do
    let r ← theRun opWanch
    modify (finishRealign r)) s

/-- WAUTO (R279). -/
def execWauto (s : State) : Out :=
  event (do
    let r ← theRun opWauto
    modify (finishRealign r)) s

/-! ### Drains (R280 to R283) -/

/-- The value of an accumulator element; a poisoned one is a quiet NaN (R167). -/
def accNum (anchor : Int) (x : Acc) : Num :=
  if x.p then .nan false else .fin (decide (x.w.toInt < 0)) x.w.toInt.natAbs (anchor - 64)

def drainRowValues (s : State) (r : MxRun) (i : Nat) : List Num :=
  (List.range (cmdCols r.cmd)).map (fun j =>
    accNum (runAnchor r) (accElem s.cx (tcwAcc r.cmd.w0) (tcwRow0 r.cmd.w3 + i) (tcwCol0 r.cmd.w3 + j)))

def drainRowBytes (c : MxCmd) : Nat := rowBytes (tcwFo c.w0) (cmdCols c)

/-- Scratchpad offsets of a drained row and of its exponents. -/
def drainRowOff (c : MxCmd) (i : Nat) : Nat := field c.w1 0 22 + i * drainRowBytes c
def drainExpOff (c : MxCmd) (i : Nat) : Nat := field c.w2 0 22 + i * (cmdCols c / 32)

/-- The parts of the scratchpad that window row `i` covers. -/
def drainRowRanges (c : MxCmd) (i : Nat) : List (Nat × Nat × Bool) :=
  (drainRowOff c i, drainRowBytes c, true) ::
    (if isBlockFmt (tcwFo c.w0) then [(drainExpOff c i, cmdCols c / 32, true)] else [])

/-- Deposits window row `i`. -/
def drainRow (s : State) (r : MxRun) (i : Nat) : State × MxRun :=
  let c := r.cmd
  let x := encRow (tcwFo c.w0) 0 (drainRowValues s r i)
  let bs := leBytes (drainRowBytes c) (packBits (tileWidth (tcwFo c.w0)) (x.1.map (·.bits)))
  let s1 := depositScratch s (drainRowOff c i) bs
  let s2 := if x.2.isEmpty then s1 else depositScratch s1 (drainExpOff c i) (x.2.map (BitVec.ofNat 8))
  (s2, { r with report := noteRow (runFlagen r) (tcwRow0 c.w3 + i) (tcwCol0 c.w3) x.1 r.report })

/-- Every window row, from row `i` on. -/
def drainRows (s : State) (r : MxRun) (i : Nat) : Nat → State × MxRun
  | 0 => (s, r)
  | k + 1 =>
    let u := drainRow s r i
    drainRows u.1 u.2 (i + 1) k

/-- The largest |W| of the window among elements that are not poisoned. -/
def largestIn (s : State) (r : MxRun) : Nat :=
  (cmdWindow r.cmd).foldl (fun x p =>
    let q := shifted r.cmd p
    let e := accElem s.cx (tcwAcc r.cmd.w0) q.1 q.2
    if e.p then x else max x e.w.toInt.natAbs) 0

/-- The one flit of an amax drain (R283). -/
def amaxFlit (s : State) (r : MxRun) : Flit :=
  let v := (encFloat f32Fmt (.fin false (largestIn s r) (runAnchor r - 64))).bits
  { contrib := { pkg := s.pkg, core := s.core, num := s.nextId }, seq := 0, sctx := r.cmd.ctx, dctx := r.cmd.ctx,
    chain := tcwChain r.cmd.w0, eidx := 0, wide := false, elems := [BitVec.ofNat 128 v], poison := [], anchor := 0,
    last := true }

/-- DRAIN: PLAIN and AMAX deposit every row, AMAX then sends its value and waits for the answer; a row-handler drain
completes when every row has been released. -/
def execDrain (s : State) : Out :=
  event (do
    let r ← startedRun opDrain
    if r.awaiting then noSubject
    else if drainMode r = 1 then
      if r.row = cmdRows r.cmd ∧ r.heldRows = [] then modify (fun s => completeRun s r) else noSubject
    else do
      let r ← theRun opDrain
      needDeposit r.cmd r.cmd.holds
      let s ← get
      let u := drainRows s r 0 (cmdRows r.cmd)
      if drainMode r = 2 then
        let s1 := queueEvent u.1 (.accumulateFlit (amaxFlit s r))
        set { s1 with nextId := s.nextId + 1,
                      mxRun := some { u.2 with awaiting := true, cmd := { r.cmd with holds := [] } } }
      else set (completeRun u.1 u.2)) s

/-- The payload of a ROWDRAIN message (R281 Table 6). -/
def rowPayload (c : MxCmd) (i : Nat) : List Byte :=
  takePad 48 (leBytes 8 (drainRowOff c i) ++ leBytes 8 (if isBlockFmt (tcwFo c.w0) then drainExpOff c i else 0) ++
    leBytes 2 (tcwRow0 c.w3 + i) ++ leBytes 1 (tcwAcc c.w0).toNat ++ leBytes 1 (tcwFo c.w0) ++
    leBytes 4 (drainRowBytes c) ++ leBytes 8 c.pc.toNat)

/-- ROWDRAIN_DEPOSIT (R281). -/
def execRowdrainDeposit (s : State) : Out :=
  event (do
    let r ← theRun opDrain
    if drainMode r ≠ 1 ∨ cmdRows r.cmd ≤ r.row ∨ 4 ≤ r.heldRows.length then noSubject
    else do
      needDeposit r.cmd (drainRowRanges r.cmd r.row)
      let s ← get
      let u := drainRow s r r.row
      let held := r.heldRows ++ [BitVec.ofNat 9 (tcwRow0 r.cmd.w3 + r.row)]
      let msgs := r.rowMsgs ++ [(BitVec.ofNat 9 (tcwRow0 r.cmd.w3 + r.row), s.cx.msgCounter)]
      let r1 := { u.2 with row := r.row + 1, heldRows := held, rowMsgs := msgs,
                           cmd := { r.cmd with holds := runRanges r (r.row + 1) } }
      let s1 := { u.1 with mxRun := some r1 }
      set (sendFrom s1 s1.cx s.core s.pkg (tcwHchan r.cmd.w3) kindRowDrain (rowPayload r.cmd r.row) r.cmd.ctx none)) s

/-- A row-handler drain runs. -/
def rowDrainRuns (s : State) : Bool :=
  match s.mxRun with
  | some r => decide (cmdOp r.cmd = opDrain) && decide (drainMode r = 1)
  | none => false

/-- The row-handler drain of accumulator `n` gives row `row` up (R282). -/
def releaseDrainRow (s : State) (n : Bool) (row : BitVec 9) : State :=
  match s.mxRun with
  | some r =>
    if rowDrainRuns s && tcwAcc r.cmd.w0 == n then
      { s with mxRun := some { r with heldRows := r.heldRows.filter (fun x => decide (x ≠ row)) } }
    else s
  | none => s

/-- DRREL (R282): from either queue entry while a row-handler drain runs, else in its turn. -/
def execDrrel (s : State) : Out :=
  event (do
    let s ← get
    let next := if rowDrainRuns s then s.mxQueue.find? (fun c => decide (cmdOp c = opDrrel))
      else if s.mxRun.isSome then none
      else s.mxQueue.head?
    match next with
    | none => noSubject
    | some c =>
      if cmdOp c ≠ opDrrel then noSubject
      else set (settleLate (releaseDrainRow (dequeue s c) (tcwAcc c.w0) (c.w1.extractLsb' 0 9)))) s

/-- AMAX_ANSWER (R283): the drain completes; a refusal is a command trap. -/
def execAmaxAnswer (ans : AmaxAnswer) (s : State) : Out :=
  event (do
    let r ← startedRun opDrain
    if !r.awaiting then noSubject
    else modify (fun s =>
      let s1 := completeRun s r
      if ans = .refused then postTrap s1 r.cmd .chainAbsent (tcwChain r.cmd.w0).toNat else s1)) s

/-! ### Gangs (R276, R277) -/

/-- What this member brings to the barrier. -/
def ownArrival (s : State) (r : MxRun) : GangArrival :=
  let a := tcwSrca r.cmd.w0
  let b := tcwSrcb r.cmd.w0
  let base := field r.gangcfg 8 10
  { ctx := r.cmd.ctx, member := s.core.toNat - base, side := r.gangcfg.extractLsb' 0 4, base := BitVec.ofNat 10 base,
    gang := BitVec.ofNat 4 (tcwGang r.cmd.w0), fa := BitVec.ofNat 4 (tcwFa r.cmd.w0), fb := BitVec.ofNat 4 (tcwFb r.cmd.w0),
    depth := (runShape r a).cols, nrows := BitVec.ofNat 9 (tcwNrows r.cmd.w3), ncols := BitVec.ofNat 9 (tcwNcols r.cmd.w3),
    slabA := tileAt s a, slabB := tileAt s b, expsA := r.expsA, expsB := r.expsB }

/-- Equal signatures. -/
def sameSignature (x y : GangArrival) : Bool :=
  decide (x.side = y.side ∧ x.base = y.base ∧ x.gang = y.gang ∧ x.fa = y.fa ∧ x.fb = y.fb ∧ x.depth = y.depth ∧
    x.nrows = y.nrows ∧ x.ncols = y.ncols)

/-- The arrival fails the join: its side differs from the word's field, or its signature from an earlier one's. -/
def badArrival (l : List GangArrival) (x : GangArrival) : Bool :=
  decide (x.side ≠ x.gang) || !l.all (sameSignature x)

/-- The barrier of a context (R276). -/
def setGang (s : State) (n : BitVec 12) (l : List GangArrival) : State :=
  match findCtx s n with
  | some c => putCtx s { c with gang := l }
  | none => s

/-- The join fails: the barrier is reset, and this member, if it has arrived, takes a command trap. -/
def failJoin (s : State) (n : BitVec 12) (cause : Cause) (detail : Nat) : State :=
  let s1 := setGang s n []
  match s.mxRun with
  | some r => if r.arrived && decide (r.cmd.ctx = n) then postTrap { s1 with mxRun := none } r.cmd cause detail else s1
  | none => s1

/-- An arrival at the barrier of its context. -/
def arriveGang (s : State) (l : List GangArrival) (x : GangArrival) : State :=
  if badArrival l x then failJoin s x.ctx .illegalOp dtlGangShape else setGang s x.ctx (l ++ [x])

/-- Every member of the join has arrived. -/
def gangFull (c : CtxState) : Bool :=
  match c.gang with
  | [] => false
  | x :: _ => decide ((x.side.toNat + 1) * (x.side.toNat + 1) ≤ c.gang.length)

/-- This core is one of the gang of cores that an arrival names (R275): the barriers of other gangs are theirs. -/
def gangHere (s : State) (x : GangArrival) : Bool :=
  decide (x.base.toNat ≤ s.core.toNat ∧ s.core.toNat < x.base.toNat + (x.side.toNat + 1) * (x.side.toNat + 1))

/-- MMAG: the arrival of this core's command, or of another member's. One that comes while a complete join still waits to
be performed begins the next. -/
def execMmag (remote : Option GangArrival) (s : State) : Out :=
  event (do
    let s ← get
    match remote with
    | some x =>
      match findCtx s x.ctx with
      | none => noSubject
      | some c =>
        if gangHere s x = false ∨ x.base.toNat + x.member = s.core.toNat then noSubject
        else if gangFull c then holdOther
        else if c.gang.any (fun y => decide (y.member = x.member)) then noSubject
        else set (arriveGang s c.gang x)
    | none => do
      let r ← theRun opMmag
      if r.arrived then noSubject
      else if gangFull s.cx then holdOther
      else
        let x := ownArrival s r
        set (arriveGang (emit { s with mxRun := some { r with arrived := true } } (.gang x)) s.cx.gang x)) s

/-- The members of a gang. -/
def gangSize (r : MxRun) : Nat := (field r.gangcfg 0 4 + 1) * (field r.gangcfg 0 4 + 1)

def memberOf (l : List GangArrival) (k : Nat) : Option GangArrival := l.find? (fun x => decide (x.member = k))

/-- The slab pairs that member (i, j) uses, in ascending q; none while a member is missing (R277). -/
def gangSlabs (r : MxRun) (l : List GangArrival) (g i j : Nat) : List Slabs :=
  (List.range g).filterMap (fun q =>
    match memberOf l (i * g + q), memberOf l (q * g + j) with
    | some x, some y =>
      some { shA := runShape r (tcwSrca r.cmd.w0), shB := runShape r (tcwSrcb r.cmd.w0), a := x.slabA, b := y.slabB,
             ea := x.expsA, eb := y.expsB }
    | _, _ => none)

/-- GANG_JOIN: every member has arrived (R276, R277). -/
def execGangJoin (s : State) : Out :=
  event (do
    let r ← theRun opMmag
    let s ← get
    if !r.arrived || decide (s.cx.gang.length ≠ gangSize r) then noSubject
    else
      let g := field r.gangcfg 0 4 + 1
      let me := s.core.toNat - field r.gangcfg 8 10
      let s1 := { s with cx := { s.cx with gang := [] } }
      set (finishAccumulate r (gangSlabs r s.cx.gang g (me / g) (me % g)) s1)) s

/-- A join that has begun and lacks a member. -/
def gangOpen (c : CtxState) : Bool :=
  match c.gang with
  | [] => false
  | x :: _ => decide (c.gang.length < (x.side.toNat + 1) * (x.side.toNat + 1))

/-- GANG_TIMEOUT: a join has not completed in time, the resident context's before those of others. -/
def execGangTimeout (s : State) : Out :=
  event (do
    let s ← get
    match (s.cx :: s.others).find? gangOpen with
    | none => noSubject
    | some c => set (failJoin s c.num .gangTimeout c.gang.length)) s

end Sys2Proof.Machine
end

