-- ==== Sys2Proof/Machine/Fabric.lean ====
section
/-! DEFINITION. The host register aperture (R372), the package fabric registers, links and routing (R365 to R368), and
fencing a package off (R72, R370, R394). -/
namespace Sys2Proof.Machine

/-! ### The aperture (R372 Table 1) -/

/-- Where an aperture offset lies: a shared offset, or context and offset of a private page. -/
inductive Place where
  | shared (off : Nat)
  | page (ctx : BitVec 12) (off : Nat)
  deriving DecidableEq, Repr

def placeOf (off : BitVec 32) : Place :=
  let n := off.toNat
  if 0x100000 ≤ n ∧ n < 0x100000 + 0x1000 * 4096 then
    .page (BitVec.ofNat 12 ((n - 0x100000) / 0x1000)) ((n - 0x100000) % 0x1000)
  else .shared n

/-- The shared offset that the access names. -/
def sharedOff : Eff Nat := do
  let s ← get
  match s.access.addr with
  | .aperture off _ _ => (match placeOf off with | .shared n => pure n | .page _ _ => noSubject)
  | .control _ => noSubject

/-- Context and offset of the private page that a trusted access names (R373). -/
def pageOff : Eff (BitVec 12 × Nat) := do
  let s ← get
  match s.access.addr with
  | .aperture off true _ => (match placeOf off with | .page c n => pure (c, n) | .shared _ => noSubject)
  | _ => noSubject

/-- The offset must be one of the row's. -/
def needOff (ok : Bool) : Eff Unit := if ok then pure () else noSubject

/-- The access is a trusted one of the system private page, the page of context 0 (R372 Table 1, R373). -/
def onSystemPage (s : State) : Bool :=
  match s.access.addr with
  | .aperture off true _ => (match placeOf off with | .page c _ => decide (c = 0) | .shared _ => false)
  | _ => false

/-- A request on the system private page (R372, R381); in minimal mode none of these is met (R392). -/
def theRequest : Eff Request := do
  let s ← get
  if onSystemPage s && !s.pk.bootstat.getLsbD 6 then pure s.access.request else noSubject

/-! ### ROUTECFG, LNKCFG, LNKFENCE (R365 Table 2, R368 Table 3) -/

def execRoutecfgWrite (s : State) : Out :=
  event (do
    let n ← sharedOff
    needOff (decide (n = 0x1000))
    let s ← get
    let v := s.access.value
    if field v 0 8 < field v 8 8 ∨ field v 16 2 = 3 then pure ()
    else set { s with pk := { s.pk with routecfg := v &&& 0x3FFFF } }) s

def execRoutestatRead (s : State) : Out :=
  event (do
    let n ← sharedOff
    needOff (decide (n = 0x1008))
    let s ← get
    set (emit { s with pk := { s.pk with routestat := putField s.pk.routestat 32 32 0 } } (.registerRead s.pk.routestat))) s

def execLnkcfgWrite (s : State) : Out :=
  event (do
    let n ← sharedOff
    needOff (decide (n = 0x1010))
    let s ← get
    let v := s.access.value &&& 0xFFFF
    if v = 0 then pure () else set { s with pk := { s.pk with lnkcfg := v } }) s

def execLnkfenceWrite (s : State) : Out :=
  event (do
    let n ← sharedOff
    needOff (decide (n = 0x1018))
    let s ← get
    let v := s.access.value &&& 0xFFFFFFFF
    if v = 0 then pure () else set { s with pk := { s.pk with lnkfence := v } }) s

def linkAt (s : State) (i : Nat) : Link := vget s.pk.links i Link.reset

def putLink (s : State) (i : Nat) (l : Link) : State := { s with pk := { s.pk with links := vset s.pk.links i l } }

/-- LNKSTATn as it reads. -/
def lnkstatOf (l : Link) : Word :=
  BitVec.ofNat 64 (l.state.toNat + l.lanes.toNat * 2 ^ 2 + l.crcerr.toNat * 2 ^ 16 + l.replays.toNat * 2 ^ 32)

def execLnkstatRead (s : State) : Out :=
  event (do
    let n ← sharedOff
    needOff (decide (0x1100 ≤ n ∧ n < 0x1100 + 8 * 72 ∧ n % 8 = 0))
    let s ← get
    let l := linkAt s ((n - 0x1100) / 8)
    set (emit (putLink s ((n - 0x1100) / 8) { l with crcerr := 0, replays := 0 }) (.registerRead (lnkstatOf l)))) s

/-! ### Routing (R365) -/

def linkUp (l : Link) : Bool := decide (l.state = 0 ∨ l.state = 1)

/-- imb of a window, from the flits that each link sent; none when it is below zero. -/
def imbOf (links : Nat) (util : List Nat) : Option Nat :=
  let total := natSum util
  let most := util.foldl max 0
  if links ≤ total ∧ 0 < links then some (16 * most * links / total - 16)
  else if most = 0 then none
  else some (16 * most - 16)

/-- The mode of the next window. -/
def nextMode (cfg : Word) (now : Bool) (imb : Option Nat) : Bool :=
  match field cfg 16 2 with
  | 1 => false
  | 2 => true
  | _ =>
    match imb with
    | none => false
    | some i => if field cfg 0 8 < i then true else if i ≤ field cfg 8 8 then false else now

/-- ROUTING_WINDOW: the end of a window, with the flits that each link has sent in it. What ROUTESTAT shows of a window in
which no link sent one is free: `idle`. -/
def execRoutingWindow (idle : BitVec 8) (s : State) : Out :=
  event (do
    let s ← get
    let imb := imbOf (s.pk.links.toList.filter linkUp).length (s.pk.links.toList.map (fun l => l.sent))
    let now := s.pk.routestat.getLsbD 0
    let next := nextMode s.pk.routecfg now imb
    let shown := match imb with | some i => min i 0xFF | none => idle.toNat
    let w := putField (putField s.pk.routestat 0 1 next.toNat) 8 8 shown
    let w1 := if next = now then w else putField w 32 32 (satAdd 0xFFFFFFFF (field w 32 32) 1)
    set { s with pk := { s.pk with routestat := w1, links := s.pk.links.map (fun (l : Link) => { l with sent := 0 }) } }) s

/-! ### Links (R367, R368) -/

/-- Flits of a replay buffer. -/
def replayFlitsMax : Nat := 1024

/-- The remainder of bytes, most significant bit first, by the polynomial 0x1EDC6F41. -/
def crcStep (c : BitVec 32) (b : Bool) : BitVec 32 :=
  if (c.getLsbD 31) != b then (c <<< 1) ^^^ 0x1EDC6F41#32 else c <<< 1

def crcOf (bs : List Byte) : BitVec 32 :=
  Config.crcFinal (bs.foldl (fun c b => (List.range 8).foldl (fun c k => crcStep c (b.getLsbD (7 - k))) c) Config.crcStart)

/-- The 4-byte header and the payload of a flit (R367). -/
def flitBytes (f : LinkFlit) : List Byte :=
  leBytes 4 (f.seq.toNat + f.ack.toNat * 2 ^ 12 + f.type.toNat * 2 ^ 24) ++ leBytes 120 f.payload.toNat

def mkLinkFlit (l : Link) (type : BitVec 2) (seq : BitVec 12) (payload : BitVec 960) (random : Bool) : LinkFlit :=
  let f : LinkFlit :=
    { outgoing := true, random := some random, seq := seq, ack := l.rxSeq, type := type, payload := payload, crc := 0,
      badLane := 0 }
  { f with crc := crcOf (flitBytes f) }

/-- A flit leaves on a link and is counted (R365). -/
def sendFlit (s : State) (i : BitVec 7) (f : LinkFlit) : State :=
  let l := linkAt s i.toNat
  emit (putLink s i.toNat { l with sent := l.sent + 1 }) (.linkFlit i f)

def sendFlits (s : State) (i : BitVec 7) (fs : List LinkFlit) : State := fs.foldl (fun s f => sendFlit s i f) s

/-- The flit's number stands before `ack`: it has been accepted. -/
def ackedBy (ack : BitVec 12) (f : LinkFlit) : Bool := decide (1 ≤ (ack - f.seq).toNat ∧ (ack - f.seq).toNat ≤ replayFlitsMax)

/-- One more flit in the window of 2^20. A repair that is due stays so. -/
def countFlit (l : Link) : Link :=
  if l.window + 1 = 2 ^ 20 then { l with window := 0, laneErr := Vector.replicate 4 0 } else { l with window := l.window + 1 }

/-- A failure: the flit goes, and a NAK names the flit expected. -/
def failFlit (s : State) (i : BitVec 7) (l : Link) : State :=
  sendFlit (putLink s i.toNat { l with nakSent := true }) i (mkLinkFlit l 2 l.rxSeq 0 false)

/-- The routes of open streams that go over a link are rebuilt: each takes another minimal path before its next word
(R369). -/
def dropRoutes (s : State) (i : Nat) : State :=
  mapTasks (fun t => match t.port with
    | some p => if p.links.contains i then { t with port := some { p with routed := false, links := [] } } else t
    | none => t) s

/-- The lane map in force at both ends; a link with fewer than two lanes is DOWN and its flits take other links. -/
def changeMap (s : State) (i : BitVec 7) (l : Link) (lanes : BitVec 4) : State :=
  let n := popCount 4 lanes.toNat
  if n < 2 then
    l.replay.foldl (fun s f => emit s (.reroute f.payload (f.random.getD false)))
      (dropRoutes (putLink s i.toNat { l with lanes := lanes, state := 2, replay := [], due := 0 }) i.toNat)
  else putLink s i.toNat
    { l with lanes := lanes, state := if n = 4 then 0 else 1, laneErr := Vector.replicate 4 0, due := l.due &&& lanes }

/-- Every unacknowledged flit goes out again on the new map, in order (R368 step 3). -/
def resendAll (s : State) (i : BitVec 7) (fs : List LinkFlit) : State :=
  if linkUp (linkAt s i.toNat) then sendFlits s i fs else s

/-- A good flit from the other end. A number out of sequence is a failure, of which one NAK tells. -/
def takeLinkFlit (s : State) (i : BitVec 7) (l : Link) (f : LinkFlit) : State :=
  let l1 := { l with replay := l.replay.filter (fun x => !ackedBy f.ack x) }
  match f.type.toNat with
  | 0 =>
    if f.seq = l1.rxSeq then
      emit (putLink s i.toNat { l1 with rxSeq := l1.rxSeq + 1, nakSent := false }) (.delivered i f.payload)
    else if l1.nakSent then putLink s i.toNat l1
    else failFlit s i l1
  | 2 => queueEvent (putLink s i.toNat l1) (.nak i f.seq)
  | 3 => resendAll (changeMap s i l1 (f.payload.extractLsb' 0 4)) i l1.replay
  | _ => putLink s i.toNat l1

/-- Link 71 is a standby: it carries new flits only while another link is DOWN (R366). -/
def mayCarry (s : State) (i : Nat) : Bool :=
  decide (i ≠ 71) || (List.range 71).any (fun k => decide ((linkAt s k).state = 2))

/-- A flit that fails its CRC: the lane that caused it is counted, and one that exceeds the threshold is due for repair, which
the link begins by itself (R368). -/
def badFlit (s : State) (i : BitVec 7) (l : Link) (lane : BitVec 2) : State :=
  let k := lane.toNat
  let n := vget l.laneErr k 0 + 1
  let exceeds := decide (field s.pk.lnkcfg 0 16 < n) && l.lanes.getLsbD k && !l.due.getLsbD k
  let s1 := failFlit s i { l with
    laneErr := vset l.laneErr k n
    crcerr := BitVec.ofNat 16 (satAdd 0xFFFF l.crcerr.toNat 1)
    due := if exceeds then l.due ||| BitVec.twoPow 4 k else l.due }
  if exceeds then queueEvent s1 (.laneRepair i lane) else s1

/-- LINK_FLIT: no new flit leaves while the replay buffer is full or a repair is due. -/
def execLinkFlit (link : BitVec 7) (flit : LinkFlit) (s : State) : Out :=
  event (do
    let s ← get
    let l := linkAt s link.toNat
    if 72 ≤ link.toNat ∨ linkUp l = false then noSubject
    else if flit.outgoing then
      if !mayCarry s link.toNat then noSubject
      else if replayFlitsMax ≤ l.replay.length ∨ l.due ≠ 0 then holdOther
      else
        let f := mkLinkFlit l 0 l.txSeq flit.payload (flit.random.getD (s.pk.routestat.getLsbD 0))
        set (sendFlit (putLink s link.toNat { l with txSeq := l.txSeq + 1, replay := l.replay ++ [f] }) link f)
    else
      let l1 := countFlit l
      if flit.crc = crcOf (flitBytes flit) then set (takeLinkFlit s link l1 flit)
      else set (badFlit s link l1 flit.badLane)) s

/-- NAK: every unacknowledged flit from the named one is sent again, in order. -/
def execNak (link : BitVec 7) (seq : BitVec 12) (s : State) : Out :=
  event (do
    let s ← get
    let l := linkAt s link.toNat
    if 72 ≤ link.toNat ∨ linkUp l = false then noSubject
    else
      let fs := l.replay.filter (fun f => decide ((f.seq - seq).toNat < replayFlitsMax))
      set (sendFlits (putLink s link.toNat { l with replays := BitVec.ofNat 16 (satAdd 0xFFFF l.replays.toNat 1) }) link fs)) s

/-- LANE_REPAIR: a replay under way has been sent in one action; the MAP flit, then every unacknowledged flit. -/
def execLaneRepair (link : BitVec 7) (lane : BitVec 2) (s : State) : Out :=
  event (do
    let s ← get
    let l := linkAt s link.toNat
    if 72 ≤ link.toNat ∨ linkUp l = false ∨ l.lanes.getLsbD lane.toNat = false ∨ l.due.getLsbD lane.toNat = false then noSubject
    else
      let lanes := l.lanes &&& ~~~(BitVec.twoPow 4 lane.toNat)
      let s1 := sendFlit s link (mkLinkFlit l 3 0 (lanes.setWidth 960) false)
      set (resendAll (changeMap s1 link (linkAt s1 link.toNat) lanes) link l.replay)) s

/-! ### Stream routes (R314, R369) -/

/-- Links over which this package reaches another (R366, R16): the rail link, and those of the spine planes. -/
def linksTo (s : State) (pkg : BitVec 9) : List Nat :=
  let me := s.pkg.toNat % 36
  let it := pkg.toNat % 36
  (if s.pkg.toNat / 36 = pkg.toNat / 36 then [if it < me then it else it - 1] else []) ++ rangeFrom 35 37

/-- Stream-route channels of each link. -/
def routeChannels : Nat := 8

/-- Ports of every task of the core. -/
def openPorts (s : State) : List Port :=
  (List.range 4).filterMap (fun k => match slotAt s k with
      | .running t => t.port
      | .held t _ => t.port
      | _ => none) ++
    (s.cx :: s.others).flatMap (fun c => c.susp.filterMap (fun p => p.1.port))

/-- A link with a channel free for one more stream: those of this core's streams are known. -/
def hasRoute (s : State) (i : Nat) : Bool :=
  linkUp (linkAt s i) && mayCarry s i &&
    decide ((openPorts s).countP (fun p => p.links.contains i) < routeChannels)

/-- Minimal paths name one link of this package: the rail link while it is up, else a spine link. -/
def minimalLinks (s : State) (pkg : BitVec 9) : List Nat :=
  let ls := linksTo s pkg
  let rail := ls.filter (fun i => decide (i < 35) && linkUp (linkAt s i))
  if rail.isEmpty then ls.filter (fun i => decide (35 ≤ i)) else rail

/-- The destination channel holds no other open stream: none of this core's, and none of another's, which on another core is
open: Config.choice. -/
def channelFree (s : State) (p : Port) : Bool :=
  (openPorts s).all (fun q => !q.routed || decide (q.dpkg ≠ p.dpkg ∨ q.dcore ≠ p.dcore ∨ q.dctx ≠ p.dctx ∨
      q.chan ≠ p.chan)) &&
    (if p.dpkg = s.pkg ∧ p.dcore = s.core then
      (match (findCtx s p.dctx).bind (fun c => c.inStreams.find? (fun i => decide (i.chan = p.chan))) with
        | some i => decide (i.spkg = s.pkg ∧ i.score = s.core ∧ i.stream = p.stream)
        | none => true)
    else Config.choice s.fresh)

/-- The links on which a stream to a package takes a channel; none while no path has one free. -/
def routeLinks (s : State) (pkg : BitVec 9) : Option (List Nat) :=
  if pkg = s.pkg then some [] else ((minimalLinks s pkg).find? (hasRoute s)).map (fun i => [i])

/-- STREAM_ROUTE_RESERVE: the first word of the port's stream finds its route, or goes on waiting. -/
def execStreamRouteReserve (slot : BitVec 2) (s : State) : Out :=
  event (do
    let s ← get
    match (taskIn s slot.toNat).bind (fun t => t.port.map (fun p => (t, p))) with
    | some (t, p) =>
      if p.routed || decide (t.se.wait ≠ .route) then noSubject
      else
        let s1 := { s with fresh := s.fresh + 1 }
        match (if channelFree s p then routeLinks s p.dpkg else none) with
        | some ls => set (putTask s1 slot.toNat { t with port := some { p with routed := true, links := ls } })
        | none => set s1
    | none => noSubject) s

/-! ### Fencing off (R370) -/

/-- A load, fetch or copy part that was on its way to the package. -/
def fenceReads (s : State) (pkg : BitVec 9) : State :=
  (s.pending.filter (fun p => decide (p.owner.pkg = pkg))).foldl
    (fun s p => takeAnswer s p { id := p.id, data := [], tags := [], fault := some (0x0B, 1), pub := 0 }) s

/-- A SPAWN and a FENCEH under way to the package fail with ENDPOINT: the FENCEH is made again, and finds the core gone (log
entry 82). -/
def fenceWaits (s : State) (pkg : BitVec 9) : State :=
  let f := fun (z : StreamSt) => match z.wait with
    | .spawn _ p _ _ _ none => if p = pkg then { z with wait := .unreachable } else z
    | .fenceh _ p none => if p = pkg then { z with wait := .ready } else z
    | _ => z
  mapTasks (fun t =>
    let u := { t with sa := f t.sa, se := f t.se }
    if t.se.wait = .route ∧ t.port.any (fun p => decide (p.dpkg = pkg)) then setWait u .E .ready else u) s

/-- Watches of this core on words of the package are refused; the registry drops what the package placed. -/
def fenceWatches (s : State) (pkg : BitVec 9) : State :=
  let s1 := { s with watches := s.watches.filter (fun w => decide (w.spkg ≠ pkg)),
                     placed := s.placed.filter (fun w => decide (vaPkg w.va ≠ pkg)) }
  (s.placed.filter (fun w => decide (vaPkg w.va = pkg))).foldl (fun s w => watchReply s w 0 watchRefused 0x0B none) s1

/-- Contributions on their way to the package are refused. -/
def fenceSendings (s : State) (pkg : BitVec 9) : State :=
  (s.sending.filter (fun x => decide (x.contrib.hpkg = pkg))).foldl
    (fun s x => refuseContrib (dropSending s x.contrib.num) x.contrib) s

/-- The FENCED message of a context to its cores in this package. -/
def tellFenced (s : State) (pkg : BitVec 9) (cx : CtxState) : State :=
  if cx.num ≠ 0 ∧ cx.cores.any (fun c => decide (c.1 = pkg)) = true then
    (cx.cores.filter (fun c => decide (c.1 = s.pkg))).foldl
      (fun s c => agentToSup s cx.num c.2 kindSystem
        (slotsOf (takePad 48 (leBytes 1 0x80 ++ leBytes 3 0 ++ leBytes 2 pkg.toNat))) none) s
  else s

/-- The contexts go on without their cores there. -/
def forgetCores (pkg : BitVec 9) (cx : CtxState) : CtxState :=
  { cx with cores := cx.cores.filter (fun c => decide (c.1 ≠ pkg)) }

/-- This package acts on the fence, at one instant. -/
def fencePackage (s : State) (pkg : BitVec 9) : State :=
  let s1 := { s with members := s.members.filter (fun p => decide (p ≠ pkg)),
                     pk := { s.pk with fenced := s.pk.fenced ++ [pkg] } }
  let s2 := fenceSendings (fenceWatches (fenceWaits (fenceReads s1 pkg) pkg) pkg) pkg
  let s3 := (s2.cx :: s2.others).foldl (fun s c => tellFenced s pkg c) s2
  { s3 with cx := forgetCores pkg s3.cx, others := s3.others.map (forgetCores pkg) }

/-- A member that can be fenced off. -/
def fenceable (s : State) (pkg : BitVec 9) : Bool := s.members.contains pkg && decide (pkg ≠ s.pkg)

/-- PACKAGE_FENCE: another package has started the fence. One that stands changes nothing more. -/
def execPackageFence (pkg : BitVec 9) (s : State) : Out :=
  event (do
    let s ← get
    if pkg = s.pkg then noSubject
    else if fenceable s pkg then set (fencePackage s pkg)
    else pure ()) s

/-- FENCE_REQUEST: the host asks for the fence of a package. -/
def execFenceRequest (s : State) : Out :=
  event (do
    let r ← theRequest
    let s ← get
    match r with
    | .fence pkg => if fenceable s pkg then set (emit (fencePackage s pkg) (.fenceStart pkg)) else pure ()
    | _ => noSubject) s

/-- LINK_FENCE_TIMEOUT: every link to the package has been DOWN for LNKFENCE.timeout cycles. -/
def execLinkFenceTimeout (pkg : BitVec 9) (s : State) : Out :=
  event (do
    let s ← get
    if fenceable s pkg && (linksTo s pkg).all (fun i => decide ((linkAt s i).state = 2)) then
      set (emit (fencePackage s pkg) (.fenceStart pkg))
    else noSubject) s

/-- INVALIDATION_TIMEOUT: SDTIME has passed without the acknowledgements of some packages: each is fenced off, then the
write returns (R72). -/
def execInvalidationTimeout (silent : List (BitVec 9)) (s : State) : Out :=
  event (do
    let s ← get
    match s.tableOp with
    | none => noSubject
    | some op =>
      if op.copying || silent.isEmpty || !silent.all (fenceable s) then noSubject
      else
        let s1 := silent.foldl (fun s p => if fenceable s p then emit (fencePackage s p) (.fenceStart p) else s) s
        set (setPtwStatus { s1 with tableOp := none } 5)) s

/-- Adds a package to the member list, in rising order. -/
def addMember (p : BitVec 9) : List (BitVec 9) → List (BitVec 9)
  | [] => [p]
  | x :: r => if p.toNat < x.toNat then p :: x :: r else if x = p then x :: r else x :: addMember p r

/-- The lowest-numbered member package. -/
def lowestMember (s : State) : Bool := s.members.all (fun p => decide (s.pkg.toNat ≤ p.toNat))

/-- A package that was fenced off is a member again, with its cores that are out of service. -/
def admitMember (s : State) (pkg : BitVec 9) (out : List (BitVec 10)) : State :=
  { s with
    members := addMember pkg s.members
    farOut := s.farOut.filter (fun c => decide (c.1 ≠ pkg)) ++ out.map (fun c => (pkg, c))
    pk := { s.pk with fenced := s.pk.fenced.filter (fun p => decide (p ≠ pkg)) } }

/-- ADMIT (`admitPackage`): a package that was fenced off, and whose reset has reached READY, rejoins: at the host's request on
the system page of the lowest-numbered member, which tells the other launch agents; or told by that one (R394). -/
def execAdmitPackage (s : State) : Out :=
  event (do
    let s ← get
    match s.access.addr, s.access.request with
    | .control _, .rejoin pkg _ out =>
      if s.pk.fenced.contains pkg then set (admitMember s pkg out) else noSubject
    | _, _ => do
      let r ← theRequest
      match r with
      | .rejoin pkg ready out =>
        if !lowestMember s then noSubject
        else if ready && s.pk.fenced.contains pkg then
          set (((s.members.filter (fun p => decide (p ≠ s.pkg))).foldl (fun u p => emit u (.rejoined pkg p))
            (admitMember s pkg out)))
        else pure ()
      | _ => noSubject) s

end Sys2Proof.Machine
end

