-- ==== Sys2Proof/Machine/Contexts.lean ====
section
/-! DEFINITION. Switching contexts: switch-out requests, saving and restoring, the host's EVICT and RESTORE, and the release of
a context's cores (R341, R344 to R347, R358, R360, R361, R403). -/
namespace Sys2Proof.Machine

/-! ### Which context is next (R345) -/

/-- A channel that will dispatch once its context is resident. -/
def chanReady (cx : CtxState) (n : Nat) : Bool :=
  chanPresent cx n && decide (chanState cx n = .opened) && decide (0 < chanUsed cx n)

/-- A context that may be restored: out, and without a FATAL-CONTEXT (R359). -/
def restorable (s : State) (cx : CtxState) : Bool :=
  decide (cx.residency = .out) && !s.pk.fatals.contains cx.num

/-- A context that is out has work: an entry of its run queue, a record to dispatch, a task to resume, or a parked
arrival. -/
def hasWork (s : State) (cx : CtxState) : Bool :=
  restorable s cx &&
    (!cx.runq.isEmpty || (List.range 64).any (chanReady cx) || !cx.susp.isEmpty ||
      s.ovf.any (fun e => decide (e.ctx = cx.num)))

/-- The next context in turn with work; with none, the next that is out. `others` lists the contexts after the resident
one in the order of their turns. -/
def nextOut (s : State) : Option CtxState :=
  match s.others.find? (hasWork s) with
  | some c => some c
  | none => s.others.find? (restorable s)

/-! ### The request (R345, R346) -/

/-- Prefetches of the resident context are cancelled: they retire with PARTIAL (R123). -/
def cancelPrefs (s : State) : State :=
  { s with copies := s.copies.map (fun c => match c.kind with
      | .pref _ => { c with stopped := true, todo := [], parts := [] }
      | _ => c) }

/-- A switch-out request: from now on only a row-handler drain's tasks take slots. -/
def requestSwitch (s : State) : State := { cancelPrefs s with switchReq := true }

/-- The resident context has a task queued, running, HELD or suspended. -/
def hasTasks (s : State) : Bool :=
  !s.cx.runq.isEmpty || !s.cx.susp.isEmpty || (List.range 4).any (fun k => match slotAt s k with
    | .running _ => true
    | .held _ _ => true
    | _ => false)

/-- SLICE_EXPIRY: deferred until a task of the context has ended since its restore, unless it has none (R346). -/
def execSliceExpiry (s : State) : Out :=
  event (do
    let s ← get
    if s.cx.num = 0 ∨ s.switchReq = true ∨ s.others.any (hasWork s) = false then noSubject
    else if s.cx.taskEnded = false ∧ hasTasks s = true then holdOther
    else set (requestSwitch s)) s

/-! ### Saving (R345, R360) -/

/-- No task runs, and copies, matrix commands, accumulate sends and stores have retired. -/
def savable (s : State) : Bool :=
  (List.range 4).all (fun k => match slotAt s k with | .running _ => false | _ => true) &&
    s.copies.isEmpty && s.mxQueue.isEmpty && s.mxRun.isNone && s.lateCrws.isEmpty && s.sendQueue.isEmpty &&
    s.sending.isEmpty && s.sb.isEmpty

/-- The HELD tasks of the core, which are saved beside the context. -/
def heldTasks (s : State) : List (Task × SuspendOn) :=
  (List.range 4).filterMap (fun k => match slotAt s k with
    | .held t on => some (t, on)
    | _ => none)

/-- The lowest-numbered image of the save area that no context that is out takes (R344: the text does not say which image is
whose; log entry 175, DESIGN CHOICE). -/
def freeImage (s : State) : Nat :=
  ((List.range 4).find? (fun k => !(s.others.any (fun c => decide (c.residency = .out) && decide (c.image = k))))).getD 0

/-- First byte of an image in the home channel, and its bytes: 80 frames (R344). -/
def imageByte (s : State) (k : Nat) : Nat := (saveFirst s + 80 * k) * frameBytes
def imageBytes : Nat := 80 * frameBytes

/-- The errors of the home channel in a range. -/
def errorsIn (s : State) (byte n : Nat) : Sparse (BitVec 288) :=
  s.home.errors.filter (fun p => decide (byte ≤ 32 * p.1 ∧ 32 * p.1 < byte + n))

/-- An image that has been written whole has good check bits. -/
def clearImage (s : State) (k : Nat) : State :=
  let keep := s.home.errors.filter (fun p =>
    !decide (imageByte s k ≤ 32 * p.1 ∧ 32 * p.1 < imageByte s k + imageBytes))
  { s with home := { s.home with errors := keep } }

/-- The image of the resident context. -/
def contextImage (s : State) : CtxState :=
  { s.cx with susp := s.cx.susp ++ heldTasks s, residency := .out, image := freeImage s }

/-- A sector of the image of a context cannot be corrected (R359). -/
def lostImage (s : State) (c : CtxState) : Bool :=
  (errorsIn s (imageByte s c.image) imageBytes).any (fun p => decide (healthOf p.2 = .uncorrectable))

/-- The sectors of an image that is read are corrected, and counted (R28, R395). -/
def correctImage (s : State) (c : CtxState) : State :=
  (errorsIn s (imageByte s c.image) imageBytes).foldl (fun s p => countCorr (setErrors s p.1 0)) s

/-- The core without its resident context: slots and reservations free, its lines, permits and fetched code gone. -/
def vacate (s : State) : State :=
  { s with
    slots := Vector.replicate 4 .free
    lines := s.lines.filter (fun l => decide (l.ctx ≠ s.cx.num) && !l.victim)
    poolPeers := false
    permits := s.permits.filter (fun p => decide (p.ctx ≠ s.cx.num))
    fetchLines := s.fetchLines.filter (fun l => decide (l.ctx ≠ s.cx.num))
    filter := []
    cx := CtxState.fresh 0
    switchReq := false }

/-! ### Restoring (R338 Table 5, R347, R302) -/

/-- SLICE after a save and restore (R346): measured, and clamp where the slice grows. -/
def timedSlice (w : Word) (t : BitVec 24) : Word :=
  let w1 := putField w 40 24 t.toNat
  if field w 0 32 < 2 * (t.toNat * 64) then putField w1 32 1 1 else w1

/-- Resumption entries for the suspended and HELD tasks that have none (R338 Table 5). -/
def resumptions (cx : CtxState) : List RunEntry :=
  (cx.susp.filter (fun p => decide (p.2 ≠ .woken))).map (fun p => .resume p.1.tid 0)

/-- A context as it becomes resident. -/
def wakeContext (s : State) (cx : CtxState) : CtxState :=
  (resumptions cx).foldl pushRun
    { cx with
      residency := .resident
      taskEnded := false
      slice := timedSlice cx.slice (Config.saveTime s.fresh)
      susp := cx.susp.map (fun p => (p.1, .woken)) }

/-- One parked entry of the resident context is replayed if nothing of its channel or chain is parked before it and it
fits; a report goes to the supervisor channel, and what no channel takes is discarded (R33, R331, R333, R347). -/
def replayOne (s : State) (e : OvfEntry) : State :=
  match e.item with
  | .flit f => if (s.ovf.find? (flitFor s.cx.num f.chain.toNat)) = some e then replayFlits s f.chain.toNat 1 else s
  | .chanop p => if s.ovf.find? (parkedFor s.cx.num p.chan.toNat) = some e then replay s p.chan.toNat 1 else s
  | .message m =>
    let n := (msgChan m).toNat
    if (isReport m && (supChannel s.cx).isNone) || !chanPresent s.cx n then
      match readEntry s e with
      | .inl s1 => s1
      | .inr s1 => discardAbsent s1 s.cx.num m
    else if s.ovf.find? (parkedFor s.cx.num n) = some e then replay s n 1
    else s

/-- A parked report of the resident context is for its supervisor channel (R331). -/
def toSupervisor (s : State) (e : OvfEntry) : OvfEntry :=
  match e.item, supChannel s.cx with
  | .message m, some n => if e.ctx = s.cx.num ∧ isReport m = true then { e with item := .message (withChan m n) } else e
  | _, _ => e

/-- The context is back: its channels are re-evaluated, and what is parked and held for it is replayed in the order in
which it was parked. -/
def replayContext (s : State) : State :=
  let s1 := (List.range 64).foldl dispatchChan { s with ovf := s.ovf.map (toSupervisor s) }
  let s2 := (s1.ovf.filter (fun e => decide (e.ctx = s1.cx.num))).foldl replayOne s1
  giveSlots ((List.range 64).foldl refill s2)

/-- Context `n` of `others` becomes resident on a core that holds none; an image that cannot be read whole ends it (R359). -/
def restoreContext (s : State) (n : BitVec 12) (before : List CtxState) : State :=
  match s.others.findIdx? (fun c => decide (c.num = n)) with
  | none => s
  | some i =>
    match s.others[i]? with
    | none => s
    | some c =>
      if lostImage s c then endContext { s with others := before ++ s.others } n false
      else
        replayContext (tellPart { correctImage s c with
          cx := wakeContext s c
          others := s.others.drop (i + 1) ++ before ++ s.others.take i
          fresh := s.fresh + 1 })

/-- The next context, if one is out. -/
def restoreNext (s : State) (before : List CtxState) : State :=
  match nextOut s with
  | some c => restoreContext s c.num before
  | none => { s with others := before ++ s.others }

/-- CONTEXT_SAVE: the resident context is saved and `next`, whose turn it is, restored. -/
def execContextSave (next : BitVec 12) (s : State) : Out :=
  event (do
    let s ← get
    match nextOut s with
    | none => noSubject
    | some c =>
      if c.num ≠ next ∨ (s.cx.num ≠ 0 ∧ s.switchReq = false) then noSubject
      else if s.cx.num = 0 then set (restoreContext s next [])
      else if savable s then set (restoreContext (vacate (clearImage s (freeImage s))) next [contextImage s])
      else holdOther) s

/-! ### EVICT and RESTORE (R372 CTXCTL, R403) -/

/-- The host takes an image. -/
def evicted (cx : CtxState) : CtxState := { cx with residency := .absent }

/-- The same event is met again once the switch-out has gone on. -/
def retryEvent (s : State) (i : Instr) : State := { s with inputs := s.inputs ++ [{ row := i, access := s.access }] }

/-- CTXCTL with op EVICT: a resident context is switched out first. -/
def execCtxctlEvict (s : State) : Out :=
  event (do
    let p ← pageOff
    let s ← get
    needOff (decide (p.2 = 0x018) && decide (field s.access.value 0 2 = 1))
    match findCtx s p.1 with
    | none => pure ()
    | some c =>
      if s.cx.num ≠ c.num then
        match c.residency with
        | .absent => pure ()
        | _ => set (emit (putCtx s (evicted c)) (.contextImage c.num))
      else if s.switchReq = false then set (retryEvent (requestSwitch s) .ctxctlEvict)
      else if savable s then
        set (emit (restoreNext (vacate s) [evicted (contextImage s)]) (.contextImage c.num))
      else holdOther) s

/-- CTXCTL with op RESTORE: the images are back; on a core that holds no context it becomes resident at once. -/
def execCtxctlRestore (s : State) : Out :=
  event (do
    let p ← pageOff
    let s ← get
    needOff (decide (p.2 = 0x018) && decide (field s.access.value 0 2 = 2))
    match findCtx s p.1 with
    | none => pure ()
    | some c =>
      if c.residency ≠ .absent ∨ s.pk.fatals.contains c.num = true then pure ()
      else
        let s1 := putCtx s { c with residency := .out, image := freeImage s }
        set (if s.cx.num = 0 then restoreContext s1 c.num [] else s1)) s

/-! ### Releasing a context's cores (R341, R359, R342) -/

/-- The context's directory entry is cleared by a WRITE at level 0 through PTWA and PTWD (R341), and its frames become no
one's (R388). -/
def clearDirectory (s : State) (ctx : BitVec 12) : State :=
  ptwStart { dropHolder s ctx with regs := { s.regs with ptwa := ctx.setWidth 64 } } 0

/-- Nothing of the context stays on this core; the next context takes its turn. -/
def removeContext (s : State) (ctx : BitVec 12) : State :=
  let s1 := stopContext s ctx
  let s2 := { s1 with
    others := s1.others.filter (fun c => decide (c.num ≠ ctx))
    watches := s1.watches.filter (fun w => decide (w.ctx ≠ ctx))
    placed := s1.placed.filter (fun w => decide (w.ctx ≠ ctx))
    sweep := if s.sweepCtx = ctx then .idle else s1.sweep
    sweepBy := if s.sweepCtx = ctx then none else s1.sweepBy
    sweepCtx := if s.sweepCtx = ctx then 0 else s1.sweepCtx }
  if s.cx.num = ctx then restoreNext (vacate s2) [] else s2

/-- A grant names the context (R381). -/
def namedByGrant (s : State) (ctx : BitVec 12) : Bool :=
  s.pk.grants.any (fun g => decide (g.grantee = ctx) || decide (g.grantor = ctx))

/-- The context is no longer here: its windows and streams go with it. Its number is free once nothing else names it (R381). -/
def forgetContext (s : State) (ctx : BitVec 12) : State :=
  { s with pk := { s.pk with
      fatals := s.pk.fatals.filter (fun c => decide (c ≠ ctx))
      wins := s.pk.wins.filter (fun w => decide (w.ctx ≠ ctx))
      retired := s.pk.retired.filter (fun w => decide (w.ctx ≠ ctx))
      streams := s.pk.streams.filter (fun x => decide (x.ctx ≠ ctx))
      contexts := s.pk.contexts.filter (fun c => decide (c ≠ ctx)) } }

/-- CONTEXT_RELEASE: once no table operation is under way. -/
def execContextRelease (ctx : BitVec 12) (s : State) : Out :=
  event (do
    let s ← get
    match findCtx s ctx with
    | none => noSubject
    | some _ =>
      if s.tableOp.isSome then holdOther
      else set (retireEpoch (clearDirectory (forgetContext (removeContext s ctx) ctx) ctx))) s

end Sys2Proof.Machine
end

