-- ==== Sys2Proof/Machine/Launch.lean ====
section
/-! DEFINITION. Launches: the binary record (R339), what a package prepares on this core (R23, R194, R329, R330, R340,
R341), and the two phases at the lead and at each package (R342, R343). -/
namespace Sys2Proof.Machine

/-! ### The record (R339 Tables 6 to 9) -/

/-- A level descriptor. -/
structure Level where
  domain : Nat
  scope : Nat
  split : Nat
  gang : Nat
  count : Nat
  spill : Nat
  ovf : Nat
  susp : Nat
  nregions : Nat
  entries : Nat
  regions : Nat
  ncaps : Nat
  caps : Nat
  zero : Bool
  deriving DecidableEq, Repr

def levelAt (r : List Byte) (l : Nat) : Level :=
  let o := 32 + 64 * l
  { domain := leAt r o 1, scope := leAt r (o + 1) 1, split := leAt r (o + 2) 1, gang := leAt r (o + 3) 1,
    count := leAt r (o + 4) 4, spill := leAt r (o + 8) 4, ovf := leAt r (o + 12) 2, susp := leAt r (o + 14) 1,
    nregions := leAt r (o + 15) 1, entries := leAt r (o + 16) 4, regions := leAt r (o + 20) 4,
    ncaps := leAt r (o + 24) 2, caps := leAt r (o + 28) 4,
    zero := decide (leAt r (o + 26) 2 = 0 ∧ leAt r (o + 32) 32 = 0) }

/-- An entry-table entry. -/
structure EntryDesc where
  aoff : Nat
  eoff : Nat
  budget : Nat
  flags : Nat
  rsize : Nat
  zero : Bool
  deriving DecidableEq, Repr

def entryAt (r : List Byte) (v : Level) (n : Nat) : EntryDesc :=
  let o := v.entries + 16 * n
  { aoff := leAt r o 4, eoff := leAt r (o + 4) 4, budget := leAt r (o + 8) 4, flags := leAt r (o + 12) 1,
    rsize := leAt r (o + 13) 2, zero := decide (leAt r (o + 15) 1 = 0) }

def EntryDesc.present (e : EntryDesc) : Bool := e.flags.testBit 4

/-- A region descriptor. -/
structure RegionDesc where
  size : Nat
  ioff : Nat
  ilen : Nat
  zero : Bool
  deriving DecidableEq, Repr

def regionAt (r : List Byte) (v : Level) (i : Nat) : RegionDesc :=
  let o := v.regions + 16 * i
  { size := leAt r o 4, ioff := leAt r (o + 4) 4, ilen := leAt r (o + 8) 4, zero := decide (leAt r (o + 12) 4 = 0) }

/-- A capability descriptor. -/
structure CapDesc where
  region : Nat
  root : Nat
  perms : Nat
  slot : Nat
  offset : Nat
  length : Nat
  zero : Bool
  deriving DecidableEq, Repr

def capDescAt (r : List Byte) (v : Level) (i : Nat) : CapDesc :=
  let o := v.caps + 32 * i
  { region := leAt r o 1, root := leAt r (o + 1) 1, perms := leAt r (o + 2) 2, slot := leAt r (o + 4) 4,
    offset := leAt r (o + 8) 8, length := leAt r (o + 16) 8, zero := decide (leAt r (o + 24) 8 = 0) }

def noOffset : Nat := 0xFFFFFFFF

def imageLen (r : List Byte) : Nat := leAt r 4 4

/-- An entry offset: none, or in the image at a multiple of 4 (R340). -/
def entryOffOk (imglen o : Nat) : Bool := decide (o = noOffset ∨ (o % 4 = 0 ∧ o < imglen))

def entryOk (imglen : Nat) (e : EntryDesc) : Bool :=
  e.zero && decide (e.flags < 32) && entryOffOk imglen e.aoff && entryOffOk imglen e.eoff &&
    decide (16 ≤ e.rsize ∧ e.rsize ≤ 4096)

def regionOk (imglen : Nat) (g : RegionDesc) : Bool :=
  g.zero && decide (g.size % 256 = 0) && decide (g.ilen ≤ g.size) &&
    decide (g.ioff = noOffset ∨ g.ioff + g.ilen ≤ imglen)

def capOk (r : List Byte) (v : Level) (d : CapDesc) : Bool :=
  d.zero && decide (d.region < v.nregions) && decide (d.root ≤ 8) && decide (d.slot % 16 = 0) &&
    decide (d.slot + 16 ≤ (regionAt r v d.region).size)

/-- Cores of a domain code, none for the pod. -/
def domainCores (d : Nat) : Option Nat :=
  match d with
  | 0 => some 1 | 1 => some 4 | 2 => some 16 | 3 => some 64 | 4 => some 128 | 5 => some 512 | 6 => some 1024
  | _ => none

/-- Every instance of the domain holds whole aligned blocks of g² cores within a quad (R340). -/
def gangFits (v : Level) : Bool :=
  let b := (v.gang + 1) * (v.gang + 1)
  decide (v.gang = 0 ∨ min ((domainCores v.domain).getD 512) 512 % b = 0)

def levelOk (r : List Byte) (v : Level) : Bool :=
  v.zero && decide (v.domain ≤ 7 ∧ v.domain ≤ v.scope ∧ v.scope ≤ 7 ∧ v.split ≤ 12 ∧ v.gang ≤ 15 ∧ 1 ≤ v.count) &&
    decide (v.spill % 1024 = 0 ∧ v.susp ≤ 16 ∧ v.nregions ≤ 32) && gangFits v &&
    decide (v.entries + 1024 ≤ r.length ∧ v.regions + 16 * v.nregions ≤ r.length ∧ v.caps + 32 * v.ncaps ≤ r.length) &&
    (List.range 64).all (fun n => entryOk (imageLen r) (entryAt r v n)) &&
    (List.range v.nregions).all (fun i => regionOk (imageLen r) (regionAt r v i)) &&
    (List.range v.ncaps).all (fun i => capOk r v (capDescAt r v i))

/-- The record is one that R339 and R340 accept. -/
def recordOk (r : List Byte) : Bool :=
  let n := leAt r 0 1
  decide (1 ≤ n ∧ n ≤ 8 ∧ 32 + 64 * n ≤ r.length) && decide (leAt r 1 3 = 0 ∧ leAt r 20 12 = 0 ∧ leAt r 16 4 ≠ 0) &&
    (let sp := vaSpace (BitVec.ofNat 64 (leAt r 8 8)); decide (sp = 0 ∨ sp = 2)) &&
    (List.range n).all (fun l => levelOk r (levelAt r l))

/-- Reasons of a launch report (R343 Table 10). -/
def whyTimeout : Nat := 1
def whyRefused : Nat := 2
def whyNoCores : Nat := 3
def whyNoSpace : Nat := 4
def whyRecord : Nat := 5
def whyCap : Nat := 6

/-! ### The layout of a scratchpad (R329) -/

/-- Regions as offsets and sizes, from offset 0 upward. -/
def layRegions (r : List Byte) (v : Level) : List (Nat × Nat) :=
  ((List.range v.nregions).foldl (fun (acc : Nat × List (Nat × Nat)) i =>
    let n := (regionAt r v i).size
    (acc.1 + n, acc.2 ++ [(acc.1, n)])) (0, [])).2

def regionsEnd (r : List Byte) (v : Level) : Nat :=
  natSum ((List.range v.nregions).map (fun i => (regionAt r v i).size))

/-- Bytes of the ring of channel `n`: none for an absent one. -/
def ringBytes (r : List Byte) (v : Level) (n : Nat) : Nat :=
  let e := entryAt r v n
  if e.present then 16 * e.rsize else 0

/-- Where the ring of channel `n` starts. -/
def ringStart (r : List Byte) (v : Level) (n : Nat) : Nat :=
  regionsEnd r v + natSum ((List.range n).map (ringBytes r v))

def roundUp (x n : Nat) : Nat := (x + n - 1) / n * n

/-- First byte of the spill carve-out, and of the scheduler area. -/
def spillStart (r : List Byte) (v : Level) : Nat := roundUp (ringStart r v 64) 256
def schedStart (r : List Byte) (v : Level) : Nat := spillStart r v + v.spill

/-- The layout fits in the scratchpad under the level's split. -/
def layoutFits (r : List Byte) (v : Level) : Bool :=
  decide (schedStart r v + 4096 + 8192 + 16384 * v.susp ≤ sramBytes - v.split * 0x40000)

/-! ### Roots and derived capabilities (R48, R194, R340) -/

/-- The first core of the scope instance that holds this core. -/
def scopeStart (s : State) (size : Nat) : BitVec 10 := BitVec.ofNat 10 (s.core.toNat / size * size)

/-- Packages of the pod, which are its lowest numbers (R16). -/
def podPackages (s : State) : Nat := s.members.foldl (fun n p => max n (p.toNat + 1)) 0

/-- A context read root over one space of the scope instance. -/
def readRoot (s : State) (scope space : Nat) : Cap :=
  match domainCores scope with
  | some n =>
    let b := (mkVa space s.pkg (scopeStart s n) 0).toNat
    capMake (BitVec.ofNat 64 b) b (b + n * 2 ^ 43) readRootPerms 0 true
  | none =>
    capMake (BitVec.ofNat 64 (space * 2 ^ 62)) (space * 2 ^ 62) (space * 2 ^ 62 + podPackages s * 2 ^ 53) readRootPerms 0 true

/-- The code root over the context's space-3 image. -/
def codeRoot (s : State) (imglen : Nat) : Cap :=
  let b := (mkVa 3 s.pkg s.core 0).toNat
  capMake (BitVec.ofNat 64 b) b (b + imglen) codeRootPerms 0 true

/-- The gate of a part: the code root moved to the entry and sealed as type 1; untagged for an empty part. -/
def gateOf (s : State) (root : Cap) (off : Nat) : Cap :=
  if off = noOffset then Cap.null
  else capPut (capSetAddr root (mkVa 3 s.pkg s.core off)) 80 4 1

/-- The root that a capability descriptor names. -/
def rootOf (s : State) (v : Level) (code : Cap) (k : Nat) : Cap :=
  match k with
  | 0 => rootSram s.pkg s.core
  | 1 => rootHbm s.pkg s.core
  | 2 => readRoot s v.scope 0
  | 3 => readRoot s v.scope 1
  | 8 => code
  | _ => Cap.null

/-- KCLIP and KMASK as the agent applies them; none where a task would trap (R194). -/
def capDerive (root : Cap) (off len perms : Nat) : Option Cap :=
  let x := capSetAddr root (BitVec.ofNat 64 (capBase root + off))
  let b := capBase root + off
  let r := encodeBounds b (b + len)
  if !x.tag || decide (2 ^ 64 < b + len) || decide (r.2.1 < capBase root ∨ capTop root < r.2.2) then none
  else
    let y := capMake (capAddr x) b (b + len) (capPerms x) (capType x) true
    some (capPut y 64 16 (capPerms y &&& BitVec.ofNat 16 perms).toNat)

/-- Writes the `.cap` slots of a level; none when a derivation fails. -/
def writeCaps (s : State) (r : List Byte) (v : Level) (code : Cap) (m : Mem) : Option Mem :=
  (List.range v.ncaps).foldl (fun acc i =>
    let d := capDescAt r v i
    match acc, capDerive (rootOf s v code d.root) d.offset d.length d.perms with
    | some m, some c => some (memWriteCap m (((layRegions r v).getD d.region (0, 0)).1 + d.slot) c)
    | _, _ => none) (some m)

/-! ### What the agent writes on the core (R340) -/

/-- Regions with their initial contents; the rest of a region is zero. -/
def writeRegions (plan : LaunchPlan) (v : Level) (m : Mem) : Mem :=
  (List.range v.nregions).foldl (fun m i =>
    let g := regionAt plan.record v i
    if g.ioff = noOffset then m
    else memWrite m ((layRegions plan.record v).getD i (0, 0)).1 (slicePad plan.image g.ioff g.ilen)) m

/-- One channel entry; en is written at COMMIT. -/
def writeEntry (s : State) (r : List Byte) (v : Level) (code : Cap) (m : Mem) (n : Nat) : Mem :=
  let e := entryAt r v n
  let a := schedStart r v + 64 * n
  if e.present then
    let m1 := memWriteCap m a (gateOf s code e.aoff)
    let m2 := memWriteCap m1 (a + 16) (gateOf s code e.eoff)
    memWrite m2 (a + 32) (leBytes 8 (e.flags % 4 * 4 + e.flags / 4 % 4 * 16) ++
      leBytes 8 (ringStart r v n + e.rsize * 2 ^ 24) ++ leBytes 8 0 ++ leBytes 8 e.budget)
  else memWrite m a (List.replicate 64 0#8)

/-- GANGCFG of the core: its block of g² cores, or itself alone. -/
def launchGangcfg (s : State) (v : Level) : Word :=
  let b := (v.gang + 1) * (v.gang + 1)
  putField (putField (CtxState.fresh 0).gangcfg 0 4 v.gang) 8 10 (s.core.toNat / b * b)

/-- SPILLOVF: the area ends at the top of own space 0. -/
def launchSpillovf (n : Nat) : Word := BitVec.ofNat 64 (n + (if n = 0 then 0 else 2 ^ 27 - 4 * n) * 2 ^ 16)

/-- The context as the launch places it on this core; none when a derivation fails. -/
def placeContext (s : State) (plan : LaunchPlan) (v : Level) : Option CtxState :=
  let r := plan.record
  let code := codeRoot s (imageLen r)
  let m := (List.range 64).foldl (writeEntry s r v code) (writeRegions plan v Mem.empty)
  (writeCaps s r v code m).map (fun m =>
    { CtxState.fresh plan.ctx with
      sram := m
      chanbase := BitVec.ofNat 22 (schedStart r v)
      split := BitVec.ofNat 4 v.split
      spillbase := BitVec.ofNat 14 (spillStart r v / 256)
      spilllim := BitVec.ofNat 15 (schedStart r v / 256)
      spillovf := launchSpillovf v.ovf
      gangcfg := launchGangcfg s v
      regions := layRegions r v
      cores := plan.placed
      rootRead := [readRoot s v.scope 0, readRoot s v.scope 1]
      rootCode := code
      suspCap := v.susp
      launchNo := s.nextId })

/-! ### Translation tables and image (R23, R341) -/

/-- Pages of the image, and the level-3 tables that map them. -/
def imagePages (r : List Byte) : Nat := (imageLen r + 65535) / 65536
def imageTables (r : List Byte) : Nat := (imagePages r + 511) / 512

/-- Table frames that a launch takes: both roots, two for space 0, and for space 3 a level-2 table and its leaves. -/
def tablesNeeded (r : List Byte) : Nat := 4 + (if imagePages r = 0 then 0 else 1 + imageTables r)

/-- Data frames below the table area that no valid leaf names, from the highest downward. -/
def freeDataFrames (s : State) : List Nat :=
  let used := dataFramesOf s (leafTables s)
  (List.range (tblFirst s)).reverse.filter (fun f => !used.contains f && !inOvfStore s f)

/-- The leaf of an image page: V, RV and X. -/
def imageLeaf (frame : Nat) : Word := BitVec.ofNat 64 (0x13 + frame * 64)

/-- A valid pointer to a table. -/
def tablePointer (frame : Nat) : Word := BitVec.ofNat 64 (1 + frame * 64)

/-- Page `p` of the image: its bytes in data frame `d`, the rest of which is cleared, and its leaf. `t3`: the level-3 tables. -/
def placePage (image : List Byte) (imglen : Nat) (t3 : List Nat) (s0 : State) (p d : Nat) : State :=
  let bytes := slicePad image (p * 65536) (min 65536 (imglen - p * 65536))
  let s := clearFrame s0 d
  let s1 := { s with home := { s.home with mem := memWrite s.home.mem (d * frameBytes) bytes } }
  putEntry s1 (t3.getD (p / 512) 0) (p % 512) (imageLeaf d)

/-- The tables of R341 from the table frames `ts` and the data frames `ds`. -/
def placeTables (s : State) (plan : LaunchPlan) (ts ds : List Nat) : State :=
  let r := plan.record
  let f := fun i => ts.getD i 0
  let s1 := setHolders (ts.foldl clearFrame s) plan.ctx (ts ++ ds.take (imagePages r))
  let s2 := putEntry (putEntry s1 (f 0) 0 (tablePointer (f 2))) (f 2) 0 (tablePointer (f 3))
  let s3 := if imagePages r = 0 then s2 else putEntry s2 (f 1) 0 (tablePointer (f 4))
  let t3 := ts.drop 5
  let s4 := (List.range (imageTables r)).foldl (fun s i => putEntry s (f 4) i (tablePointer (t3.getD i 0))) s3
  let s5 := (List.range (imagePages r)).foldl (fun s p => placePage plan.image (imageLen r) t3 s p (ds.getD p 0)) s4
  putEntry s5 (tblFirst s5) plan.ctx.toNat
    (BitVec.ofNat 64 (f 0 + 2 ^ 14 + f 1 * 2 ^ 16 + 2 ^ 30))

/-! ### PREPARE (R340 to R342) -/

/-- Packets between launch agents (MODEL): what each kind says. -/
def msgForward : BitVec 8 := 0
def msgPrepare : BitVec 8 := 1
def msgReady : BitVec 8 := 2
def msgRefuse : BitVec 8 := 3
def msgCommit : BitVec 8 := 4
def msgCommitted : BitVec 8 := 5
def msgAbort : BitVec 8 := 6

/-- The lead is the lowest-numbered allowed package. -/
def leadOf (ps : List (BitVec 9)) : Option (BitVec 9) :=
  ps.foldl (fun a p => match a with
    | none => some p
    | some q => if p.toNat < q.toNat then some p else some q) none

/-- An agent tells another package's agent, or meets the event itself. -/
def tellAgent (s : State) (dest : BitVec 9) (kind : BitVec 8) (ctx : BitVec 12) (own : Instr) : State :=
  if dest = s.pkg then queueEvent s own else emit s (.launchMsg kind ctx dest)

/-- The answer to PREPARE, with the reason of a refusal. -/
def answerPrepare (s : State) (plan : LaunchPlan) (ready : Bool) (reason : Nat) : State :=
  match leadOf plan.packages with
  | none => s
  | some l =>
    tellAgent s l (if ready then msgReady else msgRefuse) plan.ctx
      (.prepareAnswer plan.ctx s.pkg ready (BitVec.ofNat 8 reason))

/-- Contexts of the core. -/
def contextCount (s : State) : Nat := (if s.cx.num = 0 then 0 else 1) + s.others.length

/-- The core may take one more context (R340). -/
def coreOffers (s : State) : Bool :=
  !s.outOfService.contains s.core && decide (contextCount s ≤ field s.regs.ctxsave 16 2) &&
    !(s.pk.fatals.contains s.cx.num) && !(s.others.any (fun c => s.pk.fatals.contains c.num))

/-- A new context takes its place in the turn: after every context that the core had, in launch order. -/
def addContext (s : State) (c : CtxState) : State :=
  if s.cx.num = 0 then { s with cx := c }
  else
    let later := fun (x : CtxState) => decide (s.cx.launchNo < x.launchNo)
    { s with others := s.others.takeWhile later ++ [{ c with residency := .out }] ++ s.others.dropWhile later }

/-- What the package does on this core for a level, or why it refuses. -/
def prepareCore (s : State) (plan : LaunchPlan) (v : Level) : Except Nat State :=
  let ts := freeTableFrames s
  let ds := freeDataFrames s
  let n := tablesNeeded plan.record
  if !coreOffers s then .error whyNoCores
  else if !layoutFits plan.record v then .error whyNoSpace
  else if ts.length < n ∨ ds.length < imagePages plan.record ∨ tblCount s = 0 then .error whyNoSpace
  else match placeContext s plan v with
    | none => .error whyCap
    | some c => .ok (addContext { placeTables s plan (ts.take n) ds with nextId := s.nextId + 1 } c)

/-- The package runs: its launch agent accepts requests (R389 READY). -/
def isReady (s : State) : Bool := decide (field s.pk.bootstat 0 4 = 6) && !s.pk.bootstat.getLsbD 6

/-- The context of a launch message from the lead to this package. -/
def launchOf : Instr → Option (BitVec 12)
  | .prepare plan => some plan.ctx
  | .commit ctx => some ctx
  | .launchAbort ctx => some ctx
  | _ => none

/-- The lead's messages of one launch are met in the order in which they came (R342): one does not overtake another that has
to wait. -/
def overtakes (waiting : List Event) (ev : Event) : Bool :=
  match launchOf ev.row with
  | some ctx => waiting.any (fun w => decide (launchOf w.row = some ctx))
  | none => false

/-- PREPARE at this package, which must run. A table operation under way is waited for: the agent's writes are writes through PTWD. -/
def execPrepare (plan : LaunchPlan) (s : State) : Out :=
  event (do
    let s ← get
    if isReady s = false ∨ plan.ctx = 0 ∨ (findCtx s plan.ctx).isSome = true ∨ s.pk.prepared.any (fun p => decide (p.ctx = plan.ctx)) = true then
      noSubject
    else if !recordOk plan.record then set (answerPrepare s plan false whyRecord)
    else
      let noted := fun (s : State) => { s with pk := { s.pk with prepared := s.pk.prepared ++ [plan] } }
      match plan.level with
      | none => set (answerPrepare (noted s) plan true 0)
      | some l =>
        if leAt plan.record 0 1 ≤ l then noSubject
        else if s.tableOp.isSome then holdOther
        else match prepareCore s plan (levelAt plan.record l) with
          | .ok s1 => set (answerPrepare (noted s1) plan true 0)
          | .error e => set (answerPrepare s plan false e)) s

/-! ### The placement (R340) -/

/-- Cores lo to lo + n − 1 of a package: an instance of a domain, or a package's part of a POD instance. -/
structure Block where
  pkg : BitVec 9
  lo : Nat
  n : Nat
  deriving DecidableEq, Repr

abbrev Instance := List Block

def blockCores (b : Block) : List (BitVec 9 × BitVec 10) :=
  (List.range b.n).map (fun i => (b.pkg, BitVec.ofNat 10 (b.lo + i)))

def inBlock (c : BitVec 9 × BitVec 10) (b : Block) : Bool :=
  decide (c.1 = b.pkg) && decide (b.lo ≤ c.2.toNat ∧ c.2.toNat < b.lo + b.n)

/-- Packages in ascending order. -/
def inOrder (ps : List (BitVec 9)) : List (BitVec 9) := ((List.range 512).map (BitVec.ofNat 9)).filter (fun p => ps.contains p)

/-- The instances of a domain in the allowed packages, lowest-numbered first: by package, then by index. The one POD
instance is all cores of the pod. -/
def instancesOf (s : State) (allowed : List (BitVec 9)) (domain : Nat) : List Instance :=
  match domainCores domain with
  | some n =>
    (inOrder (allowed.filter (fun p => s.members.contains p))).flatMap (fun p =>
      (List.range (1024 / n)).map (fun k => [{ pkg := p, lo := k * n, n := n }]))
  | none =>
    if s.members.all (fun p => allowed.contains p) then
      [(inOrder s.members).map (fun p => { pkg := p, lo := 0, n := 1024 })]
    else []

/-- What a core offers: `some false`, it holds no other context; `some true`, it may take one more; none, neither. -/
def coreUse (s : State) (sub : LaunchSubmit) (c : BitVec 9 × BitVec 10) : Option Bool :=
  if c.1 = s.pkg ∧ s.outOfService.contains c.2 = true then none
  else if c.1 = s.pkg ∧ c.2 = s.core then
    (if coreOffers s then some (decide (contextCount s ≠ 0)) else none)
  else match sub.uses.find? (fun u => decide (u.1 = c)) with
    | some u => if u.2 then some true else none
    | none => some false

/-- The first `n` members of a list that satisfy `p`. -/
def takeWhere {α : Type} (p : α → Bool) : Nat → List α → List α
  | 0, _ => []
  | _, [] => []
  | n + 1, x :: r => if p x then x :: takeWhere p n r else takeWhere p (n + 1) r

/-- A level's instances, in ascending order; none when `count` cannot be found. -/
def placeLevel (s : State) (sub : LaunchSubmit) (taken : List Block) (v : Level) : Option (List Instance) :=
  let all := instancesOf s sub.packages v.domain
  let unused := fun (c : BitVec 9 × BitVec 10) => !(taken.any (inBlock c))
  let ok := fun (shared : Bool) (x : Instance) => x.all (fun b => (blockCores b).all (fun c =>
    unused c && (match coreUse s sub c with | some u => shared || !u | none => false)))
  let first := takeWhere (ok false) v.count all
  let second := takeWhere (fun x => !first.contains x && ok true x) (v.count - first.length) all
  let chosen := first ++ second
  if chosen.length < v.count then none
  else if second.isEmpty then some first
  else some (all.filter (fun x => chosen.contains x))

/-- The levels are placed in order. -/
def placeLevels (s : State) (sub : LaunchSubmit) : Option (List (List Instance)) :=
  (List.range (leAt sub.record 0 1)).foldl (fun acc l =>
    match acc with
    | none => none
    | some ls => (placeLevel s sub (ls.flatten.flatten) (levelAt sub.record l)).map (fun x => ls ++ [x])) (some [])

def blocksSize (bs : List Block) : Nat := natSum (bs.map (·.n))

/-- The instance of a level that holds a core: its number and the cores of the level below this core. -/
def findInstance (c : BitVec 9 × BitVec 10) (xs : List Instance) : Option (Nat × Nat) :=
  match xs.findIdx? (fun x => x.any (inBlock c)) with
  | none => none
  | some i =>
    let x := xs.getD i []
    let below := x.takeWhile (fun b => !inBlock c b)
    let lo := (x.find? (inBlock c)).elim 0 (·.lo)
    some (i, blocksSize (xs.take i).flatten + blocksSize below + (c.2.toNat - lo))

/-- The plan of a placement, as it concerns this core. -/
def planOf (s : State) (sub : LaunchSubmit) (ls : List (List Instance)) : LaunchPlan :=
  let me := (s.pkg, s.core)
  let level := ls.findIdx? (fun xs => (findInstance me xs).isSome)
  let xs := (level.map (fun l => ls.getD l [])).getD []
  let at_ := (findInstance me xs).getD (0, 0)
  { ctx := sub.ctx, record := sub.record, image := sub.image, packages := sub.packages, level := level,
    instanceNo := BitVec.ofNat 32 at_.1, rank := BitVec.ofNat 32 at_.2,
    levelCores := BitVec.ofNat 32 (blocksSize xs.flatten),
    cores := BitVec.ofNat 32 (blocksSize ls.flatten.flatten),
    placed := ls.flatten.flatten.flatMap blockCores }

/-! ### The lead (R342, R343) -/

/-- Bit p of a package bitmap of 54 bytes. -/
def packageMap (ps : List (BitVec 9)) : List Byte := leBytes 54 (natSum (ps.map (fun p => 2 ^ p.toNat)))

/-- The launch report (Table 10). -/
def launchReport (ctx : BitVec 12) (status reason cores : Nat) (ps : List (BitVec 9)) : List Byte :=
  leBytes 1 status ++ leBytes 1 reason ++ leBytes 2 ctx.toNat ++ leBytes 4 cores ++ packageMap ps ++ leBytes 2 0

/-- Launches in their two phases: LSTAT.busy of the context. -/
def launchBusy (l : Launch) : Bool := decide (l.phase = .preparing ∨ l.phase = .committing)

def findLaunch (s : State) (ctx : BitVec 12) : Option Launch :=
  s.pk.launches.find? (fun l => decide (l.plan.ctx = ctx) && launchBusy l)

def putLaunch (s : State) (l : Launch) : State :=
  { s with pk := { s.pk with launches := s.pk.launches.filter (fun x => decide (x.plan.ctx ≠ l.plan.ctx)) ++ [l] } }

/-- Every allowed package is told. -/
def tellAll (s : State) (l : Launch) (kind : BitVec 8) (own : Instr) : State :=
  l.plan.packages.foldl (fun s p => tellAgent s p kind l.plan.ctx own) s

/-- The lead gives the launch up: ABORT to every package, and the report. -/
def giveUp (s : State) (l : Launch) (reason : Nat) (ps : List (BitVec 9)) : State :=
  let s1 := putLaunch s { l with phase := .aborted }
  emit (tellAll s1 l msgAbort (.launchAbort l.plan.ctx)) (.launchReport (launchReport l.plan.ctx 1 reason 0 ps))

/-- A launch of the context is in its two phases: at the lead, or prepared here (R342, R372 LSTAT.busy). -/
def launchInPhases (s : State) (ctx : BitVec 12) : Bool :=
  (findLaunch s ctx).isSome || s.pk.prepared.any (fun p => decide (p.ctx = ctx))

/-- HOST_LAUNCH: the write to LAUNCH of a context's private page. -/
def execHostLaunch (sub : LaunchSubmit) (s : State) : Out :=
  event (do
    let p ← pageOff
    let s ← get
    needOff (decide (p.2 = 0) && decide (p.1 = sub.ctx) && decide (sub.ctx ≠ 0))
    if launchInPhases s sub.ctx = true ∨ isReady s = false then pure ()
    else match leadOf sub.packages with
      | none => set (emit s (.launchReport (launchReport sub.ctx 1 whyNoCores 0 [])))
      | some l =>
        if l ≠ s.pkg then set (emit s (.launchMsg msgForward sub.ctx l))
        else if (findCtx s sub.ctx).isSome then set (emit s (.launchReport (launchReport sub.ctx 1 whyRefused 0 [])))
        else if !recordOk sub.record then set (emit s (.launchReport (launchReport sub.ctx 1 whyRecord 0 [])))
        else match placeLevels s sub with
          | none => set (emit s (.launchReport (launchReport sub.ctx 1 whyNoCores 0 [])))
          | some ls =>
            let n : Launch := { plan := planOf s sub ls, phase := .preparing, answered := [] }
            set (tellAll (putLaunch s n) n msgPrepare (.prepare n.plan))) s

/-- The package answers for the first time in this phase. -/
def answers (l : Launch) (p : LaunchPhase) (pkg : BitVec 9) : Bool :=
  decide (l.phase = p) && l.plan.packages.contains pkg && !l.answered.contains pkg

/-- With this answer every allowed package has answered. -/
def allAnswered (l : Launch) (pkg : BitVec 9) : Bool :=
  l.plan.packages.all (fun p => decide (p = pkg) || l.answered.contains p)

/-- PREPARE_ANSWER at the lead. -/
def execPrepareAnswer (ctx : BitVec 12) (pkg : BitVec 9) (ready : Bool) (reason : BitVec 8) (s : State) : Out :=
  event (do
    let s ← get
    match findLaunch s ctx with
    | none => noSubject
    | some l =>
      if !answers l .preparing pkg then noSubject
      else if !ready then set (giveUp s l (if reason = 0 then whyRefused else reason.toNat) [pkg])
      else if allAnswered l pkg then
        let l1 := { l with phase := .committing, answered := [] }
        set (tellAll (putLaunch s l1) l1 msgCommit (.commit ctx))
      else set (putLaunch s { l with answered := l.answered ++ [pkg] })) s

/-- COMMITTED at the lead. -/
def execCommitted (ctx : BitVec 12) (pkg : BitVec 9) (s : State) : Out :=
  event (do
    let s ← get
    match findLaunch s ctx with
    | none => noSubject
    | some l =>
      if !answers l .committing pkg then noSubject
      else if allAnswered l pkg then
        let s1 := putLaunch s { l with phase := .launched, answered := l.answered ++ [pkg] }
        set (emit s1 (.launchReport (launchReport ctx 0 0 l.plan.cores.toNat [])))
      else set (putLaunch s { l with answered := l.answered ++ [pkg] })) s

/-- LAUNCH_TIMEOUT: some package has not answered within the header's timeout. -/
def execLaunchTimeout (s : State) : Out :=
  event (do
    let s ← get
    match s.access.request with
    | .launch ctx =>
      match findLaunch s ctx with
      | none => noSubject
      | some l => set (giveUp s l whyTimeout (l.plan.packages.filter (fun p => !l.answered.contains p)))
    | _ => noSubject) s

/-! ### COMMIT and ABORT at a package (R342, R343) -/

/-- Every present channel of a context, enabled or not. -/
def setEnables (cx : CtxState) (b : Bool) : CtxState :=
  (List.range 64).foldl (fun c n => if chanPresent c n then setChanFlagBits c n 0 1 b.toNat else c) cx

/-- The SYSTEM message of R343. -/
def startPayload (plan : LaunchPlan) (level : Nat) : List Byte :=
  takePad 48 (leBytes 1 level ++ leBytes 3 0 ++ leBytes 4 plan.instanceNo.toNat ++ leBytes 4 plan.rank.toNat ++
    leBytes 4 plan.levelCores.toNat)

/-- Every channel of the resident context that its bits now open is dispatched (R332). -/
def reevaluateAll (s : State) : State := (List.range 64).foldl reevaluate s

/-- The context's channels are enabled, and those whose rings hold a record are dispatched where it is resident. -/
def openChannels (s : State) (cx : CtxState) : State :=
  let s1 := putCtx s (setEnables cx true)
  if s.cx.num = cx.num then reevaluateAll s1 else s1

/-- COMMIT at this package, which must run: channels are enabled, the start message is delivered, and the package answers. -/
def execCommit (ctx : BitVec 12) (s : State) : Out :=
  event (do
    let s ← get
    if !isReady s then noSubject else
    match s.pk.prepared.find? (fun p => decide (p.ctx = ctx)), findCtx s ctx with
    | none, _ => noSubject
    | some plan, c =>
      let s1 := { s with pk := { s.pk with prepared := s.pk.prepared.filter (fun p => decide (p.ctx ≠ ctx)) } }
      let s2 := match plan.level, c with
        | some l, some cx =>
          agentMessage (openChannels s1 cx) ctx s.core 0 kindSystem (slotsOf (startPayload plan l)) none
        | _, _ => s1
      match leadOf plan.packages with
      | none => set s2
      | some l => set (tellAgent s2 l msgCommitted ctx (.committed ctx s.pkg))) s

/-- Every ring of a context is empty and no channel is active. -/
def emptyRings (cx : CtxState) : CtxState :=
  (List.range 64).foldl (fun c n => if chanPresent c n then setChanActive (setChanRing c n 0 0) n false else c) cx

/-- Tasks of a context in the slots of the core. -/
def slotTasks (s : State) (ctx : BitVec 12) : List Task :=
  (List.range 4).filterMap (fun k => match slotAt s k with
    | .running t => if t.ctx = ctx then some t else none
    | .held t _ => if t.ctx = ctx then some t else none
    | _ => none)

/-- The resident context's tasks are aborted as DROP, without reports. -/
def dropTasks (s : State) : State :=
  let ts := slotTasks s s.cx.num ++ s.cx.susp.map (·.1)
  let s1 := { s with slots := Vector.replicate 4 .free, cx := { s.cx with susp := [], runq := [] } }
  ts.foldl (fun s t => abortEffects s t true) s1

/-- A suspended task of a context that is out is aborted as DROP: its reservations and its port are given up, and its flags
are folded (R350 Table 2, R169). -/
def dropOut (s : State) (ctx : BitVec 12) (t : Task) : State :=
  let s1 := abortPort (releaseSpawns s t) t
  match findCtx s1 ctx with
  | some c => putCtx s1 (orNumsum c t.numflags.toNat)
  | none => s1

/-- What an aborted launch discards at once. -/
def discardLaunch (s : State) (ctx : BitVec 12) (cx : CtxState) : State :=
  let s1 := putCtx { s with ovf := s.ovf.filter (fun e => decide (e.ctx ≠ ctx)) }
    { setEnables cx false with held := [], inStreams := [] }
  let s2 := if s.cx.num = ctx then dropTasks s1
    else cx.susp.foldl (fun s p => dropOut s ctx p.1) s1
  match findCtx s2 ctx with
  | none => s2
  | some c => putCtx s2 { emptyRings c with susp := [], runq := [], results := [] }

/-- Nothing of the context is left to discard. -/
def isDiscarded (s : State) (ctx : BitVec 12) (cx : CtxState) : Bool :=
  (slotTasks s ctx).isEmpty && cx.susp.isEmpty && cx.runq.isEmpty && cx.held.isEmpty &&
    !(s.ovf.any (fun e => decide (e.ctx = ctx))) &&
    (List.range 64).all (fun n => !chanPresent cx n || (!chanEn cx n && decide (chanUsed cx n = 0)))

/-- Engines and the store buffer still act for the context. -/
def enginesBusy (s : State) (ctx : BitVec 12) : Bool :=
  s.sb.any (fun e => decide (e.ctx = ctx)) || s.copies.any (fun c => decide (c.ctx = ctx)) ||
    s.mxQueue.any (fun c => decide (c.ctx = ctx)) ||
    (match s.mxRun with | some r => decide (r.cmd.ctx = ctx) | none => false) ||
    s.sendQueue.any (fun c => decide (c.ctx = ctx)) || s.sending.any (fun x => decide (x.contrib.ctx = ctx))

/-- LAUNCH_ABORT at this package: discards at once, and releases the core when what had started has run to its end. -/
def execLaunchAbort (ctx : BitVec 12) (s : State) : Out :=
  event (do
    let s ← get
    let s0 := { s with pk := { s.pk with prepared := s.pk.prepared.filter (fun p => decide (p.ctx ≠ ctx)) } }
    match findCtx s0 ctx with
    | none => set s0
    | some cx =>
      if !isDiscarded s0 ctx cx then set (queueEvent (discardLaunch s0 ctx cx) (.launchAbort ctx))
      else if enginesBusy s0 ctx || s0.tableOp.isSome then holdOther
      else set (retireEpoch (clearDirectory (removeContext s0 ctx) ctx))) s

end Sys2Proof.Machine
end

