-- ==== Sys2Proof/Machine/RegRows.lean ====
section
/-! DEFINITION. The register rows: a write or a clearing read of a control register as an event of its own, with the
register, the value and the slot taken from `access` (R6 to R8, R34, R35, R55, R69, R70, R101, R105, R114, R127, R142,
R144, R166, R169, R170, R275, R337, R344, R346, R353, R385, R395). -/
namespace Sys2Proof.Machine

/-- The register that the access names, when it is one of the row's. -/
def accessedReg (p : Reg → Bool) : Eff Reg := do
  let s ← get
  match s.access.addr with
  | .aperture _ _ _ => noSubject
  | .control n =>
    match regOf n with
    | some r => if p r then pure r else noSubject
    | none => noSubject

/-- A write row. -/
def writeRow (p : Reg → Bool) : Eff Unit := do
  let r ← accessedReg p
  let s ← get
  writeReg? s.access.slot.toNat r s.access.value

/-- A read row: the value leaves, and the RC fields are cleared. -/
def readRow (p : Reg → Bool) : Eff Unit := do
  let r ← accessedReg p
  let s ← get
  let k := s.access.slot.toNat
  set (emit (clearOnRead s r) (.registerRead (readReg? s (taskIn s k) k r)))

def execOvfcfgWrite (s : State) : Out := event (writeRow (fun r => decide (r = .ovfcfg))) s
def execOvfstatRead (s : State) : Out := event (readRow (fun r => decide (r = .ovfstat))) s
def execSpillovfWrite (s : State) : Out := event (writeRow (fun r => decide (r = .spillovf))) s
def execRvcfgWrite (s : State) : Out := event (writeRow (fun r => decide (r = .rvcfg))) s
def execRvclrRead (s : State) : Out := event (readRow (fun r => decide (r = .rvclr))) s
def execTblcfgWrite (s : State) : Out := event (writeRow (fun r => decide (r = .tblcfg))) s
def execPtwsWrite (s : State) : Out := event (writeRow (fun r => decide (r = .ptws))) s
def execSplitWrite (s : State) : Out := event (writeRow (fun r => decide (r = .split))) s
def execVgroupWrite (s : State) : Out := event (writeRow (fun r => decide (r = .vgroup))) s
def execSpillBoundsWrite (s : State) : Out :=
  event (writeRow (fun r => decide (r = .spillbase) || decide (r = .spilllim))) s

def isTshape : Reg → Bool
  | .tshape _ => true
  | _ => false

def isWctl : Reg → Bool
  | .wctl _ => true
  | _ => false

def execTshapeWrite (s : State) : Out := event (writeRow isTshape) s
def execWctlWrite (s : State) : Out := event (writeRow isWctl) s
def execWctlRead (s : State) : Out := event (readRow isWctl) s
def execNumsumRead (s : State) : Out := event (readRow (fun r => decide (r = .numsum))) s
def execNumsumWrite (s : State) : Out := event (writeRow (fun r => decide (r = .numsum))) s
def execCpstatWrite (s : State) : Out := event (writeRow (fun r => decide (r = .cpstat))) s
def execGangcfgWrite (s : State) : Out := event (writeRow (fun r => decide (r = .gangcfg))) s
def execCtxsaveWrite (s : State) : Out := event (writeRow (fun r => decide (r = .ctxsave))) s
def execSliceWrite (s : State) : Out := event (writeRow (fun r => decide (r = .slice))) s
def execWdbudgetWrite (s : State) : Out := event (writeRow (fun r => decide (r = .wdbudget))) s
def execRunqstatRead (s : State) : Out := event (readRow (fun r => decide (r = .runqstat))) s
def execKeycmdRevoke (s : State) : Out := event (writeRow (fun r => decide (r = .keycmd))) s
def execEcccntRead (s : State) : Out := event (readRow (fun r => decide (r = .ecccnt))) s
def execScrubcfgWrite (s : State) : Out := event (writeRow (fun r => decide (r = .scrubcfg))) s
def execSnapstatWrite (s : State) : Out := event (writeRow (fun r => decide (r = .snapstat))) s

/-- PTWD while PTWA.op is not MOVE (R70: codes 2 and 3 are refused). -/
def execPtwWrite (s : State) : Out :=
  event (do
    let s ← get
    if ptwaOp s = 1 then noSubject else writeRow (fun r => decide (r = .ptwd))) s

/-- PTWD while PTWA.op is MOVE (R73). -/
def execPtwMove (s : State) : Out :=
  event (do
    let s ← get
    if ptwaOp s = 1 then writeRow (fun r => decide (r = .ptwd)) else noSubject) s

/-- Registers whose writes have no row of their own. -/
def hasNoRow : Reg → Bool
  | .ovfcfg => false | .spillovf => false | .rvcfg => false | .tblcfg => false | .ptws => false | .split => false
  | .vgroup => false | .spillbase => false | .spilllim => false | .tshape _ => false | .wctl _ => false
  | .numsum => false | .cpstat => false | .gangcfg => false | .ctxsave => false | .slice => false
  | .wdbudget => false | .keycmd => false | .scrubcfg => false | .snapstat => false | .ptwd => false
  | _ => true

end Sys2Proof.Machine
end

