-- ==== Sys2Proof/Machine/Host.lean ====
section
/-! DEFINITION. The host side of the register aperture: what reads give, refused accesses, windows, doorbells, secure-stream
binding, host reads (R372 to R377, R386, R387). -/
namespace Sys2Proof.Machine

/-! ### Registers of a private page (R372 Table 2) -/

def HostWin.none (ctx : BitVec 12) (n : BitVec 4) : HostWin := { ctx := ctx, n := n, regA := 0, regB := 0 }

def winAt (s : State) (ctx : BitVec 12) (n : BitVec 4) : HostWin :=
  (s.pk.wins.find? (fun w => decide (w.ctx = ctx) && decide (w.n = n))).getD (HostWin.none ctx n)

def putWin (s : State) (w : HostWin) : State :=
  { s with pk := { s.pk with
      wins := s.pk.wins.filter (fun x => !(decide (x.ctx = w.ctx) && decide (x.n = w.n))) ++ [w] } }

def SecureStream.none (ctx : BitVec 12) (m : BitVec 4) : SecureStream :=
  { ctx := ctx, m := m, queue := 0, bound := false, error := false, unitsIn := 0, unitsOut := 0 }

def findStream (s : State) (ctx : BitVec 12) (m : BitVec 4) : Option SecureStream :=
  s.pk.streams.find? (fun x => decide (x.ctx = ctx) && decide (x.m = m))

def putSecure (s : State) (x : SecureStream) : State :=
  { s with pk := { s.pk with
      streams := s.pk.streams.filter (fun y => !(decide (y.ctx = x.ctx) && decide (y.m = x.m))) ++ [x] } }

/-- CTXSTAT.state. -/
def ctxstatOf (s : State) (ctx : BitVec 12) : Nat :=
  if s.pk.fatals.contains ctx then 3
  else match findCtx s ctx with
    | none => 0
    | some c => if c.residency = .absent then 2 else 1

/-- A register of a private page, as it reads. WO fields, unlisted offsets and the page of context 0 read as zero. -/
def pageRead (s : State) (ctx : BitVec 12) (off : Nat) : Word :=
  if ctx = 0 then 0
  else if off = 0x008 then Word.ofBool (launchInPhases s ctx)
  else if off = 0x020 then BitVec.ofNat 64 (ctxstatOf s ctx)
  else if 0x100 ≤ off ∧ off < 0x200 ∧ off % 16 = 0 then (winAt s ctx (BitVec.ofNat 4 ((off - 0x100) / 16))).regA
  else if 0x100 ≤ off ∧ off < 0x200 ∧ off % 16 = 8 then (winAt s ctx (BitVec.ofNat 4 ((off - 0x100) / 16))).regB
  else if 0x200 ≤ off ∧ off < 0x280 ∧ off % 8 = 0 then
    match findStream s ctx (BitVec.ofNat 4 ((off - 0x200) / 8)) with
    | some x => BitVec.ofNat 64 (x.queue.toNat + x.bound.toNat * 2 ^ 8 + x.error.toNat * 2 ^ 9)
    | none => 0
  else 0

/-- A shared register, as it reads (R372 Table 1, R373, R394 Table 2). -/
def sharedRead (s : State) (off : Nat) : Word :=
  if off = 0x0000 then 0x011024
  else if off = 0x0008 then s.pk.bootstat
  else if off = 0x0018 then s.pk.pwrstat
  else if off = 0x1000 then s.pk.routecfg
  else if off = 0x1008 then s.pk.routestat
  else if off = 0x1010 then s.pk.lnkcfg
  else if off = 0x1018 then s.pk.lnkfence
  else if 0x1100 ≤ off ∧ off < 0x1100 + 8 * 72 ∧ off % 8 = 0 then lnkstatOf (linkAt s ((off - 0x1100) / 8))
  else if off = 0x2000 then s.pk.denyhead.setWidth 64
  else if 0x2100 ≤ off ∧ off < 0x2500 ∧ off % 8 = 0 then
    (vget s.pk.denylog ((off - 0x2100) / 16) 0).extractLsb' (off % 16 * 8) 64
  else 0

/-- What a host read of the aperture returns (R372, R373). -/
def apertureRead (s : State) (off : BitVec 32) (trusted : Bool) : Word :=
  match placeOf off with
  | .shared n => sharedRead s n
  | .page c n => if trusted then pageRead s c n else BitVec.allOnes 64

/-! ### Refused accesses (R373) -/

/-- An ACCESS_DENIED record. -/
def denyRecord (off : Nat) (ctx : BitVec 12) (write : Bool) (queue : BitVec 16) : BitVec 128 :=
  BitVec.ofNat 128 (leNat (leBytes 8 off ++ leBytes 2 ctx.toNat ++ leBytes 1 write.toNat ++ leBytes 1 0 ++
    leBytes 2 queue.toNat ++ leBytes 2 0))

def denyLog (s : State) (off : Nat) (ctx : BitVec 12) (write : Bool) (queue : BitVec 16) : State :=
  { s with pk := { s.pk with
      denylog := vset s.pk.denylog (s.pk.denyhead.toNat % 64) (denyRecord off ctx write queue)
      denyhead := s.pk.denyhead + 1 } }

/-- ACCESS_DENIED: a request for a private page without the trusted bit. -/
def execAccessDenied (s : State) : Out :=
  event (do
    let s ← get
    match s.access.addr with
    | .aperture off false q =>
      match placeOf off with
      | .page c n =>
        let s1 := denyLog s n c s.access.write q
        set (if s.access.write then s1 else emit s1 (.registerRead (BitVec.allOnes 64)))
      | .shared _ => noSubject
    | _ => noSubject) s

/-! ### Host windows (R374, R375) -/

def winSlot (w : HostWin) : Nat := field w.regB 32 22

/-- Fields of HWINnB that a write sets. -/
def winMask : Word := 0x803FFFFFFFFFFFFF

/-- The window number of a page offset, of HWINnA or HWINnB. -/
def winNumber (off : Nat) : BitVec 4 := BitVec.ofNat 4 ((off - 0x100) / 16)
def isWinA (off : Nat) : Bool := decide (0x100 ≤ off ∧ off < 0x200 ∧ off % 16 = 0)
def isWinB (off : Nat) : Bool := decide (0x100 ≤ off ∧ off < 0x200 ∧ off % 16 = 8)

/-- It overlaps another valid window of the context. -/
def winOverlaps (s : State) (w : HostWin) : Bool :=
  s.pk.wins.any (fun x => decide (x.ctx = w.ctx) && decide (x.n ≠ w.n) && winValid x &&
    overlaps (winBase x) (winBytes x) (winBase w) (winBytes w))

/-- The window root on a core: LD PULL ROAM, and ST on the writer core. -/
def winRoot (s : State) (w : HostWin) : Cap :=
  let b := (mkVa 2 s.pkg 0 0).toNat + winBase w
  let st := w.regB.getLsbD 30 && decide (field w.regB 20 10 = s.core.toNat)
  capMake (BitVec.ofNat 64 b) b (b + winBytes w) (if st then 0x0843 else 0x0841) 0 true

/-- The slot lies in a named region of the core. -/
def slotInRegion (cx : CtxState) (off : Nat) : Bool :=
  decide (off % 16 = 0) && cx.regions.any (fun r => decide (r.1 ≤ off ∧ off + 16 ≤ r.1 + r.2))

/-- The root in its slot, when the context has this core. -/
def depositRoot (s : State) (w : HostWin) : State :=
  match findCtx s w.ctx with
  | none => s
  | some cx => putCtx s { cx with sram := memWriteCap cx.sram (winSlot w) (winRoot s w) }

/-- The window can become valid. -/
def winAccepted (s : State) (w : HostWin) : Bool :=
  !winOverlaps s w && decide (winBase w + winBytes w ≤ 2 ^ 43) &&
    (match findCtx s w.ctx with | none => true | some cx => slotInRegion cx (winSlot w))

/-- A value that HWINnB takes: its slot is a multiple of 16; any other leaves the register unchanged (R8). -/
def winValueOk (v : Word) : Bool := decide (field v 32 22 % 16 = 0)

/-- HWIN_REGISTER: valid goes from 0 to 1. -/
def execHwinRegister (s : State) : Out :=
  event (do
    let p ← pageOff
    let s ← get
    let old := winAt s p.1 (winNumber p.2)
    needOff (isWinB p.2 && decide (p.1 ≠ 0) && s.access.value.getLsbD 63 && !winValid old)
    let w := { old with regB := s.access.value &&& winMask }
    if !winValueOk s.access.value then pure ()
    else if winAccepted s w then set (depositRoot (putWin s w) w)
    else set (putWin s { w with regB := putField w.regB 63 1 0 })) s

/-- Stores and atomics of the context that are on their way to the window. -/
def winBusy (s : State) (w : HostWin) : Bool :=
  s.sb.any (fun e => decide (e.ctx = w.ctx) && decide (vaSpace e.va = 2) && decide (vaPkg e.va = s.pkg) &&
    overlaps (vaOff e.va) (sbLen e) (winBase w) (winBytes w))

/-- HWIN_UNREGISTER: valid goes from 1 to 0 once the accepted stores have been performed. -/
def execHwinUnregister (s : State) : Out :=
  event (do
    let p ← pageOff
    let s ← get
    let old := winAt s p.1 (winNumber p.2)
    needOff (isWinB p.2 && decide (p.1 ≠ 0) && !s.access.value.getLsbD 63 && winValid old)
    if winBusy s old then holdOther
    else
      let s1 := putWin s { old with regB := putField old.regB 63 1 0 }
      set { s1 with pk := { s1.pk with retired := s1.pk.retired.filter (fun w => decide (w ≠ old)) ++ [old] } }) s

/-- Writes of the aperture that have no row of their own: HWINnA, and HWINnB without a change of valid (R374); anything
else that is listed is RO, or does nothing (R6, R372). -/
def pageWrite (s : State) (ctx : BitVec 12) (off : Nat) (v : Word) : State :=
  let w := winAt s ctx (winNumber off)
  if ctx = 0 then s
  else if isWinA off && !winValid w then putWin s { w with regA := v &&& 0xFFFFFFFFFFFFF000 }
  else if isWinB off && !winValid w && winValueOk v then putWin s { w with regB := v &&& (winMask &&& 0x7FFFFFFFFFFFFFFF) }
  else s

/-- Rows of their own that a trusted write to a private page has. -/
def pageHasRow (s : State) (ctx : BitVec 12) (off : Nat) (v : Word) : Bool :=
  decide (off = 0x000) || decide (off = 0x010) || decide (off = 0x018 ∧ (field v 0 2 = 1 ∨ field v 0 2 = 2)) ||
    decide (ctx ≠ 0 ∧ 0x200 ≤ off ∧ off < 0x280 ∧ off % 8 = 0) ||
    (isWinB off && decide (ctx ≠ 0) && decide (v.getLsbD 63 ≠ winValid (winAt s ctx (winNumber off))))

/-- Rows of their own that a write to a shared offset has. -/
def sharedHasRow (off : Nat) : Bool :=
  decide (off = 0x0010) || decide (off = 0x1000) || decide (off = 0x1010) || decide (off = 0x1018)

/-- REGISTER_WRITE (R6): a control register, or an offset of the aperture, without a row of its own. -/
def execRegisterWrite (s : State) : Out :=
  event (do
    let s ← get
    match s.access.addr with
    | .control _ => writeRow hasNoRow
    | .aperture off trusted _ =>
      match placeOf off with
      | .shared n => if sharedHasRow n then noSubject else pure ()
      | .page c n =>
        if !trusted || pageHasRow s c n s.access.value then noSubject
        else set (pageWrite s c n s.access.value)) s

/-! ### Doorbells (R376, R387) -/

/-- The doorbell payload. -/
def doorbellPayload (v : Word) : List Byte := takePad 48 (leBytes 1 0x81 ++ leBytes 7 0 ++ leBytes 6 (field v 16 48))

/-- The request's queue is that of a stream in ERROR. -/
def queueRefused (s : State) (ctx : BitVec 12) (q : BitVec 16) : Bool :=
  s.pk.streams.any (fun x => decide (x.ctx = ctx) && decide (x.queue.toNat = q.toNat) && x.error)

/-- DOORBELL: a release by the host, with the record {host, 0, 1}. -/
def execDoorbell (s : State) : Out :=
  event (do
    let p ← pageOff
    let s ← get
    needOff (decide (p.2 = 0x010) && decide (p.1 ≠ 0))
    match s.access.addr with
    | .aperture _ _ q =>
      if queueRefused s p.1 q then set (denyLog s p.2 p.1 true q)
      else
        let v := s.access.value
        let host : Owner := { pkg := s.pkg, core := 0, host := true }
        set (agentMessage s p.1 (v.extractLsb' 0 10) (v.extractLsb' 10 6) kindSystem (slotsOf (doorbellPayload v))
          (some { owner := host, pub := 0, x := true }))
    | _ => noSubject) s

/-! ### Secure streams (R386, R387) -/

/-- SSBIND_WRITE: bound := 1 numbers units from 0 and leaves ERROR while the context has an Active slot; bound := 0 moves
the stream to ERROR. -/
def execSsbindWrite (s : State) : Out :=
  event (do
    let p ← pageOff
    needOff (decide (p.1 ≠ 0 ∧ 0x200 ≤ p.2 ∧ p.2 < 0x280 ∧ p.2 % 8 = 0))
    let s ← get
    let v := s.access.value
    let m := BitVec.ofNat 4 ((p.2 - 0x200) / 8)
    let x := (findStream s p.1 m).getD (SecureStream.none p.1 m)
    if v.getLsbD 8 then
      set (putSecure s { x with queue := v.extractLsb' 0 8, bound := true, unitsIn := 0, unitsOut := 0,
                                error := x.error && (activeKey s p.1).isNone })
    else set (putSecure s { x with queue := v.extractLsb' 0 8, bound := false, error := true })) s

/-! ### Host reads (R377) -/

/-- HOST_ACQUIRE_READ: a fresh read of a sequence word at the memory point of this core, through its port. Later reads of
the queue are made after it; a read that is not so marked is PORT_REQUEST's. -/
def execHostAcquireRead (id : Nat) (ctx : BitVec 12) (va : Word) (s : State) : Out :=
  event (do
    let s ← get
    if !isOwn s va || decide (va.toNat % 8 ≠ 0) then noSubject
    else if moveHolds s ctx va then holdOther
    else set (portServe s { id := id, owner := { pkg := s.pkg, core := 0, host := true }, ctx := ctx, kind := .host,
                            cap := Cap.null, va := va, len := 8 })) s

end Sys2Proof.Machine
end

