-- ==== Sys2Proof/Machine/Security.lean ====
section
/-! DEFINITION. The security core: context numbers, grants, key slots, secure-stream units (R381 to R387). -/
namespace Sys2Proof.Machine

/-! ### Context numbers (R381) -/

/-- No state of a context that the number named remains: as far as this package sees. -/
def numberFree (s : State) (ctx : BitVec 12) : Bool :=
  decide (ctx ≠ 0) && !s.pk.contexts.contains ctx && (findCtx s ctx).isNone && !namedByGrant s ctx &&
    !(s.ovf.any (fun e => decide (e.ctx = ctx))) && !s.pk.fatals.contains ctx &&
    decide (tblCount s = 0 ∨ (dirEntry s ctx &&& 0x40004000) = 0)

def putKey (s : State) (n : BitVec 10) (k : KeySlot) : State :=
  { s with pk := { s.pk with keys := sparsePut KeySlot.none s.pk.keys n.toNat k } }

/-- CONTEXT_CREATE: the number and the Empty slot that the security core picks; the number's message counter starts anew
(R307). -/
def execContextCreate (s : State) : Out :=
  event (do
    let r ← theRequest
    let s ← get
    match r with
    | .create ctx key material =>
      if !lowestMember s || !numberFree s ctx || decide ((keySlotAt s key.toNat).state ≠ .empty) then
        noSubject
      else
        let s1 := putKey s key { state := .provisioned, ctx := ctx, material := material }
        set { s1 with pk := { s1.pk with contexts := s1.pk.contexts ++ [ctx]
                                         agentMsg := s1.pk.agentMsg.filter (fun p => decide (p.1 ≠ ctx)) } }
    | _ => noSubject) s

/-! ### Grants (R382, R383) -/

def grantOf (q : GrantReq) : GrantRec :=
  { grantee := q.grantee, grantor := q.grantor, pkg := q.pkg, core := q.core, lo := q.lo, hi := q.hi }

/-- The request comes through the page of one of the two contexts, and names channels of a core that the granting context
is known to have. -/
def grantOk (s : State) (q : GrantReq) : Bool :=
  decide (q.page = q.grantee ∨ q.page = q.grantor) && decide (q.lo.toNat ≤ q.hi.toNat) &&
    (match findCtx s q.grantor with
     | some c => c.cores.contains (q.pkg, q.core)
     | none => true)

/-- The endpoint of a grant. -/
def grantEndpoint (g : GrantRec) : Cap :=
  let b := (mkVa 1 g.pkg g.core 0).toNat
  capMake (BitVec.ofNat 64 (b + g.lo.toNat)) (b + g.lo.toNat) (b + g.hi.toNat + 1) 0x0800 2 true

/-- Byte 0 of the payload's first slot is 0x82 GRANT; the second slot is the endpoint. -/
def grantSlots (g : GrantRec) : Cap × Cap × Cap := ({ bits := 0x82, tag := false }, grantEndpoint g, Cap.null)

/-- The security cores of the other packages are told of a grant. -/
def tellGrant (s : State) (made : Bool) (g : GrantRec) : State :=
  (s.members.filter (fun p => decide (p ≠ s.pkg))).foldl (fun s p => emit s (.grantTold made g p)) s

/-- The endpoint reaches every core of the grantee in this package, by its launch agent. -/
def deliverGrant (s : State) (g : GrantRec) : State :=
  let here : List (BitVec 9 × BitVec 10) := match findCtx s g.grantee with
    | some c => c.cores.filter (fun x => decide (x.1 = s.pkg))
    | none => []
  here.foldl (fun s c => agentToSup s g.grantee c.2 kindSystem (grantSlots g) none) s

/-- The grant record is kept (R382). -/
def keepGrant (s : State) (g : GrantRec) : State :=
  { s with pk := { s.pk with
      grantAsks := s.pk.grantAsks.filter (fun a => decide (a.2 ≠ g))
      grants := if s.pk.grants.contains g then s.pk.grants else s.pk.grants ++ [g] } }

/-- The other context's page has asked for the same grant. -/
def otherAsked (s : State) (q : GrantReq) : Bool :=
  decide (q.grantee = q.grantor) ||
    s.pk.grantAsks.any (fun a => decide (a.1 ≠ q.page) && decide (a.2 = grantOf q))

/-- GRANT: a request through a private page; the second makes the grant. Or one that another package's security core has made,
which is kept and delivered here. -/
def execGrant (req : GrantReq) (s : State) : Out :=
  event (do
    let s ← get
    let g := grantOf req
    if req.told then set (deliverGrant (keepGrant s g) g)
    else if !grantOk s req then pure ()
    else if otherAsked s req then set (tellGrant (deliverGrant (keepGrant s g) g) true g)
    else
      let rest := s.pk.grantAsks.filter (fun a => decide (a ≠ (req.page, g)))
      set { s with pk := { s.pk with grantAsks := rest ++ [(req.page, g)] } }) s

/-- The entry holds the grant. -/
def holdsGrant (g : GrantRec) (e : Endpoint) : Bool :=
  decide (e.pkg = g.pkg ∧ e.core = g.core ∧ e.lo = g.lo.toNat ∧ e.top = g.hi.toNat + 1 ∧ e.dctx = g.grantor)

/-- Entries of a context that hold the grant are emptied. -/
def dropGrant (g : GrantRec) (c : CtxState) : CtxState :=
  { c with endpoints := c.endpoints.map (fun e => match e with
      | some x => if holdsGrant g x then none else some x
      | none => none) }

/-- The grant's record goes, and every entry of this core that holds it. -/
def removeGrant (s : State) (g : GrantRec) : State :=
  let s1 := { s with pk := { s.pk with grants := s.pk.grants.filter (fun x => decide (x ≠ g)) } }
  match findCtx s1 g.grantee with
  | some c => putCtx s1 (dropGrant g c)
  | none => s1

/-- GRANT_WITHDRAW: when either context asks, here or at another package's security core, which then tells this one. -/
def execGrantWithdraw (req : GrantReq) (s : State) : Out :=
  event (do
    let s ← get
    let g := grantOf req
    if req.told then set (removeGrant s g)
    else if !(decide (req.page = req.grantee ∨ req.page = req.grantor)) || !s.pk.grants.contains g then pure ()
    else set (tellGrant (removeGrant s g) false g)) s

/-! ### Key slots (R384 Table 4) -/

/-- PROVISION: an Empty slot takes a key whose signature verifies. -/
def execProvision (s : State) : Out :=
  event (do
    let r ← theRequest
    let s ← get
    match r with
    | .provision key ctx material verified =>
      if verified && decide ((keySlotAt s key.toNat).state = .empty) then
        set (putKey s key { state := .provisioned, ctx := ctx, material := material })
      else pure ()
    | _ => noSubject) s

/-- A slot of a context in a state. -/
def slotIn (s : State) (ctx : BitVec 12) (st : KeyState) : Bool :=
  s.pk.keys.any (fun p => decide (p.2.ctx = ctx) && decide (p.2.state = st))

/-- The previous Active slot of a context becomes Retiring. -/
def retireActive (s : State) (ctx : BitVec 12) : State :=
  { s with pk := { s.pk with keys := s.pk.keys.map (fun p =>
      if p.2.ctx = ctx ∧ p.2.state = .active then (p.1, { p.2 with state := .retiring }) else p) } }

/-- The lines sealed under the slot that a context's slot `n` has replaced are written back and sealed anew (R384: a slice may
do so at any time before RESEAL_DONE; log entry 171). -/
def resealLines (s : State) (ctx : BitVec 12) (n : Nat) : State :=
  mapSlices (fun z => { z with lines := z.lines.map (fun l =>
    if l.ctx = ctx then { l with changed := false, key := n } else l) }) s

/-- ACTIVATE, and with a previous Active slot a rotation. -/
def execActivate (s : State) : Out :=
  event (do
    let r ← theRequest
    let s ← get
    match r with
    | .activate key =>
      let k := keySlotAt s key.toNat
      if k.state = .provisioned ∧ slotIn s k.ctx .retiring = false then
        set (resealLines (putKey (retireActive s k.ctx) key { k with state := .active }) k.ctx key.toNat)
      else pure ()
    | _ => noSubject) s

/-- REVOKE by the host. -/
def execRevoke (s : State) : Out :=
  event (do
    let r ← theRequest
    let s ← get
    match r with
    | .revoke key => set (revokeSlot s key.toNat)
    | _ => noSubject) s

/-- A slice still holds a line sealed under the slot. -/
def sealsUnder (s : State) (n : Nat) : Bool := s.home.slices.any (fun p => p.2.lines.any (fun l => decide (l.key = n)))

/-- RESEAL_DONE: only a Retiring slot meets it, once no slice holds a line sealed under it; the secure streams take the Active
slot at each unit. -/
def execResealDone (slot : BitVec 10) (s : State) : Out :=
  event (do
    let s ← get
    let k := keySlotAt s slot.toNat
    if sealsUnder s slot.toNat then holdOther
    else if k.state = .retiring then set (putKey s slot { k with state := .revoked }) else noSubject) s

/-- SCRUB_DONE: only a Revoked slot meets it. -/
def execScrubDone (slot : BitVec 10) (s : State) : Out :=
  event (do
    let s ← get
    if (keySlotAt s slot.toNat).state = .revoked then set (putKey s slot KeySlot.none) else noSubject) s

/-! ### Secure-stream units (R386, R387) -/

/-- The tweak of unit `n`. -/
def unitTweak (n : Word) (ctx : BitVec 12) (m : BitVec 4) (d : Bool) : BitVec 128 :=
  BitVec.ofNat 128 (n.toNat + ctx.toNat * 2 ^ 64 + m.toNat * 2 ^ 76 + d.toNat * 2 ^ 80)

/-- A received unit is checked and unsealed; one to send is sealed and tagged. -/
def takeUnit (s : State) (x : SecureStream) (k : KeySlot) (u : SecureUnit) : State :=
  let pair := k.material.extractLsb' 0 512
  let mac := k.material.extractLsb' 512 256
  if u.dir then
    let t := unitTweak x.unitsOut u.ctx u.m true
    let sealed' := xtsSeal pair t u.body
    emit (putSecure s { x with unitsOut := x.unitsOut + 1 }) (.streamUnit u.ctx u.m sealed' (kmac64 mac t sealed'))
  else
    let t := unitTweak x.unitsIn u.ctx u.m false
    if kmac64 mac t u.body = u.tag then
      emit (putSecure s { x with unitsIn := x.unitsIn + 1 }) (.streamUnit u.ctx u.m (xtsOpen pair t u.body) u.tag)
    else putSecure s { x with error := true }

/-- SECURE_STREAM_UNIT: `dir` is set for a unit from device to host, which goes over the context's lowest-numbered bound
stream that is not in ERROR. In ERROR the traffic is refused. -/
def execSecureStreamUnit (u : SecureUnit) (s : State) : Out :=
  event (do
    let s ← get
    match findStream s u.ctx u.m with
    | none => noSubject
    | some x =>
      if x.error || !x.bound then pure ()
      else if u.dir && decide (hostStream s u.ctx ≠ some u.m) then noSubject
      else match activeKey s u.ctx with
        | none => set (putSecure s { x with error := true })
        | some k => set (takeUnit s x k u)) s

end Sys2Proof.Machine
end

