-- ==== Sys2Proof/Machine/Boot.lean ====
section
/-! DEFINITION. Starting a package, minimal mode, scrubbing, snapshots, throttling (R389 to R397). -/
namespace Sys2Proof.Machine

/-! ### BOOTSTAT (R394 Table 2) -/

def bootStage (s : State) : Nat := field s.pk.bootstat 0 4
def bootFails (s : State) : Nat := field s.pk.bootstat 4 2
def inMinimal (s : State) : Bool := s.pk.bootstat.getLsbD 6

def setBoot (s : State) (lo n v : Nat) : State :=
  { s with pk := { s.pk with bootstat := putField s.pk.bootstat lo n v } }

/-! ### Resets (R389, R392) -/

/-- A reset of the package: everything as after reset but what names this core and its pod, what non-volatile storage
holds, and what the model queues. -/
def resetState (s : State) : State :=
  { State.reset with
    pkg := s.pkg
    core := s.core
    members := s.members
    inputs := s.inputs
    outbox := s.outbox
    nextId := s.nextId
    fresh := s.fresh
    pk := { Package.reset with fenced := s.pk.fenced, training := s.pk.training } }

/-- A start begins in stage ROM; fails stands in non-volatile storage. A reset in minimal mode without a verified update
goes back to it, with fails, branch and the reason of the last failure (R392). -/
def beginStart (s r : State) : State :=
  if inMinimal s && !s.pk.updated then
    setBoot (setBoot (setBoot { r with pk := { r.pk with starting := false } } 4 2 3) 6 1 1) 8 4 (field s.pk.bootstat 8 4)
  else setBoot r 4 2 (bootFails s)

/-- COLD_BOOT: power has come on. -/
def execColdBoot (s : State) : Out :=
  event (do
    let s ← get
    let r := resetState s
    set (beginStart s { r with pk := { r.pk with cold := true } })) s

/-- WARM_RESET: module power has stayed on, and with it the contents of main memory. -/
def execWarmReset (s : State) : Out :=
  event (do
    let s ← get
    let r := resetState s
    set (beginStart s { r with home := { r.home with
                                 mem := s.home.mem
                                 errors := s.home.errors
                                 holder := s.home.holder.map (fun p => (p.1, 4096)) }
                               pk := { r.pk with cold := false } })) s

/-! ### Stages (R389 Table 1, R391, R393) -/

/-- The reasons of a failure in a stage. -/
def stageReasons (stage : Nat) : List Nat :=
  match stage with
  | 1 => [1]
  | 2 => [1]
  | 3 => [2, 3]
  | 4 => [4]
  | 5 => [5]
  | _ => []

/-- The start has failed: at the third failure in succession the package enters minimal mode. -/
def failStart (s : State) (reason : Nat) : State :=
  let f := if 2 ≤ bootFails s then 3 else bootFails s + 1
  let s1 := setBoot (setBoot s 8 4 reason) 4 2 f
  let s2 := { s1 with pk := { s1.pk with starting := false } }
  if f = 3 then
    let s3 := setBoot s2 6 1 1
    { s3 with pk := { s3.pk with updated := false } }
  else s2

/-! ### Stage MEMORY (R390) -/

/-- The home of a core: its stack and its pseudo-channel there (R24). -/
def homeOf (c : BitVec 10) : BitVec 4 × BitVec 6 := (c.extractLsb' 6 4, c.extractLsb' 0 6)

def Training.none : Training := { result := [], digest := 0, failing := 0 }

/-- The results of a training as they are stored. -/
def trained (f : ChannelFound) : Training :=
  { result := f.result, digest := sha3_512 f.result, failing := f.failing }

/-- A pseudo-channel is trained at a cold boot, and at a warm reset when the digest of what the storage gives back or the
test pattern fails. -/
def bringUp (cold : Bool) (m : Sparse Training) (f : ChannelFound) : Sparse Training :=
  let t := sparseGet Training.none m f.chan.toNat
  if !cold && decide (sha3_512 (f.stored.getD t.result) = t.digest) && f.pattern then m
  else sparsePut Training.none m f.chan.toNat (trained f)

/-- The lanes of a stack that did not train: channel in the stack, and lane. -/
def failingLanes (m : Sparse Training) (stack : Nat) : List (Nat × Nat) :=
  (m.filter (fun p => decide (p.1 / 64 = stack))).flatMap (fun p =>
    ((List.range 32).filter (fun i => p.2.failing.getLsbD i)).map (fun i => (p.1 % 64, i)))

/-- A failing lane of each stack takes the next of the stack's spare lanes; a stack with more of them than it has spare
lanes is out of service. -/
def repairLanes (s : State) : State :=
  let m := s.pk.training
  let out := (List.range 16).filter (fun st => decide (Config.spareLanes < (failingLanes m st).length))
  let lanes := ((List.range 16).filter (fun st => !out.contains st)).flatMap (fun st =>
    (failingLanes m st).zipIdx.map (fun l => (st, l.1.1, l.1.2, l.2)))
  { s with pk := { s.pk with stacksOut := out.map (BitVec.ofNat 4), laneMap := lanes } }

/-- What stage MEMORY has found at a pseudo-channel: one that the row does not list trains on every lane, gives back what was
stored and passes the test pattern. -/
def foundAt (s : State) (found : List ChannelFound) (i : Nat) : ChannelFound :=
  (found.find? (fun f => decide (f.chan.toNat = i))).getD
    { chan := BitVec.ofNat 10 i, stored := none, pattern := true, failing := 0,
      result := Config.trainResult s.fresh (BitVec.ofNat 10 i) }

/-- Stage MEMORY ends: each of the 1,024 pseudo-channels has been brought up. -/
def takeMemory (s : State) (found : List ChannelFound) : State :=
  setBoot (repairLanes { s with fresh := s.fresh + 1, pk := { s.pk with
    training := ((List.range 1024).map (foundAt s found)).foldl (bringUp s.pk.cold) s.pk.training } }) 0 4 4

/-! ### Stage CORES (R391, R393) -/

/-- Spare cores of a compute die (R17). -/
def spareCores : Nat := 4

/-- The failed cores of a compute die, lowest first. -/
def failedOf (failed : List (BitVec 10)) (die : Nat) : List (BitVec 10) :=
  ((List.range 128).map (fun i => BitVec.ofNat 10 (128 * die + i))).filter (fun c => failed.contains c)

/-- Each failed core takes a spare of its die while one is unused (R17, R393). Where more than four cores of a die fail, which
of them get the spares is open; the model gives them to those of the lowest indices (log entry 153, DESIGN CHOICE). -/
def mapSpares (failed : List (BitVec 10)) : List (BitVec 10 × BitVec 2) :=
  (List.range 8).flatMap (fun d => ((failedOf failed d).take spareCores).zipIdx.map (fun p => (p.1, BitVec.ofNat 2 p.2)))

/-- The cores out of service: those that no spare replaces, and those whose home lies in a stack out of service (R393). -/
def coresOut (s : State) (failed : List (BitVec 10)) : List (BitVec 10) :=
  ((List.range 1024).map (BitVec.ofNat 10)).filter (fun c =>
    s.pk.stacksOut.contains (homeOf c).1 ||
      (failed.contains c && !((mapSpares failed).any (fun p => decide (p.1 = c)))))

/-- At least one core of each quad is in service. -/
def quadsServed (oos : List (BitVec 10)) : Bool :=
  (List.range 2).all (fun q => (List.range 512).any (fun i => !oos.contains (BitVec.ofNat 10 (512 * q + i))))

/-- What boot firmware writes on a core in service (R391). -/
def bootRegisters (s : State) : State :=
  let s1 := { s with ovf := [], others := [],
                     regs := { s.regs with ovfcfg := BitVec.ofNat 64 (11428 + 16 * 2 ^ 16), ovfpeak := 0 } }
  let s2 := clearFrame s1 10404
  { s2 with regs := { s2.regs with tblcfg := BitVec.ofNat 64 (10404 + 1024 * 2 ^ 16),
                                   ctxsave := BitVec.ofNat 64 (10405 + 3 * 2 ^ 16) } }

/-- Stage CORES: spares mapped, counts, and the registers of every core in service. -/
def takeCores (s : State) (failed : List (BitVec 10)) : State :=
  let oos := coresOut s failed
  let served := ((List.range 1024).filter (fun c => !oos.contains (BitVec.ofNat 10 c))).length
  let s0 := { s with outOfService := oos, pk := { s.pk with spares := mapSpares failed } }
  let s1 := setBoot (setBoot (setBoot (setBoot s0 12 11 served) 23 5 (16 - s.pk.stacksOut.length))
    7 1 (decide (served < 1024)).toNat) 0 4 5
  if oos.contains s.core then s1 else bootRegisters s1

/-- A vendor link after training: UP with four lanes, DEGRADED with two or three, else DOWN (R367, R368). -/
def trainedLink (lanes : BitVec 4) : Link :=
  let n := popCount 4 lanes.toNat
  { Link.reset with lanes := lanes, state := if n = 4 then 0 else if 2 ≤ n then 1 else 2 }

/-- Stage LINKS leads to READY: fails is 0, and the cores of other packages that are out of service are known. -/
def takeLinks (s : State) (lanes : List (BitVec 4)) (far : List (BitVec 9 × BitVec 10)) : State :=
  let s1 := { setBoot (setBoot s 0 4 6) 4 2 0 with farOut := far.filter (fun c => decide (c.1 ≠ s.pkg)) }
  { s1 with pk := { s1.pk with starting := false, links := Vector.ofFn (fun (i : Fin 72) => trainedLink (lanes.getD i.val 0)) } }

/-- BOOT_STAGE_DONE: the current stage has ended. -/
def execBootStageDone (result : StageResult) (s : State) : Out :=
  event (do
    let s ← get
    let n := bootStage s
    if !s.pk.starting then noSubject
    else match result with
      | .failed r => if (stageReasons n).contains r.toNat then set (failStart s r.toNat) else noSubject
      | .ok => if n = 1 ∨ n = 2 then set (setBoot s 0 4 (n + 1)) else noSubject
      | .okMemory found => if n = 3 then set (takeMemory s found) else noSubject
      | .okCores failed =>
        if n ≠ 4 then noSubject
        else if quadsServed (coresOut s failed) then set (takeCores s failed)
        else set (failStart s 4)
      | .okLinks lanes far => if n = 5 then set (takeLinks s lanes far) else noSubject) s

/-- BOOT_TIMEOUT: the start fails in its current stage; which of the two reasons of stage MEMORY stands is open. -/
def execBootTimeout (s : State) : Out :=
  event (do
    let s ← get
    if !s.pk.starting then noSubject
    else match stageReasons (bootStage s) with
      | [] => noSubject
      | r :: q =>
        let why := if Config.choice s.fresh then q.headD r else r
        set (failStart { s with fresh := s.fresh + 1 } why)) s

/-- FIRMWARE_UPDATE: a request on the system private page in minimal mode, written only when its signature verifies. -/
def execFirmwareUpdate (verified : Bool) (s : State) : Out :=
  event (do
    let s ← get
    if !inMinimal s || !onSystemPage s then noSubject
    else if verified then set { s with pk := { s.pk with updated := true } }
    else pure ()) s

/-! ### Scrubbing (R28, R395) -/

/-- Sectors of the home pseudo-channel. -/
def sectorCount : Nat := frameCount * frameBytes / 32

/-- What the scrubber finds: an error that stood before, or the one that has come since. -/
def foundHealth (stored new : SectorHealth) : SectorHealth :=
  match stored, new with
  | .uncorrectable, _ => .uncorrectable
  | _, .uncorrectable => .uncorrectable
  | .correctable, _ => .correctable
  | .good, h => h

/-- The context that is out whose image a sector of the save area belongs to (R344). -/
def imageOwner (s : State) (k : Nat) : Option CtxState :=
  s.others.find? (fun c => decide (c.residency = .out) &&
    decide (imageByte s c.image ≤ 32 * k ∧ 32 * k < imageByte s c.image + imageBytes))

/-- A finding in the home channel: the scrubber corrects what the code corrects; in an image of the save area one that it
does not correct is one in context state (R359). -/
def findSector (s : State) (k : Nat) (flips : BitVec 288) : State :=
  let s1 := flipBits s k flips
  match sectorHealth s1 k with
  | .good => s1
  | .correctable => countCorr (setErrors s1 k 0)
  | .uncorrectable =>
    match imageOwner s k with
    | some c => endContext s1 c.num false
    | none => countUncorr s1

/-- A finding in a word of the resident scratchpad; in the scheduler's ranges or an armed landing range it is one in context
state (R359). -/
def findWord (s : State) (w : Nat) (h : SectorHealth) : State :=
  match foundHealth (wordHealth s.cx w) h with
  | .good => s
  | .correctable => countCorr { s with cx := setWordHealth s.cx w .good }
  | .uncorrectable =>
    let s1 := { s with cx := setWordHealth s.cx w .uncorrectable }
    if inSched s.cx (8 * w) 8 || inArmed s.cx (8 * w) 8 then endContext s1 s.cx.num false else countUncorr s1

/-- A finding in a line that a slice holds. -/
def findHeld (s : State) (x : SliceLine) (h : SectorHealth) : State :=
  match foundHealth (if x.bad then .uncorrectable else .good) h with
  | .good => s
  | .correctable => countCorr s
  | .uncorrectable => countUncorr (keepLine s { x with bad := true })

/-- A finding in a line of the cache portion. -/
def findCached (s : State) (ctx : BitVec 12) (l : BitVec 58) (h : SectorHealth) : State :=
  let hit := fun (x : CacheLine) => decide (x.ctx = ctx) && decide (x.line = l)
  match foundHealth (if s.lines.any (fun x => hit x && x.bad) then .uncorrectable else .good) h with
  | .good => s
  | .correctable => countCorr s
  | .uncorrectable => countUncorr { s with lines := s.lines.map (fun x => if hit x then { x with bad := true } else x) }

/-- A finding in the entry of the tag array for such a line: one that is lost can no longer be found, and a discard loses no
data (R102; log entry 176, DESIGN CHOICE). -/
def findTag (s : State) (ctx : BitVec 12) (l : BitVec 58) (h : SectorHealth) : State :=
  match h with
  | .good => s
  | .correctable => countCorr s
  | .uncorrectable =>
    countUncorr { s with lines := s.lines.filter (fun x => !(decide (x.ctx = ctx) && decide (x.line = l))) }

/-- A finding in a tile or an accumulator of the resident context, which is context state (R359). -/
def findUnit (s : State) (put : SectorHealth → CtxState) (old h : SectorHealth) : State :=
  match foundHealth old h with
  | .good => s
  | .correctable => countCorr { s with cx := put .good }
  | .uncorrectable => endContext { s with cx := put .uncorrectable } s.cx.num false

/-- SCRUB_READ: a read of the scrubber, or of SRAM or a slice, that finds an error. One that can be corrected is written
back right; one that cannot stays; either is counted. -/
def execScrubRead (place : ScrubPlace) (found : ScrubFinding) (s : State) : Out :=
  event (do
    let s ← get
    match place, found with
    | .sector k, .flips flips => if k < sectorCount then set (findSector s k flips) else noSubject
    | .sram w, .health h => if 8 * w < sramBytes then set (findWord s w h) else noSubject
    | .line ctx va, .health h =>
      match heldLine s ctx (lineOf va) with
      | some x => set (findHeld s x h)
      | none => noSubject
    | .cached ctx va, .health h =>
      if (findLine s ctx va).isSome then set (findCached s ctx (lineOf va) h) else noSubject
    | .tagArray ctx va, .health h =>
      if (findLine s ctx va).isSome then set (findTag s ctx (lineOf va) h) else noSubject
    | .tile t w, .health h =>
      let k := 4096 * t.toNat + w.toNat
      set (findUnit s (fun h => { s.cx with tileErr := sparsePut .good s.cx.tileErr k h })
        (sparseGet .good s.cx.tileErr k) h)
    | .acc a e, .health h =>
      let k := 8192 * a.toNat + e
      if e < 8192 then
        set (findUnit s (fun h => { s.cx with accErr := sparsePut .good s.cx.accErr k h })
          (sparseGet .good s.cx.accErr k) h)
      else noSubject
    | .sector _, .health _ | .sram _, .flips _ | .line _ _, .flips _ | .cached _ _, .flips _ | .tagArray _ _, .flips _
    | .tile _ _, .flips _ | .acc _ _, .flips _ => noSubject) s

/-! ### Snapshots (R396) -/

/-- SNAPTRIG: a host write raises the trigger, or SNAP on another core of the package. -/
def execSnaptrig (s : State) : Out :=
  event (do
    let s ← get
    match s.access.addr, s.access.request with
    | .control _, .snap => set (raiseTrigger s)
    | _, _ => do
      let n ← sharedOff
      needOff (decide (n = 0x0010))
      if s.access.value.getLsbD 0 then set (raiseTrigger s) else pure ()) s

/-- SNAPSHOT_LATCH: a block that was armed at the trigger latches. -/
def execSnapshotLatch (s : State) : Out :=
  event (do
    let s ← get
    if !s.pk.snapArmed then noSubject
    else
      let s1 := { s with pk := { s.pk with snapArmed := false, snapHeld := none } }
      match s.pk.snapHeld with
      | none => set s1
      | some pcs =>
        let stat := putField (putField 0 0 1 1) 16 32 (Config.fabricCycle s.fresh).toNat
        set { s1 with fresh := s.fresh + 1, regs := { s1.regs with snapstat := stat, snappc := pcs } }) s

/-! ### Power (R397) -/

/-- THERMAL_STEP: one clock step of a compute die at its limit, or a measure of the coolant inlet (R394). Only timing
changes. -/
def execThermalStep (s : State) : Out :=
  event (do
    let s ← get
    match s.access.request with
    | .die d =>
      let k := d.toNat
      set { s with pk := { s.pk with
        throttle := vset s.pk.throttle k (vget s.pk.throttle k 0 + 1)
        pwrstat := putField s.pk.pwrstat k 1 1 } }
    | .inlet c => set { s with pk := { s.pk with pwrstat := putField s.pk.pwrstat 8 8 c.toNat } }
    | _ => noSubject) s

end Sys2Proof.Machine
end

