-- ==== Sys2Proof/Machine/CapIsa.lean ====
section
/-! DEFINITION. Capability instructions of the access stream (R233 to R235). -/
namespace Sys2Proof.Machine

/-- A getter: any capability, a result that may be pushed. -/
def capGetter (f : Cap → Word) (d c : BitVec 5) (m : BitVec 1) : Eff Unit := do
  needDst d (marked m 0)
  let x ← readCap c
  writeDst d (marked m 0) (f x)

/-- A size, or all ones for 2^64 and beyond. -/
def sizeWord (n : Nat) : Word := if 2 ^ 64 ≤ n then BitVec.allOnes 64 else BitVec.ofNat 64 n

/-- The check of a derivation's source (R233). -/
def checkSource (c : Cap) : Eff Unit :=
  if !c.tag then trapWith .capTag 0
  else if capSealed c then trapWith .capSealed 0
  else pure ()

/-- A derivation with a register operand that may be popped. -/
def derive (f : Cap → Word → Eff Cap) (d c b : BitVec 5) (m : BitVec 1) : Eff Unit := do
  let y ← readSrc b (marked m 0)
  let x ← readCap c
  checkSource x
  let z ← f x y
  writeCap d z

def execKbase (d c : BitVec 5) (m : BitVec 1) (s : State) : Out :=
  issueSeq (capGetter (fun c => BitVec.ofNat 64 (capBase c)) d c m) s
def execKlen (d c : BitVec 5) (m : BitVec 1) (s : State) : Out :=
  issueSeq (capGetter (fun c => sizeWord (capTop c - capBase c)) d c m) s
def execKperm (d c : BitVec 5) (m : BitVec 1) (s : State) : Out :=
  issueSeq (capGetter (fun c => (capPerms c).setWidth 64) d c m) s
def execKtag (d c : BitVec 5) (m : BitVec 1) (s : State) : Out :=
  issueSeq (capGetter (fun c => Word.ofBool c.tag) d c m) s
def execKtype (d c : BitVec 5) (m : BitVec 1) (s : State) : Out :=
  issueSeq (capGetter (fun c => (capType c).setWidth 64) d c m) s
def execKaddr (d c : BitVec 5) (m : BitVec 1) (s : State) : Out :=
  issueSeq (capGetter capAddr d c m) s

def execKseta (d c b : BitVec 5) (m : BitVec 1) (s : State) : Out :=
  issueSeq (derive (fun x y => pure (capSetAddr x y)) d c b m) s
def execKadd (d c b : BitVec 5) (m : BitVec 1) (s : State) : Out :=
  issueSeq (derive (fun x y => pure (capSetAddr x (capAddr x + y))) d c b m) s

/-- KADDI (R233 Table 2). -/
def execKaddi (d c : BitVec 5) (i : BitVec 16) (s : State) : Out :=
  issueSeq (do
    let x ← readCap c
    checkSource x
    writeCap d (capSetAddr x (capAddr x + sext64 i))) s

/-- KCLIP, and KCLIPX where `exact` (R234). -/
def clip (exact : Bool) (x : Cap) (y : Word) : Eff Cap :=
  let b := (capAddr x).toNat
  let t := b + y.toNat
  if 2 ^ 64 < t then trapWith .capBounds 0
  else
    let r := encodeBounds b t
    if r.2.1 < capBase x ∨ capTop x < r.2.2 then trapWith .capBounds 0
    else if exact ∧ (r.2.1 ≠ b ∨ r.2.2 ≠ t) then trapWith .capBounds 1
    else
      let r := capMake (capAddr x) b t (capPerms x) (capType x) true
      pure { r with bits := r.bits ||| (x.bits &&& (0xFF#128 <<< 120)) }

def execKclip (d c b : BitVec 5) (m : BitVec 1) (s : State) : Out := issueSeq (derive (clip false) d c b m) s
def execKclipx (d c b : BitVec 5) (m : BitVec 1) (s : State) : Out := issueSeq (derive (clip true) d c b m) s

def execKmask (d c b : BitVec 5) (m : BitVec 1) (s : State) : Out :=
  issueSeq (derive (fun x y => pure (capPut x 64 16 (capPerms x &&& y.extractLsb' 0 16).toNat)) d c b m) s

/-- The checks of KSEAL and KUNSEAL in their order (R235). -/
def checkSeal (wrap : Bool) (x auth : Cap) : Eff Unit :=
  let t := (capAddr auth).toNat
  if !x.tag then trapWith .capTag 0
  else if wrap ∧ capSealed x = true then trapWith .capSealed 0
  else if ¬ wrap ∧ (capSealed x = false ∨ (capType x).toNat ≠ t) then trapWith .capPerm 1
  else if !auth.tag then trapWith .capTag 0
  else if capSealed auth then trapWith .capSealed 0
  else if !hasPerm auth (if wrap then permWRAP else permUNWRAP) then trapWith .capPerm 0
  else if !inBounds auth t 1 then trapWith .capBounds 0
  else if t < 1 ∨ 15 < t then trapWith .capPerm 1
  else if t ≤ 3 ∧ hasPerm auth permADMIN = false then trapWith .capPerm 0
  else pure ()

def execKseal (d c e : BitVec 5) (s : State) : Out :=
  issueSeq (do
    let x ← readCap c
    let k ← readCap e
    checkSeal true x k
    writeCap d (capPut x 80 4 (capAddr k).toNat)) s

def execKunseal (d c e : BitVec 5) (s : State) : Out :=
  issueSeq (do
    let x ← readCap c
    let k ← readCap e
    checkSeal false x k
    writeCap d (capPut x 80 4 0)) s

/-- KDROP: the tag goes; a sealed value traps (R233). -/
def execKdrop (d c : BitVec 5) (s : State) : Out :=
  issueSeq (do
    let x ← readCap c
    if capSealed x then trapWith .capSealed 0 else writeCap d { x with tag := false }) s

def execKdiff (d c e : BitVec 5) (m : BitVec 1) (s : State) : Out :=
  issueSeq (do
    needDst d (marked m 0)
    let x ← readCap c
    let y ← readCap e
    writeDst d (marked m 0) (capAddr x - capAddr y)) s

def execKmov (d c : BitVec 5) (s : State) : Out :=
  issueSeq (do
    let x ← readCap c
    writeCap d x) s

/-- KSPAN: the encoded span of a request; all ones beyond the address space (R234). -/
def spanWord (x y : Word) : Word :=
  let t := x.toNat + y.toNat
  if 2 ^ 64 < t then BitVec.allOnes 64
  else
    let r := encodeBounds x.toNat t
    sizeWord (r.2.2 - r.2.1)

def execKspan (d a b : BitVec 5) (m : BitVec 1) (s : State) : Out :=
  issueSeq (do
    needDst d (marked m 0)
    let x ← readReg a
    let y ← readReg b
    writeDst d (marked m 0) (spanWord x y)) s

end Sys2Proof.Machine
end

