-- ==== Sys2Proof/Machine/Control.lean ====
section
/-! DEFINITION. Branches, jumps, loops and the end of a stream (R202 to R206). -/
namespace Sys2Proof.Machine

/-- PC + 4 × sext(offset) (R174). -/
def branchTarget {n : Nat} (pc : Word) (o : BitVec n) : Word := pc + 4 * sext64 o

/-- A branch: to its target when the comparison holds, else to the next instruction (R202). -/
def branchOp (holds : Word → Word → Bool) (a b : BitVec 5) (o : BitVec 16) : Eff Unit := do
  let x ← readReg a
  let y ← readReg b
  let t ← theTask
  let st ← theStream
  if holds x y then jumpTo (branchTarget (curPc t st) o) else advance

def execBeq (a b : BitVec 5) (o : BitVec 16) (s : State) : Out := issue (branchOp (fun x y => decide (x = y)) a b o) s
def execBne (a b : BitVec 5) (o : BitVec 16) (s : State) : Out := issue (branchOp (fun x y => decide (x ≠ y)) a b o) s
def execBlt (a b : BitVec 5) (o : BitVec 16) (s : State) : Out :=
  issue (branchOp (fun x y => decide (x.toInt < y.toInt)) a b o) s
def execBge (a b : BitVec 5) (o : BitVec 16) (s : State) : Out :=
  issue (branchOp (fun x y => decide (y.toInt ≤ x.toInt)) a b o) s
def execBltu (a b : BitVec 5) (o : BitVec 16) (s : State) : Out :=
  issue (branchOp (fun x y => decide (x.toNat < y.toNat)) a b o) s
def execBgeu (a b : BitVec 5) (o : BitVec 16) (s : State) : Out :=
  issue (branchOp (fun x y => decide (y.toNat ≤ x.toNat)) a b o) s

/-- JMP (R203). -/
def execJmp (o : BitVec 26) (s : State) : Out :=
  issue (do
    let t ← theTask
    let st ← theStream
    jumpTo (branchTarget (curPc t st) o)) s

/-- JAL links register 31 (R203). -/
def execJal (o : BitVec 26) (s : State) : Out :=
  issue (do
    let t ← theTask
    let st ← theStream
    writeReg 31 (curPc t st + 4)
    jumpTo (branchTarget (curPc t st) o)) s

/-- JALR: MISALIGN for a target that is no multiple of 4, else the link and the jump (R203). -/
def execJalr (d a : BitVec 5) (i : BitVec 16) (s : State) : Out :=
  issue (do
    let x ← readReg a
    let t ← theTask
    let st ← theStream
    let target := x + 4 * sext64 i
    if target.toNat % 4 ≠ 0 then trapWith .misalign 0
    else do
      writeReg d (curPc t st + 4)
      jumpTo target) s

/-- LOOP: a nonzero counter goes down by one, and the branch is taken while it stays nonzero (R204). -/
def execLoop (a : BitVec 5) (o : BitVec 16) (s : State) : Out :=
  issue (do
    let n ← readReg a
    let t ← theTask
    let st ← theStream
    if n ≠ 0 then writeReg a (n - 1) else pure ()
    if n ≠ 0 ∧ n - 1 ≠ 0 then jumpTo (branchTarget (curPc t st) o) else advance) s

/-- Marks a stream as standing at END; the second one begins the task's end (R206, R207). -/
def endOf (t : Task) (st : Stream) : Task :=
  let u := setStream t st { streamOf t st with ended := true }
  if u.sa.ended && u.se.ended then { u with ending := .draining } else u

/-- END stops its stream (R206). -/
def execEndStream (s : State) : Out :=
  issue (do
    let st ← theStream
    modTask (fun t => endOf t st)) s

end Sys2Proof.Machine
end

