-- ==== Sys2Proof/Machine/Float.lean ====
section
/-! DEFINITION. Scalar floating point of the execute stream (R208 to R214). -/
namespace Sys2Proof.Machine

/-- The low bits of an operand that its type names (R208). -/
def floatBits (t : BitVec 4) (w : Word) : Nat := w.toNat % 2 ^ (floatOf t).width

/-- A binary operation: pattern and flags from FPMODE and two patterns; the flags are checked before anything is
written (R214). Marks: D, S1, S2. -/
def floatBinary (g : BitVec 4 → Nat → Nat → Nat × Nat) (d a b : BitVec 5) (m : BitVec 3) (t : BitVec 4) : Eff Unit := do
  needDst d (marked m 0)
  let x ← readSrc a (marked m 1)
  let y ← readSrc b (marked m 2)
  let k ← theTask
  let r := g (modeOf k) (floatBits t x) (floatBits t y)
  raiseFlags r.2
  writeDst d (marked m 0) (BitVec.ofNat 64 r.1)

/-- A unary operation on the whole word. -/
def floatUnary (g : BitVec 4 → Word → Word × Nat) (d a : BitVec 5) (m : BitVec 2) : Eff Unit := do
  needDst d (marked m 0)
  let x ← readSrc a (marked m 1)
  let k ← theTask
  let r := g (modeOf k) x
  raiseFlags r.2
  writeDst d (marked m 0) r.1

/-- An arithmetic function on the operands that FPMODE gives. -/
def arith (g : FloatFmt → BitVec 4 → Num → Num → Nat × Nat) (t : BitVec 4) (mode : BitVec 4) (x y : Nat) : Nat × Nat :=
  g (floatOf t) mode (operand (floatOf t) mode x) (operand (floatOf t) mode y)

/-- A truth value with its flags. -/
def truth (p : Bool × Nat) : Nat × Nat := (p.1.toNat, p.2)

def execFadd (d a b : BitVec 5) (m : BitVec 3) (t : BitVec 4) (s : State) : Out :=
  issueSeq (floatBinary (arith addNum t) d a b m t) s
def execFsub (d a b : BitVec 5) (m : BitVec 3) (t : BitVec 4) (s : State) : Out :=
  issueSeq (floatBinary (arith (fun f mode x y => addNum f mode x y.negate) t) d a b m t) s
def execFmul (d a b : BitVec 5) (m : BitVec 3) (t : BitVec 4) (s : State) : Out :=
  issueSeq (floatBinary (arith mulNum t) d a b m t) s

/-- FMADD reads D as its addend; its marks are those of S1 and S2 (R208). -/
def execFmadd (d a b : BitVec 5) (m : BitVec 2) (t : BitVec 4) (s : State) : Out :=
  issueSeq (do
    let z ← readReg d
    let x ← readSrc a (marked m 0)
    let y ← readSrc b (marked m 1)
    let k ← theTask
    let f := floatOf t
    let v := fun (w : Word) => operand f (modeOf k) (floatBits t w)
    let r := fmaNum f (modeOf k) (v x) (v y) (v z)
    raiseFlags r.2
    writeReg d (BitVec.ofNat 64 r.1)) s

def execFdiv (d a b : BitVec 5) (m : BitVec 3) (t : BitVec 4) (s : State) : Out :=
  issueSeq (floatBinary (arith divNum t) d a b m t) s
def execFsqrt (d a : BitVec 5) (m : BitVec 2) (t : BitVec 4) (s : State) : Out :=
  issueSeq (floatUnary (fun mode x =>
    let r := sqrtNum (floatOf t) mode (operand (floatOf t) mode (floatBits t x))
    (BitVec.ofNat 64 r.1, r.2)) d a m) s
def execFmin (d a b : BitVec 5) (m : BitVec 3) (t : BitVec 4) (s : State) : Out :=
  issueSeq (floatBinary (fun mode x y => minMaxFloat (floatOf t) mode false x y) d a b m t) s
def execFmax (d a b : BitVec 5) (m : BitVec 3) (t : BitVec 4) (s : State) : Out :=
  issueSeq (floatBinary (fun mode x y => minMaxFloat (floatOf t) mode true x y) d a b m t) s
def execFeq (d a b : BitVec 5) (m : BitVec 3) (t : BitVec 4) (s : State) : Out :=
  issueSeq (floatBinary (fun mode x y => truth (compareFloat (floatOf t) mode numEq x y)) d a b m t) s
def execFlt (d a b : BitVec 5) (m : BitVec 3) (t : BitVec 4) (s : State) : Out :=
  issueSeq (floatBinary (fun mode x y => truth (compareFloat (floatOf t) mode numLt x y)) d a b m t) s
def execFle (d a b : BitVec 5) (m : BitVec 3) (t : BitVec 4) (s : State) : Out :=
  issueSeq (floatBinary (fun mode x y => truth (compareFloat (floatOf t) mode numLe x y)) d a b m t) s

/-- FCVT: destination type `u`, source type `t` (R213). -/
def execFcvt (d a : BitVec 5) (u : BitVec 4) (m : BitVec 2) (t : BitVec 4) (s : State) : Out :=
  issueSeq (floatUnary (fun mode x =>
    let r := convert u t mode x.toNat
    (extendWord u r.1, r.2)) d a m) s

/-- FCLASS reads the bits unchanged and sets no flag (R211). -/
def execFclass (d a : BitVec 5) (m : BitVec 2) (t : BitVec 4) (s : State) : Out :=
  issueSeq (unaryOp (fun x => BitVec.ofNat 64 (2 ^ classOf (floatOf t) (floatBits t x))) d a m) s

/-- s1 with the sign of s2 (R212). -/
def signFrom (f : FloatFmt) (x y : Nat) : Nat := x % 2 ^ (f.width - 1) + f.signBit (f.signOf y)

def execFsgn (d a b : BitVec 5) (m : BitVec 3) (t : BitVec 4) (s : State) : Out :=
  issueSeq (binaryOp (fun x y => BitVec.ofNat 64 (signFrom (floatOf t) (floatBits t x) (floatBits t y))) d a b m) s

end Sys2Proof.Machine
end

