-- ==== Sys2Proof/Machine/Integer.lean ====
section
/-! DEFINITION. Integer instructions of both streams (R195 to R201). -/
namespace Sys2Proof.Machine

/-! ### The functions of Tables 1 to 3 -/

/-- The shift count y[5:0] (R197). -/
def shiftCount (y : Word) : Nat := y.toNat % 64

def shlWord (x y : Word) : Word := x <<< shiftCount y
def shrWord (x y : Word) : Word := x >>> shiftCount y
def sarWord (x y : Word) : Word := x.sshiftRight (shiftCount y)

/-- Bits [127:64] of the signed product. -/
def mulhWord (x y : Word) : Word := wordOfInt (x.toInt * y.toInt / 2 ^ 64)

/-- Bits [127:64] of the unsigned product. -/
def mulhuWord (x y : Word) : Word := BitVec.ofNat 64 (x.toNat * y.toNat / 2 ^ 64)

/-- Signed quotient toward zero; all ones for a zero divisor; the smallest number over −1 wraps (R198 Table 2). -/
def divWord (x y : Word) : Word := if y = 0 then BitVec.allOnes 64 else wordOfInt (x.toInt.tdiv y.toInt)

def divuWord (x y : Word) : Word := if y = 0 then BitVec.allOnes 64 else BitVec.ofNat 64 (x.toNat / y.toNat)

/-- The remainder of the signed quotient; the dividend for a zero divisor (R198 Table 2). -/
def remWord (x y : Word) : Word := if y = 0 then x else wordOfInt (x.toInt.tmod y.toInt)

def remuWord (x y : Word) : Word := if y = 0 then x else BitVec.ofNat 64 (x.toNat % y.toNat)

def minWord (x y : Word) : Word := if x.toInt ≤ y.toInt then x else y
def maxWord (x y : Word) : Word := if x.toInt ≤ y.toInt then y else x
def minuWord (x y : Word) : Word := if x.toNat ≤ y.toNat then x else y
def maxuWord (x y : Word) : Word := if x.toNat ≤ y.toNat then y else x
def sltWord (x y : Word) : Word := Word.ofBool (decide (x.toInt < y.toInt))
def sltuWord (x y : Word) : Word := Word.ofBool (decide (x.toNat < y.toNat))
def clzWord (x : Word) : Word := BitVec.ofNat 64 (64 - bitLength 64 x.toNat)
def ctzWord (x : Word) : Word := BitVec.ofNat 64 (trailingZeros 64 x.toNat)
def popcWord (x : Word) : Word := BitVec.ofNat 64 (popCount 64 x.toNat)

/-- The bit field that a descriptor names (R199). -/
def extWord (x y : Word) : Word :=
  let w := field y 8 6 + 1
  let f := (x.toNat >>> (y.toNat % 64)) % 2 ^ w
  if y.getLsbD 16 then wordOfInt (signedOf w f) else BitVec.ofNat 64 f

/-- {s1[47:0], IMM16} (R201). -/
def lihWord (x : Word) (i : BitVec 16) : Word := (x <<< 16) ||| i.setWidth 64

/-! ### Register forms (R197) -/

def execAdd (d a b : BitVec 5) (q : BitVec 3) (s : State) : Out := issueSeq (binaryOp (· + ·) d a b q) s
def execSub (d a b : BitVec 5) (q : BitVec 3) (s : State) : Out := issueSeq (binaryOp (· - ·) d a b q) s
def execAnd (d a b : BitVec 5) (q : BitVec 3) (s : State) : Out := issueSeq (binaryOp (· &&& ·) d a b q) s
def execOr (d a b : BitVec 5) (q : BitVec 3) (s : State) : Out := issueSeq (binaryOp (· ||| ·) d a b q) s
def execXor (d a b : BitVec 5) (q : BitVec 3) (s : State) : Out := issueSeq (binaryOp (· ^^^ ·) d a b q) s
def execShl (d a b : BitVec 5) (q : BitVec 3) (s : State) : Out := issueSeq (binaryOp shlWord d a b q) s
def execShr (d a b : BitVec 5) (q : BitVec 3) (s : State) : Out := issueSeq (binaryOp shrWord d a b q) s
def execSar (d a b : BitVec 5) (q : BitVec 3) (s : State) : Out := issueSeq (binaryOp sarWord d a b q) s
def execMul (d a b : BitVec 5) (q : BitVec 3) (s : State) : Out := issueSeq (binaryOp (· * ·) d a b q) s
def execMulh (d a b : BitVec 5) (q : BitVec 3) (s : State) : Out := issueSeq (binaryOp mulhWord d a b q) s
def execMulhu (d a b : BitVec 5) (q : BitVec 3) (s : State) : Out := issueSeq (binaryOp mulhuWord d a b q) s
def execDiv (d a b : BitVec 5) (q : BitVec 3) (s : State) : Out := issueSeq (binaryOp divWord d a b q) s
def execDivu (d a b : BitVec 5) (q : BitVec 3) (s : State) : Out := issueSeq (binaryOp divuWord d a b q) s
def execRem (d a b : BitVec 5) (q : BitVec 3) (s : State) : Out := issueSeq (binaryOp remWord d a b q) s
def execRemu (d a b : BitVec 5) (q : BitVec 3) (s : State) : Out := issueSeq (binaryOp remuWord d a b q) s
def execMin (d a b : BitVec 5) (q : BitVec 3) (s : State) : Out := issueSeq (binaryOp minWord d a b q) s
def execMax (d a b : BitVec 5) (q : BitVec 3) (s : State) : Out := issueSeq (binaryOp maxWord d a b q) s
def execMinu (d a b : BitVec 5) (q : BitVec 3) (s : State) : Out := issueSeq (binaryOp minuWord d a b q) s
def execMaxu (d a b : BitVec 5) (q : BitVec 3) (s : State) : Out := issueSeq (binaryOp maxuWord d a b q) s
def execSlt (d a b : BitVec 5) (q : BitVec 3) (s : State) : Out := issueSeq (binaryOp sltWord d a b q) s
def execSltu (d a b : BitVec 5) (q : BitVec 3) (s : State) : Out := issueSeq (binaryOp sltuWord d a b q) s
def execClz (d a : BitVec 5) (q : BitVec 2) (s : State) : Out := issueSeq (unaryOp clzWord d a q) s
def execCtz (d a : BitVec 5) (q : BitVec 2) (s : State) : Out := issueSeq (unaryOp ctzWord d a q) s
def execPopc (d a : BitVec 5) (q : BitVec 2) (s : State) : Out := issueSeq (unaryOp popcWord d a q) s

/-- SEL reads the old destination (R197, R200); its marks are those of S1 and S2. -/
def execSel (d a b : BitVec 5) (q : BitVec 2) (s : State) : Out :=
  issueSeq (do
    let old ← readReg d
    let x ← readSrc a (marked q 0)
    let y ← readSrc b (marked q 1)
    writeReg d (if old ≠ 0 then x else y)) s

def execExt (d a b : BitVec 5) (q : BitVec 3) (s : State) : Out := issueSeq (binaryOp extWord d a b q) s

/-! ### Immediate forms (R201) -/

def execAddi (d a : BitVec 5) (i : BitVec 16) (s : State) : Out := issueSeq (immOp (· + sext64 i) d a) s
def execAndi (d a : BitVec 5) (i : BitVec 16) (s : State) : Out := issueSeq (immOp (· &&& sext64 i) d a) s
def execOri (d a : BitVec 5) (i : BitVec 16) (s : State) : Out := issueSeq (immOp (· ||| sext64 i) d a) s
def execXori (d a : BitVec 5) (i : BitVec 16) (s : State) : Out := issueSeq (immOp (· ^^^ sext64 i) d a) s
def execShli (d a : BitVec 5) (k : BitVec 6) (s : State) : Out := issueSeq (immOp (fun x => x <<< k.toNat) d a) s
def execShri (d a : BitVec 5) (k : BitVec 6) (s : State) : Out := issueSeq (immOp (fun x => x >>> k.toNat) d a) s
def execSari (d a : BitVec 5) (k : BitVec 6) (s : State) : Out :=
  issueSeq (immOp (fun x => x.sshiftRight k.toNat) d a) s
def execSlti (d a : BitVec 5) (i : BitVec 16) (s : State) : Out := issueSeq (immOp (fun x => sltWord x (sext64 i)) d a) s
def execSltiu (d a : BitVec 5) (i : BitVec 16) (s : State) : Out :=
  issueSeq (immOp (fun x => sltuWord x (sext64 i)) d a) s
def execLih (d a : BitVec 5) (i : BitVec 16) (s : State) : Out := issueSeq (immOp (fun x => lihWord x i) d a) s

end Sys2Proof.Machine
end

