-- ==== Sys2Proof/Machine/Memory.lean ====
section
/-! DEFINITION. Loads, stores, atomics and spills of the access stream (R222 to R232). -/
namespace Sys2Proof.Machine

/-! ### Sizes and offsets (R180) -/

/-- Bytes of a size code (R180 Table 5). -/
def sizeBytes (z : BitVec 3) : Nat :=
  match z.toNat with
  | 0 => 1 | 1 => 2 | 2 => 4 | 3 => 8 | 4 => 256 | _ => 16

/-- The offset of the immediate majors: sext(offset) × size (R180). -/
def immOffset (o : BitVec 10) (n : Nat) : Word := sext64 o * BitVec.ofNat 64 n

/-- The offset of a store or an atomic of the register majors, left in its queue while the instruction may still be held or
trap. -/
def regOffset (b : BitVec 5) (m : BitVec 1) : Eff Word := peekSrc b (marked m 0)

/-- A loaded value extended (R224). -/
def extended (n : Nat) (z : BitVec 1) (bs : List Byte) : Word :=
  if n < 8 ∧ z = 0 then wordOfInt (signedOf (8 * n) (leNat bs)) else BitVec.ofNat 64 (leNat bs)

/-! ### Loads (R224, R226, R227) -/

/-- The bytes of a checked load through register `c`. -/
def loadBytes (c : BitVec 5) (off : Word) (n : Nat) (nc : BitVec 1) : Eff (List Byte) := do
  let cs ← readCap c
  let va := capAddr cs + off
  checkAccess { cap := cs, va := va, len := n, perms := [permLD], align := n, store := false }
  loadData cs va n (decide (nc = 1))

/-- The instruction has asked already, and its answer is here. -/
def answered : Eff Bool := do
  let w ← theWait
  match w with
  | .read _ (some _) => pure true
  | _ => pure false

/-- The offset of a load of the register majors: popped when it is marked, at issue (R136), and kept until the load is
done. -/
def loadOffset (b : BitVec 5) (m : BitVec 1) : Eff Word := do
  let t ← theTask
  let again ← answered
  match (if again then t.popped else none) with
  | some p => pure p.2
  | none => do
    let off ← readSrc b (marked m 0)
    if marked m 0 then modTask (fun t => { t with popped := some (b.toNat, off) }) else pure ()
    pure off

/-- The load is done. -/
def loadDone : Eff Unit := modTask (fun t => { t with popped := none })

/-- LD of `n` bytes at an offset. -/
def loadTo (d c : BitVec 5) (off : Word) (n : Nat) (nc z : BitVec 1) : Eff Unit := do
  let bs ← loadBytes c off n nc
  writeReg d (extended n z bs)

/-- LDQ: the entry is reserved at issue and filled in program order (R226, R136). -/
def loadToQueue (d c : BitVec 5) (off : Word) (s : BitVec 3) (nc z : BitVec 1) : Eff Unit := do
  let again ← answered
  if again then pure () else if s = 4 then reserveVlq else reservePort d.toNat
  let bs ← loadBytes c off (sizeBytes s) nc
  if s = 4 then fillVlq (BitVec.ofNat 2048 (leNat bs)) else fillPort d.toNat (extended (sizeBytes s) z bs)

/-- The revocation filter on a value of the executing task (R56). -/
def filterNow (c : Cap) : Eff Cap := do
  let s ← get
  let t ← theTask
  let s1 := cacheMarks s t.ctx c
  set { s1 with fresh := s.fresh + 1 }
  pure (filterCap s1 t.ctx c)

/-- LDC, steps 1 to 6 of R227; the permission bits of steps 4 and 5 go from untagged values too. -/
def loadCapTo (d c : BitVec 5) (off : Word) (nc : BitVec 1) : Eff Unit := do
  let cs ← readCap c
  let va := capAddr cs + off
  checkAccess { cap := cs, va := va, len := 16, perms := [permLD], align := 16, store := false }
  let g ← loadGranule cs va (decide (nc = 1))
  let s ← get
  let g1 := { g with tag := g.tag && hasPerm cs permTAGRD }
  let g2 := if hasPerm cs permDEEP then g1 else capDropPerms g1 [permST, permTAGWR, permSEQ, permDEEP]
  let g3 := if isOwn s va then g2 else capDropPerms g2 [permST, permTAGWR, permSEQ]
  let g4 ← filterNow g3
  writeCap d g4

def execLdImm (d c : BitVec 5) (n z : BitVec 1) (s : BitVec 3) (o : BitVec 10) (st : State) : Out :=
  issueSeq (loadTo d c (immOffset o (sizeBytes s)) (sizeBytes s) n z) st
def execLdqImm (d c : BitVec 5) (n z : BitVec 1) (s : BitVec 3) (o : BitVec 10) (st : State) : Out :=
  issueSeq (loadToQueue d c (immOffset o (sizeBytes s)) s n z) st
def execLdcImm (d c : BitVec 5) (n : BitVec 1) (o : BitVec 10) (st : State) : Out :=
  issueSeq (loadCapTo d c (immOffset o 16) n) st

def execLdReg (d c b : BitVec 5) (m n z : BitVec 1) (s : BitVec 3) (st : State) : Out :=
  issueSeq (do
    let off ← loadOffset b m
    loadTo d c off (sizeBytes s) n z
    loadDone) st
def execLdqReg (d c b : BitVec 5) (m n z : BitVec 1) (s : BitVec 3) (st : State) : Out :=
  issueSeq (do
    let off ← loadOffset b m
    loadToQueue d c off s n z
    loadDone) st
def execLdcReg (d c b : BitVec 5) (m n : BitVec 1) (st : State) : Out :=
  issueSeq (do
    let off ← loadOffset b m
    loadCapTo d c off n
    loadDone) st

/-! ### Stores (R225, R226, R228) -/

/-- ST of the low bytes of a value. -/
def storeBytes (c : BitVec 5) (off : Word) (bs : List Byte) : Eff Unit := do
  let cs ← readCap c
  let n := bs.length
  let va := capAddr cs + off
  checkAccess { cap := cs, va := va, len := n, perms := [permST], align := n, store := true }
  storeChecked va n (fun tol => .data bs tol) false

/-- STQ: the value is popped first, an offset from the same queue second (R226). -/
def storeFromQueue (v c : BitVec 5) (s : BitVec 3) (off : Word) : Eff Unit := do
  if s = 4 then do
    let x ← peekVsq
    storeBytes c off (leBytes 256 x.toNat)
    dropVsq
  else do
    let x ← peekPort v.toNat 0
    storeBytes c off (leBytes (sizeBytes s) x.toNat)
    dropPort v.toNat

/-- STC: the filter, then the checks of R44 with the additions of R228. -/
def storeCap (v c : BitVec 5) (off : Word) : Eff Unit := do
  let raw ← readCap v
  let x ← filterNow raw
  let cs ← readCap c
  let s ← get
  let va := capAddr cs + off
  let ownSram := decide (vaSpace va = 1) && isOwn s va
  let a : Access44 :=
    { cap := cs, va := va, len := 16, perms := if x.tag then [permST, permTAGWR] else [permST], align := 16,
      store := true, badValue := x.tag && !ownSram && !hasPerm x permROAM }
  checkAccess a (if vaSpace va = 2 ∧ x.tag = true then some dtlNoTags else none)
  storeChecked va 16 (fun _ => .cap x) true

def execStImm (v c : BitVec 5) (s : BitVec 3) (o : BitVec 10) (st : State) : Out :=
  issueSeq (do
    let x ← readReg v
    storeBytes c (immOffset o (sizeBytes s)) (leBytes (sizeBytes s) x.toNat)) st
def execStqImm (v c : BitVec 5) (s : BitVec 3) (o : BitVec 10) (st : State) : Out :=
  issueSeq (storeFromQueue v c s (immOffset o (sizeBytes s))) st
def execStcImm (v c : BitVec 5) (o : BitVec 10) (st : State) : Out :=
  issueSeq (storeCap v c (immOffset o 16)) st

def execStReg (v c b : BitVec 5) (m : BitVec 1) (s : BitVec 3) (st : State) : Out :=
  issueSeq (do
    let x ← readReg v
    let off ← regOffset b m
    storeBytes c off (leBytes (sizeBytes s) x.toNat)
    dropSrc b (marked m 0)) st

/-- The offset comes second when it is popped from the queue of the value (R226). -/
def execStqReg (v c b : BitVec 5) (m : BitVec 1) (s : BitVec 3) (st : State) : Out :=
  issueSeq (do
    let second := decide (s ≠ 4) && decide (v = b)
    let off ← if marked m 0 then peekPort b.toNat (if second then 1 else 0) else readReg b
    storeFromQueue v c s off
    dropSrc b (marked m 0)) st
def execStcReg (v c b : BitVec 5) (m : BitVec 1) (st : State) : Out :=
  issueSeq (do
    let off ← regOffset b m
    storeCap v c off
    dropSrc b (marked m 0)) st

/-! ### Atomics (R229, R230) -/

/-- The code that a buffered atomic carries for CAS; 0 to 8 are the operations of AMO (R178). -/
def opCas : BitVec 4 := 15

/-- The old value as d receives it: `.w` results are sign-extended (R229). -/
def atomicResult (wide : Bool) (old : Word) : Word := if wide then old else sext64 (old.extractLsb' 0 32)

/-- An atomic enters the store buffer after its checks and permit, and its stream waits for the old value (R230). -/
def startAtomic (c : BitVec 5) (wide : Bool) (op : BitVec 4) (y expected : Word) : Eff Unit := do
  let cs ← readCap c
  let n := if wide then 8 else 4
  let va := capAddr cs
  checkAccess { cap := cs, va := va, len := n, perms := [permLD, permST], align := n, store := true }
  let s ← get
  storeChecked va n (fun _ => .amo op wide y expected s.nextId) true
  modify (fun s => { s with nextId := s.nextId + 1 })
  setTheWait (.atomic s.nextId none)

/-- AMO: operand and old value may be queues; the entry of the old value is reserved at issue. -/
def execAmo (d c b : BitVec 5) (m n z : BitVec 1) (p : BitVec 4) (s : State) : Out :=
  issue (do
    let w ← theWait
    match w with
    | .atomic _ (some old) => do
      setTheWait .ready
      let r := atomicResult (decide (z = 1)) old
      if marked n 0 then fillPort d.toNat r else writeReg d r
      advance
    | .lost va => trapWith .eccUncorrectable 0 va
    | _ => do
      let y ← peekSrc b (marked m 0)
      needDst d (marked n 0)
      startAtomic c (decide (z = 1)) p y 0
      dropSrc b (marked m 0)
      if marked n 0 then reservePort d.toNat else pure ()) s

/-- CAS: d holds the expected value and receives the old one. -/
def execCas (d c b : BitVec 5) (m z : BitVec 1) (s : State) : Out :=
  issue (do
    let w ← theWait
    match w with
    | .atomic _ (some old) => do
      setTheWait .ready
      writeReg d (atomicResult (decide (z = 1)) old)
      advance
    | .lost va => trapWith .eccUncorrectable 0 va
    | _ => do
      let x ← readReg d
      let y ← peekSrc b (marked m 0)
      startAtomic c (decide (z = 1)) opCas y x
      dropSrc b (marked m 0)) s

/-! ### Spills (R113, R231, R232) -/

/-- Bytes of one slot's part of the carve-out (R113). -/
def carveBytes (cx : CtxState) : Nat := (cx.spilllim.toNat * 256 - cx.spillbase.toNat * 256) / 4 / 256 * 256

/-- Bytes of one slot's overflow pages (R35). -/
def ovfBytes (cx : CtxState) : Nat := field cx.spillovf 0 16 * 65536

/-- Address of stack byte `j` of slot `k` (R113). -/
def stackVa (s : State) (k j : Nat) : Word :=
  let q := carveBytes s.cx
  if j < q then mkVa 1 s.pkg s.core (s.cx.spillbase.toNat * 256 + k * q + j)
  else mkVa 0 s.pkg s.core (field s.cx.spillovf 16 27 * 65536 + k * ovfBytes s.cx + (j - q))

/-- SPILL of one granule. -/
def spillGranule (x : Cap) : Eff Unit := do
  let s ← get
  let t ← theTask
  let d := t.spillDepth
  let va := stackVa s (curK s) d
  if carveBytes s.cx + ovfBytes s.cx < d + 16 then trapWith .spillExhausted 1
  else if x.tag && decide (vaSpace va = 0) && !hasPerm x permROAM then trapWith .capPerm 0 va
  else if decide (vaSpace va = 1) && inSched s.cx (vaOff va) 16 then trapWith .pagePerm dtlSchedArea va
  else do
    storeChecked va 16 (fun _ => .cap x) true
    modTask (fun t => { t with spillDepth := d + 16 })

/-- FILL of one granule, as an own load (R232), from its place as the depth gives it, whatever SPILLOVF.n has become since
(log entry 170, DESIGN CHOICE). -/
def fillGranule : Eff Cap := do
  let s ← get
  let t ← theTask
  let d := t.spillDepth
  if d = 0 then trapWith .spillExhausted 2
  else do
    let g ← loadOwnCap (stackVa s (curK s) (d - 16))
    modTask (fun t => { t with spillDepth := d - 16 })
    pure g

def execSpillA (a : BitVec 5) (m : BitVec 1) (s : State) : Out :=
  issueSeq (do
    let x ← peekSrc a (marked m 0)
    spillGranule { bits := x.setWidth 128, tag := false }
    dropSrc a (marked m 0)) s

def execSpillC (c : BitVec 5) (s : State) : Out :=
  issueSeq (do
    let raw ← readCap c
    let x ← filterNow raw
    spillGranule x) s

def execFillA (d : BitVec 5) (m : BitVec 1) (s : State) : Out :=
  issueSeq (do
    needDst d (marked m 0)
    let g ← fillGranule
    writeDst d (marked m 0) (g.bits.extractLsb' 0 64)) s

def execFillC (d : BitVec 5) (s : State) : Out :=
  issueSeq (do
    let g ← fillGranule
    let x ← filterNow g
    writeCap d x) s

end Sys2Proof.Machine
end

