-- ==== Sys2Proof/Machine/Vector.lean ====
section
/-! DEFINITION. Vector and mask instructions of the execute stream (R244 to R264). -/
namespace Sys2Proof.Machine

/-! ### Lanes (R244, R245) -/

/-- The 32 bits of lane `i`. -/
def laneBits (x : VecWord) (i : Nat) : Nat := (x.extractLsb' (32 * i) 32).toNat

/-- Lane `i` read as an element of type `t`. -/
def laneElem (t : BitVec 4) (x : VecWord) (i : Nat) : Nat := laneBits x i % 2 ^ typeWidth t

/-- A result extended to the 32 bits of its lane. -/
def extendLane (t : BitVec 4) (r : Nat) : Nat :=
  if isSignedType t then wrapInt 32 (signedOf (typeWidth t) r) else r % 2 ^ typeWidth t

/-- The vector whose lane `i` is `f i`. -/
def vecFrom (f : Nat → Nat) : VecWord := BitVec.ofNat 2048 (packBits 32 ((List.range 64).map f))

/-- Flags of the active lanes together. -/
def laneFlags (mask : Word) (f : Nat → Nat × Nat) : Nat :=
  (List.range 64).foldl (fun g i => if mask.getLsbD i then orFlags g (f i).2 else g) 0

/-- Active lanes take their result, the others keep the old value. -/
def maskedVec (mask : Word) (t : BitVec 4) (old : VecWord) (f : Nat → Nat × Nat) : VecWord :=
  vecFrom (fun i => if mask.getLsbD i then extendLane t (f i).1 else laneBits old i)

/-- A lane-wise instruction: `f` of FPMODE, the old lane and the lanes of both sources. Flags are checked before any
lane is written (R262). -/
def laneOp (f : BitVec 4 → Nat → Nat → Nat → Nat × Nat) (v a b : BitVec 5) (k : BitVec 3) (t : BitVec 4) : Eff Unit := do
  let u ← theTask
  let mask := maskVal u k
  let old := vecVal u v
  let x := vecVal u a
  let y := vecVal u b
  let g := fun i => f (modeOf u) (laneElem t old i) (laneElem t x i) (laneBits y i)
  raiseFlags (laneFlags mask g)
  modTask (fun u => setVec u v (maskedVec mask t old g))

/-! ### Major 0x30 (R247 to R250) -/

/-- A lane of integers modulo 2^n, or of floating point. -/
def arithLane (t : BitVec 4) (fi : Int → Int → Int) (ff : FloatFmt → BitVec 4 → Num → Num → Nat × Nat) (mode : BitVec 4)
    (_d x y : Nat) : Nat × Nat :=
  if isFloat t then ff (floatOf t) mode (operand (floatOf t) mode x) (operand (floatOf t) mode y)
  else (wrapInt (typeWidth t) (fi (intValue t x) (intValue t y)), 0)

/-- Integer division of n-bit elements (R249). -/
def divInt (t : BitVec 4) (x y : Int) : Int := if y = 0 then 2 ^ typeWidth t - 1 else x.tdiv y

def minMaxLane (t : BitVec 4) (big : Bool) (mode : BitVec 4) (_d x y : Nat) : Nat × Nat :=
  let z := y % 2 ^ typeWidth t
  if isFloat t then minMaxFloat (floatOf t) mode big x z
  else
    let le := decide (intValue t x ≤ intValue t z)
    (if le = big then z else x, 0)

/-- Logic on the n bits. -/
def logicLane (t : BitVec 4) (f : Nat → Nat → Nat) (_mode : BitVec 4) (_d x y : Nat) : Nat × Nat :=
  (f x (y % 2 ^ typeWidth t), 0)

/-- Shifts by y[5:0] (R250). -/
def shlLane (t : BitVec 4) (_mode : BitVec 4) (_d x y : Nat) : Nat × Nat :=
  (x * 2 ^ (y % 64) % 2 ^ typeWidth t, 0)
def shrLane (_t : BitVec 4) (_mode : BitVec 4) (_d x y : Nat) : Nat × Nat := (x / 2 ^ (y % 64), 0)
def sarLane (t : BitVec 4) (_mode : BitVec 4) (_d x y : Nat) : Nat × Nat :=
  (wrapInt (typeWidth t) (signedOf (typeWidth t) x / 2 ^ (y % 64)), 0)

/-- x × y + d rounded once, or modulo 2^n. -/
def fmaLane (t : BitVec 4) (mode : BitVec 4) (d x y : Nat) : Nat × Nat :=
  if isFloat t then
    fmaNum (floatOf t) mode (operand (floatOf t) mode x) (operand (floatOf t) mode y) (operand (floatOf t) mode d)
  else (wrapInt (typeWidth t) (intValue t d + intValue t x * intValue t y), 0)

/-- VABS and VNEG change the sign bit of a floating-point lane alone (R247). -/
def absLane (t : BitVec 4) (_mode : BitVec 4) (_d x _y : Nat) : Nat × Nat :=
  if isFloat t then (x % 2 ^ (typeWidth t - 1), 0) else ((intValue t x).natAbs % 2 ^ typeWidth t, 0)
def negLane (t : BitVec 4) (_mode : BitVec 4) (_d x _y : Nat) : Nat × Nat :=
  if isFloat t then (x ^^^ 2 ^ (typeWidth t - 1), 0) else (wrapInt (typeWidth t) (-(intValue t x)), 0)

def sqrtLane (t : BitVec 4) (mode : BitVec 4) (_d x _y : Nat) : Nat × Nat :=
  sqrtNum (floatOf t) mode (operand (floatOf t) mode x)

def execVadd (v a b : BitVec 5) (k : BitVec 3) (t : BitVec 4) (s : State) : Out :=
  issueSeq (laneOp (arithLane t (· + ·) addNum) v a b k t) s
def execVsub (v a b : BitVec 5) (k : BitVec 3) (t : BitVec 4) (s : State) : Out :=
  issueSeq (laneOp (arithLane t (· - ·) (fun f m x y => addNum f m x y.negate)) v a b k t) s
def execVmul (v a b : BitVec 5) (k : BitVec 3) (t : BitVec 4) (s : State) : Out :=
  issueSeq (laneOp (arithLane t (· * ·) mulNum) v a b k t) s
def execVfma (v a b : BitVec 5) (k : BitVec 3) (t : BitVec 4) (s : State) : Out :=
  issueSeq (laneOp (fmaLane t) v a b k t) s
def execVdiv (v a b : BitVec 5) (k : BitVec 3) (t : BitVec 4) (s : State) : Out :=
  issueSeq (laneOp (arithLane t (divInt t) divNum) v a b k t) s
def execVsqrt (v a : BitVec 5) (k : BitVec 3) (t : BitVec 4) (s : State) : Out :=
  issueSeq (laneOp (sqrtLane t) v a a k t) s
def execVmin (v a b : BitVec 5) (k : BitVec 3) (t : BitVec 4) (s : State) : Out :=
  issueSeq (laneOp (minMaxLane t false) v a b k t) s
def execVmax (v a b : BitVec 5) (k : BitVec 3) (t : BitVec 4) (s : State) : Out :=
  issueSeq (laneOp (minMaxLane t true) v a b k t) s
def execVabs (v a : BitVec 5) (k : BitVec 3) (t : BitVec 4) (s : State) : Out :=
  issueSeq (laneOp (absLane t) v a a k t) s
def execVneg (v a : BitVec 5) (k : BitVec 3) (t : BitVec 4) (s : State) : Out :=
  issueSeq (laneOp (negLane t) v a a k t) s
def execVand (v a b : BitVec 5) (k : BitVec 3) (t : BitVec 4) (s : State) : Out :=
  issueSeq (laneOp (logicLane t (· &&& ·)) v a b k t) s
def execVor (v a b : BitVec 5) (k : BitVec 3) (t : BitVec 4) (s : State) : Out :=
  issueSeq (laneOp (logicLane t (· ||| ·)) v a b k t) s
def execVxor (v a b : BitVec 5) (k : BitVec 3) (t : BitVec 4) (s : State) : Out :=
  issueSeq (laneOp (logicLane t (· ^^^ ·)) v a b k t) s
def execVshl (v a b : BitVec 5) (k : BitVec 3) (t : BitVec 4) (s : State) : Out :=
  issueSeq (laneOp (shlLane t) v a b k t) s
def execVshr (v a b : BitVec 5) (k : BitVec 3) (t : BitVec 4) (s : State) : Out :=
  issueSeq (laneOp (shrLane t) v a b k t) s
def execVsar (v a b : BitVec 5) (k : BitVec 3) (t : BitVec 4) (s : State) : Out :=
  issueSeq (laneOp (sarLane t) v a b k t) s

/-! ### Compare, select, move (R251 to R254) -/

/-- The four conditions on integers and on decoded values: EQ, NE, LT, LE. -/
def intCond (c : BitVec 2) (x y : Int) : Bool :=
  match c.toNat with
  | 0 => decide (x = y)
  | 1 => decide (x ≠ y)
  | 2 => decide (x < y)
  | _ => decide (x ≤ y)

def numCond (c : BitVec 2) (x y : Num) : Bool :=
  match c.toNat with
  | 0 => numEq x y
  | 1 => !numEq x y
  | 2 => numLt x y
  | _ => numLe x y

def cmpLane (c : BitVec 2) (t : BitVec 4) (mode : BitVec 4) (x y : Nat) : Bool × Nat :=
  if isFloat t then compareFloat (floatOf t) mode (numCond c) x y else (intCond c (intValue t x) (intValue t y), 0)

/-- A mask from its bits. -/
def maskFrom (f : Nat → Bool) : Word :=
  BitVec.ofNat 64 (natSum ((List.range 64).map (fun i => if f i then 2 ^ i else 0)))

def execVcmp (c : BitVec 2) (m : BitVec 3) (a b : BitVec 5) (k : BitVec 3) (t : BitVec 4) (s : State) : Out :=
  issueSeq (do
    let u ← theTask
    let mask := maskVal u k
    let g := fun i => cmpLane c t (modeOf u) (laneElem t (vecVal u a) i) (laneElem t (vecVal u b) i)
    raiseFlags (laneFlags mask (fun i => (0, (g i).2)))
    modTask (fun u => setMask u m (maskFrom (fun i => mask.getLsbD i && (g i).1)))) s

/-- A move of whole lanes: no flags. -/
def moveLanes (v : BitVec 5) (f : Task → Nat → Nat) : Eff Unit := modTask (fun u => setVec u v (vecFrom (f u)))

def execVsel (v a b : BitVec 5) (k : BitVec 3) (s : State) : Out :=
  issueSeq (moveLanes v (fun u i =>
    if (maskVal u k).getLsbD i then laneBits (vecVal u a) i else laneBits (vecVal u b) i)) s

def execVperm (v a b : BitVec 5) (k : BitVec 3) (s : State) : Out :=
  issueSeq (moveLanes v (fun u i =>
    let j := laneBits (vecVal u b) i
    if (maskVal u k).getLsbD i then (if j < 64 then laneBits (vecVal u a) j else 0) else laneBits (vecVal u v) i)) s

def execVbcast (v e : BitVec 5) (k : BitVec 3) (t : BitVec 4) (s : State) : Out :=
  issueSeq (moveLanes v (fun u i =>
    if (maskVal u k).getLsbD i then extendLane t (regVal u .E e).toNat else laneBits (vecVal u v) i)) s

/-- The lane index of VINS and VEXT. -/
def laneIndex (g : BitVec 5) : Eff Nat := do
  let u ← theTask
  let k := (regVal u .E g).toNat
  if k < 64 then pure k else trapWith .illegalOp dtlOperand

def execVins (v e g : BitVec 5) (t : BitVec 4) (s : State) : Out :=
  issueSeq (do
    let k ← laneIndex g
    moveLanes v (fun u i => if i = k then extendLane t (regVal u .E e).toNat else laneBits (vecVal u v) i)) s

def execVext (e v g : BitVec 5) (t : BitVec 4) (s : State) : Out :=
  issueSeq (do
    let k ← laneIndex g
    modTask (fun u => setReg u .E e (extendWord t (laneElem t (vecVal u v) k)))) s

def execViota (v : BitVec 5) (k : BitVec 3) (t : BitVec 4) (s : State) : Out :=
  issueSeq (moveLanes v (fun u i =>
    let mask := maskVal u k
    if mask.getLsbD i then extendLane t (popCount i mask.toNat) else laneBits (vecVal u v) i)) s

/-! ### Reductions and scans (R255, R256) -/

/-- Two present elements combined: value and flags. -/
def redOp (o : BitVec 3) (t : BitVec 4) (mode : BitVec 4) (x y : Nat) : Nat × Nat :=
  match o.toNat with
  | 0 => arithLane t (· + ·) addNum mode 0 x y
  | 1 => minMaxLane t false mode 0 x y
  | 2 => minMaxLane t true mode 0 x y
  | 3 => (x &&& y, 0)
  | 4 => (x ||| y, 0)
  | _ => (x ^^^ y, 0)

/-- An absent element passes the other on. -/
def comb (o : BitVec 3) (t : BitVec 4) (mode : BitVec 4) : Option Nat → Option Nat → Option Nat × Nat
  | none, b => (b, 0)
  | a, none => (a, 0)
  | some x, some y => (some (redOp o t mode x y).1, (redOp o t mode x y).2)

/-- The value of an empty reduction. -/
def redIdentity (o : BitVec 3) (t : BitVec 4) : Nat :=
  let n := typeWidth t
  match o.toNat with
  | 1 => if isFloat t then (floatOf t).infBits false else if isSignedType t then 2 ^ (n - 1) - 1 else 2 ^ n - 1
  | 2 => if isFloat t then (floatOf t).infBits true else if isSignedType t then 2 ^ (n - 1) else 0
  | 3 => 2 ^ n - 1
  | _ => 0

/-- One level of the tree. -/
def pairUp (f : Option Nat → Option Nat → Option Nat × Nat) : List (Option Nat) → List (Option Nat) × Nat
  | a :: b :: r =>
    let q := pairUp f r
    let p := f a b
    (p.1 :: q.1, orFlags p.2 q.2)
  | l => (l, 0)

/-- `n` levels. -/
def treeUp (f : Option Nat → Option Nat → Option Nat × Nat) : Nat → List (Option Nat) → List (Option Nat) × Nat
  | 0, l => (l, 0)
  | n + 1, l =>
    let p := pairUp f l
    let q := treeUp f n p.1
    (q.1, orFlags p.2 q.2)

/-- The lanes of a source, absent where inactive. -/
def activeLanes (mask : Word) (t : BitVec 4) (x : VecWord) : List (Option Nat) :=
  (List.range 64).map (fun i => if mask.getLsbD i then some (laneElem t x i) else none)

def execVred (v a : BitVec 5) (o k : BitVec 3) (t : BitVec 4) (s : State) : Out :=
  issueSeq (do
    let u ← theTask
    let r := treeUp (comb o t (modeOf u)) 6 (activeLanes (maskVal u k) t (vecVal u a))
    let x := match r.1 with
      | some y :: _ => y
      | _ => redIdentity o t
    raiseFlags r.2
    modTask (fun u => setVec u v (vecFrom (fun i => if i = 0 then extendLane t x else 0)))) s

/-- The inclusive prefixes, with the flags of the steps. -/
def scanUp (f : Option Nat → Option Nat → Option Nat × Nat) : Option Nat → List (Option Nat) → List (Option Nat) × Nat
  | _, [] => ([], 0)
  | acc, none :: r =>
    let q := scanUp f acc r
    (none :: q.1, q.2)
  | acc, some x :: r =>
    let p := f acc (some x)
    let q := scanUp f p.1 r
    (p.1 :: q.1, orFlags p.2 q.2)

def execVscan (v a : BitVec 5) (o k : BitVec 3) (t : BitVec 4) (s : State) : Out :=
  issueSeq (do
    let u ← theTask
    let r := scanUp (comb o t (modeOf u)) none (activeLanes (maskVal u k) t (vecVal u a))
    raiseFlags r.2
    modTask (fun u => setVec u v (vecFrom (fun i =>
      match r.1.getD i none with
      | some y => extendLane t y
      | none => laneBits (vecVal u v) i)))) s

/-! ### Conversions (R257 to R259) -/

/-- Mantissa width of a block type code of the V format (R181). -/
def blockWidth (t : BitVec 4) : Nat := t.toNat - 7

def isBlockType (t : BitVec 4) : Bool := decide (9 ≤ t.toNat)

/-- The exponent register that a mask field names. -/
def expReg (k : BitVec 3) : BitVec 5 := 24 + k.setWidth 5

/-- Packs the 64 lanes into two blocks (R258, R161). -/
def packBlocks (k : BitVec 3) (u t : BitVec 4) (v a : BitVec 5) : Eff Unit := do
  let w ← theTask
  let m := blockWidth u
  let xs := fun (b : Nat) => (List.range 32).map (fun i =>
    operand (floatOf t) ((modeOf w) &&& 8) (laneElem t (vecVal w a) (32 * b + i)))
  let b0 := toBlock m (xs 0)
  let b1 := toBlock m (xs 1)
  raiseFlags (orFlags b0.flags b1.flags) (b0.sats + b1.sats)
  modTask (fun w => setReg (setVec w v (BitVec.ofNat 2048 (packBits m (b0.mants ++ b1.mants)))) .E (expReg k)
    (BitVec.ofNat 64 (b0.expo + 256 * b1.expo)))

/-- One element of a block as a floating-point pattern. -/
def blockToFloat (f : FloatFmt) (mode : BitVec 4) (x : Num) : Nat × Nat :=
  match x with
  | .fin n m e => roundFloat f (rmOf mode) (ftzOf mode) n m e false
  | .inf n => (f.infBits n, 0)
  | .nan _ => (f.qnan, 0)

/-- Unpacks two blocks into the 64 lanes. -/
def unpackBlocks (k : BitVec 3) (u t : BitVec 4) (v a : BitVec 5) : Eff Unit := do
  let w ← theTask
  let m := blockWidth t
  let ms := unpackBits m (vecVal w a).toNat 64
  let ex := (regVal w .E (expReg k)).toNat
  let g := fun i => blockToFloat (floatOf u) (modeOf w) (blockNum m (ex / 256 ^ (i / 32) % 256) (ms.getD i 0))
  raiseFlags (laneFlags (BitVec.allOnes 64) g)
  modTask (fun w => setVec w v (vecFrom (fun i => extendLane u (g i).1)))

/-- VCVT to `u` from `t`. -/
def execVcvt (v a : BitVec 5) (u : BitVec 4) (k : BitVec 3) (t : BitVec 4) (s : State) : Out :=
  issueSeq (
    if isBlockType u then packBlocks k u t v a
    else if isBlockType t then unpackBlocks k u t v a
    else do
      let w ← theTask
      let mask := maskVal w k
      let g := fun i => convert u t (modeOf w) (laneElem t (vecVal w a) i)
      raiseFlags (laneFlags mask g)
      modTask (fun w => setVec w v (maskedVec mask u (vecVal w v) g))) s

/-! ### Queues and masks (R260, R261) -/

def execVlq (v : BitVec 5) (s : State) : Out :=
  issueSeq (do
    let x ← popVlq
    modTask (fun u => setVec u v x)) s

def execVsq (v : BitVec 5) (s : State) : Out :=
  issueSeq (do
    let u ← theTask
    pushVsq (vecVal u v)) s

def execMand (d a b : BitVec 3) (s : State) : Out :=
  issueSeq (modTask (fun u => setMask u d (maskVal u a &&& maskVal u b))) s
def execMor (d a b : BitVec 3) (s : State) : Out :=
  issueSeq (modTask (fun u => setMask u d (maskVal u a ||| maskVal u b))) s
def execMxor (d a b : BitVec 3) (s : State) : Out :=
  issueSeq (modTask (fun u => setMask u d (maskVal u a ^^^ maskVal u b))) s
def execMnot (d a : BitVec 3) (s : State) : Out := issueSeq (modTask (fun u => setMask u d (~~~ maskVal u a))) s
def execMcnt (e : BitVec 5) (a : BitVec 3) (s : State) : Out :=
  issueSeq (modTask (fun u => setReg u .E e (BitVec.ofNat 64 (popCount 64 (maskVal u a).toNat)))) s
def execMset (d : BitVec 3) (e : BitVec 5) (s : State) : Out :=
  issueSeq (modTask (fun u => setMask u d (regVal u .E e))) s

end Sys2Proof.Machine
end

