-- ==== Sys2Proof/Machine/Dispatch.lean ====
section
/-! DEFINITION. One arm per instruction: its meaning. -/
namespace Sys2Proof.Machine

def exec (i : Instr) (s : State) : Host.Outcome State Fault Refusal :=
  match i with
  | .add d a b q => Sys2Proof.Machine.execAdd d a b q s
  | .sub d a b q => Sys2Proof.Machine.execSub d a b q s
  | .and d a b q => Sys2Proof.Machine.execAnd d a b q s
  | .or d a b q => Sys2Proof.Machine.execOr d a b q s
  | .xor d a b q => Sys2Proof.Machine.execXor d a b q s
  | .shl d a b q => Sys2Proof.Machine.execShl d a b q s
  | .shr d a b q => Sys2Proof.Machine.execShr d a b q s
  | .sar d a b q => Sys2Proof.Machine.execSar d a b q s
  | .mul d a b q => Sys2Proof.Machine.execMul d a b q s
  | .mulh d a b q => Sys2Proof.Machine.execMulh d a b q s
  | .mulhu d a b q => Sys2Proof.Machine.execMulhu d a b q s
  | .div d a b q => Sys2Proof.Machine.execDiv d a b q s
  | .divu d a b q => Sys2Proof.Machine.execDivu d a b q s
  | .rem d a b q => Sys2Proof.Machine.execRem d a b q s
  | .remu d a b q => Sys2Proof.Machine.execRemu d a b q s
  | .min d a b q => Sys2Proof.Machine.execMin d a b q s
  | .max d a b q => Sys2Proof.Machine.execMax d a b q s
  | .minu d a b q => Sys2Proof.Machine.execMinu d a b q s
  | .maxu d a b q => Sys2Proof.Machine.execMaxu d a b q s
  | .slt d a b q => Sys2Proof.Machine.execSlt d a b q s
  | .sltu d a b q => Sys2Proof.Machine.execSltu d a b q s
  | .clz d a q => Sys2Proof.Machine.execClz d a q s
  | .ctz d a q => Sys2Proof.Machine.execCtz d a q s
  | .popc d a q => Sys2Proof.Machine.execPopc d a q s
  | .sel d a b q => Sys2Proof.Machine.execSel d a b q s
  | .ext d a b q => Sys2Proof.Machine.execExt d a b q s
  | .addi d a im => Sys2Proof.Machine.execAddi d a im s
  | .andi d a im => Sys2Proof.Machine.execAndi d a im s
  | .ori d a im => Sys2Proof.Machine.execOri d a im s
  | .xori d a im => Sys2Proof.Machine.execXori d a im s
  | .shli d a k => Sys2Proof.Machine.execShli d a k s
  | .shri d a k => Sys2Proof.Machine.execShri d a k s
  | .sari d a k => Sys2Proof.Machine.execSari d a k s
  | .slti d a im => Sys2Proof.Machine.execSlti d a im s
  | .sltiu d a im => Sys2Proof.Machine.execSltiu d a im s
  | .lih d a im => Sys2Proof.Machine.execLih d a im s
  | .beq a b o => Sys2Proof.Machine.execBeq a b o s
  | .bne a b o => Sys2Proof.Machine.execBne a b o s
  | .blt a b o => Sys2Proof.Machine.execBlt a b o s
  | .bge a b o => Sys2Proof.Machine.execBge a b o s
  | .bltu a b o => Sys2Proof.Machine.execBltu a b o s
  | .bgeu a b o => Sys2Proof.Machine.execBgeu a b o s
  | .jmp o => Sys2Proof.Machine.execJmp o s
  | .jal o => Sys2Proof.Machine.execJal o s
  | .jalr d a im => Sys2Proof.Machine.execJalr d a im s
  | .loop a o => Sys2Proof.Machine.execLoop a o s
  | .endStream => Sys2Proof.Machine.execEndStream s
  | .crr d n => Sys2Proof.Machine.execCrr d n s
  | .crw a n => Sys2Proof.Machine.execCrw a n s
  | .crset a n => Sys2Proof.Machine.execCrset a n s
  | .crclr a n => Sys2Proof.Machine.execCrclr a n s
  | .qtest d q => Sys2Proof.Machine.execQtest d q s
  | .sfset f => Sys2Proof.Machine.execSfset f s
  | .sfclr f => Sys2Proof.Machine.execSfclr f s
  | .sfwait f => Sys2Proof.Machine.execSfwait f s
  | .sftest d f => Sys2Proof.Machine.execSftest d f s
  | .fence sz o => Sys2Proof.Machine.execFence sz o s
  | .fencel => Sys2Proof.Machine.execFencel s
  | .fenceh a => Sys2Proof.Machine.execFenceh a s
  | .trap a => Sys2Proof.Machine.execTrap a s
  | .eret => Sys2Proof.Machine.execEret s
  | .brk => Sys2Proof.Machine.execBrk s
  | .snap => Sys2Proof.Machine.execSnap s
  | .idle => Sys2Proof.Machine.execIdle s
  | .chen a m => Sys2Proof.Machine.execChen a m s
  | .chdis a m => Sys2Proof.Machine.execChdis a m s
  | .chhold a m => Sys2Proof.Machine.execChhold a m s
  | .chrel a m => Sys2Proof.Machine.execChrel a m s
  | .chpend a b n m => Sys2Proof.Machine.execChpend a b n m s
  | .msgid d m => Sys2Proof.Machine.execMsgid d m s
  | .ldImm d c n z sz o => Sys2Proof.Machine.execLdImm d c n z sz o s
  | .ldqImm d c n z sz o => Sys2Proof.Machine.execLdqImm d c n z sz o s
  | .ldcImm d c n o => Sys2Proof.Machine.execLdcImm d c n o s
  | .stImm v c sz o => Sys2Proof.Machine.execStImm v c sz o s
  | .stqImm v c sz o => Sys2Proof.Machine.execStqImm v c sz o s
  | .stcImm v c o => Sys2Proof.Machine.execStcImm v c o s
  | .ldReg d c b m n z sz => Sys2Proof.Machine.execLdReg d c b m n z sz s
  | .ldqReg d c b m n z sz => Sys2Proof.Machine.execLdqReg d c b m n z sz s
  | .ldcReg d c b m n => Sys2Proof.Machine.execLdcReg d c b m n s
  | .stReg v c b m sz => Sys2Proof.Machine.execStReg v c b m sz s
  | .stqReg v c b m sz => Sys2Proof.Machine.execStqReg v c b m sz s
  | .stcReg v c b m => Sys2Proof.Machine.execStcReg v c b m s
  | .amo d c b m n z p => Sys2Proof.Machine.execAmo d c b m n z p s
  | .cas d c b m z => Sys2Proof.Machine.execCas d c b m z s
  | .spillA a m => Sys2Proof.Machine.execSpillA a m s
  | .spillC c => Sys2Proof.Machine.execSpillC c s
  | .fillA d m => Sys2Proof.Machine.execFillA d m s
  | .fillC d => Sys2Proof.Machine.execFillC d s
  | .kbase d c m => Sys2Proof.Machine.execKbase d c m s
  | .klen d c m => Sys2Proof.Machine.execKlen d c m s
  | .kperm d c m => Sys2Proof.Machine.execKperm d c m s
  | .ktag d c m => Sys2Proof.Machine.execKtag d c m s
  | .ktype d c m => Sys2Proof.Machine.execKtype d c m s
  | .kaddr d c m => Sys2Proof.Machine.execKaddr d c m s
  | .kseta d c b m => Sys2Proof.Machine.execKseta d c b m s
  | .kadd d c b m => Sys2Proof.Machine.execKadd d c b m s
  | .kclip d c b m => Sys2Proof.Machine.execKclip d c b m s
  | .kclipx d c b m => Sys2Proof.Machine.execKclipx d c b m s
  | .kmask d c b m => Sys2Proof.Machine.execKmask d c b m s
  | .kseal d c e => Sys2Proof.Machine.execKseal d c e s
  | .kunseal d c e => Sys2Proof.Machine.execKunseal d c e s
  | .kdrop d c => Sys2Proof.Machine.execKdrop d c s
  | .kdiff d c e m => Sys2Proof.Machine.execKdiff d c e m s
  | .kmov d c => Sys2Proof.Machine.execKmov d c s
  | .kspan d a b m => Sys2Proof.Machine.execKspan d a b m s
  | .kaddi d c im => Sys2Proof.Machine.execKaddi d c im s
  | .copy d c b m k => Sys2Proof.Machine.execCopy d c b m k s
  | .pull d c b m k => Sys2Proof.Machine.execPull d c b m k s
  | .pull2 d c b k => Sys2Proof.Machine.execPull2 d c b k s
  | .gather d c b m k => Sys2Proof.Machine.execGather d c b m k s
  | .pref c b m t k => Sys2Proof.Machine.execPref c b m t k s
  | .flush c b m k => Sys2Proof.Machine.execFlush c b m k s
  | .inval c b m k => Sys2Proof.Machine.execInval c b m k s
  | .binit c b => Sys2Proof.Machine.execBinit c b s
  | .barr c => Sys2Proof.Machine.execBarr c s
  | .bwait d c m => Sys2Proof.Machine.execBwait d c m s
  | .btest d c m => Sys2Proof.Machine.execBtest d c m s
  | .mqA x y o => Sys2Proof.Machine.execMqA x y o s
  | .mqE x y o => Sys2Proof.Machine.execMqE x y o s
  | .achain c b m n o => Sys2Proof.Machine.execAchain c b m n o s
  | .adisarm n => Sys2Proof.Machine.execAdisarm n s
  | .atest d m n => Sys2Proof.Machine.execAtest d m n s
  | .sendc a b m k => Sys2Proof.Machine.execSendc a b m k s
  | .seqadv c b m => Sys2Proof.Machine.execSeqadv c b m s
  | .watch d c b m => Sys2Proof.Machine.execWatch d c b m s
  | .unwatch d c => Sys2Proof.Machine.execUnwatch d c s
  | .epbind d c => Sys2Proof.Machine.execEpbind d c s
  | .rvmark c b m => Sys2Proof.Machine.execRvmark c b m s
  | .rvmarkClr c b m => Sys2Proof.Machine.execRvmarkClr c b m s
  | .rvsweep c => Sys2Proof.Machine.execRvsweep c s
  | .vadd v a b k t => Sys2Proof.Machine.execVadd v a b k t s
  | .vsub v a b k t => Sys2Proof.Machine.execVsub v a b k t s
  | .vmul v a b k t => Sys2Proof.Machine.execVmul v a b k t s
  | .vfma v a b k t => Sys2Proof.Machine.execVfma v a b k t s
  | .vdiv v a b k t => Sys2Proof.Machine.execVdiv v a b k t s
  | .vsqrt v a k t => Sys2Proof.Machine.execVsqrt v a k t s
  | .vmin v a b k t => Sys2Proof.Machine.execVmin v a b k t s
  | .vmax v a b k t => Sys2Proof.Machine.execVmax v a b k t s
  | .vabs v a k t => Sys2Proof.Machine.execVabs v a k t s
  | .vneg v a k t => Sys2Proof.Machine.execVneg v a k t s
  | .vand v a b k t => Sys2Proof.Machine.execVand v a b k t s
  | .vor v a b k t => Sys2Proof.Machine.execVor v a b k t s
  | .vxor v a b k t => Sys2Proof.Machine.execVxor v a b k t s
  | .vshl v a b k t => Sys2Proof.Machine.execVshl v a b k t s
  | .vshr v a b k t => Sys2Proof.Machine.execVshr v a b k t s
  | .vsar v a b k t => Sys2Proof.Machine.execVsar v a b k t s
  | .vcmp c m a b k t => Sys2Proof.Machine.execVcmp c m a b k t s
  | .vsel v a b k => Sys2Proof.Machine.execVsel v a b k s
  | .vcvt v a u k t => Sys2Proof.Machine.execVcvt v a u k t s
  | .vred v a o k t => Sys2Proof.Machine.execVred v a o k t s
  | .vscan v a o k t => Sys2Proof.Machine.execVscan v a o k t s
  | .vperm v a b k => Sys2Proof.Machine.execVperm v a b k s
  | .vbcast v e k t => Sys2Proof.Machine.execVbcast v e k t s
  | .vins v e g t => Sys2Proof.Machine.execVins v e g t s
  | .vext e v g t => Sys2Proof.Machine.execVext e v g t s
  | .vlq v => Sys2Proof.Machine.execVlq v s
  | .vsq v => Sys2Proof.Machine.execVsq v s
  | .viota v k t => Sys2Proof.Machine.execViota v k t s
  | .mand d a b => Sys2Proof.Machine.execMand d a b s
  | .mor d a b => Sys2Proof.Machine.execMor d a b s
  | .mxor d a b => Sys2Proof.Machine.execMxor d a b s
  | .mnot d a => Sys2Proof.Machine.execMnot d a s
  | .mcnt e a => Sys2Proof.Machine.execMcnt e a s
  | .mset d e => Sys2Proof.Machine.execMset d e s
  | .fadd d a b m t => Sys2Proof.Machine.execFadd d a b m t s
  | .fsub d a b m t => Sys2Proof.Machine.execFsub d a b m t s
  | .fmul d a b m t => Sys2Proof.Machine.execFmul d a b m t s
  | .fmadd d a b m t => Sys2Proof.Machine.execFmadd d a b m t s
  | .fdiv d a b m t => Sys2Proof.Machine.execFdiv d a b m t s
  | .fsqrt d a m t => Sys2Proof.Machine.execFsqrt d a m t s
  | .fmin d a b m t => Sys2Proof.Machine.execFmin d a b m t s
  | .fmax d a b m t => Sys2Proof.Machine.execFmax d a b m t s
  | .feq d a b m t => Sys2Proof.Machine.execFeq d a b m t s
  | .flt d a b m t => Sys2Proof.Machine.execFlt d a b m t s
  | .fle d a b m t => Sys2Proof.Machine.execFle d a b m t s
  | .fcvt d a u m t => Sys2Proof.Machine.execFcvt d a u m t s
  | .fclass d a m t => Sys2Proof.Machine.execFclass d a m t s
  | .fsgn d a b m t => Sys2Proof.Machine.execFsgn d a b m t s
  | .asend a m w => Sys2Proof.Machine.execAsend a m w s
  | .avsend a v m => Sys2Proof.Machine.execAvsend a v m s
  | .send a b m => Sys2Proof.Machine.execSend a b m s
  | .spawn d a b n m => Sys2Proof.Machine.execSpawn d a b n m s
  | .sopen a => Sys2Proof.Machine.execSopen a s
  | .sput a m => Sys2Proof.Machine.execSput a m s
  | .sclose => Sys2Proof.Machine.execSclose s
  | .tld => Sys2Proof.Machine.execTld s
  | .tst => Sys2Proof.Machine.execTst s
  | .tzero => Sys2Proof.Machine.execTzero s
  | .tcopy => Sys2Proof.Machine.execTcopy s
  | .txp => Sys2Proof.Machine.execTxp s
  | .tcvt => Sys2Proof.Machine.execTcvt s
  | .mma => Sys2Proof.Machine.execMma s
  | .mmag remote => Sys2Proof.Machine.execMmag remote s
  | .gangJoin => Sys2Proof.Machine.execGangJoin s
  | .gangTimeout => Sys2Proof.Machine.execGangTimeout s
  | .wzero => Sys2Proof.Machine.execWzero s
  | .wanch => Sys2Proof.Machine.execWanch s
  | .wauto => Sys2Proof.Machine.execWauto s
  | .drain => Sys2Proof.Machine.execDrain s
  | .rowdrainDeposit => Sys2Proof.Machine.execRowdrainDeposit s
  | .drrel => Sys2Proof.Machine.execDrrel s
  | .amaxAnswer ans => Sys2Proof.Machine.execAmaxAnswer ans s
  | .matrixCommandStart => Sys2Proof.Machine.execMatrixCommandStart s
  | .commandTrap slot => Sys2Proof.Machine.execCommandTrap slot s
  | .copyCommandStart => Sys2Proof.Machine.execCopyCommandStart s
  | .copyRetire id => Sys2Proof.Machine.execCopyRetire id s
  | .storePerformed => Sys2Proof.Machine.execStorePerformed s
  | .permitReply reply => Sys2Proof.Machine.execPermitReply reply s
  | .sliceRequest req => Sys2Proof.Machine.execSliceRequest req s
  | .sliceFillDone id => Sys2Proof.Machine.execSliceFillDone id s
  | .readResponse reply => Sys2Proof.Machine.execReadResponse reply s
  | .portRequest req => Sys2Proof.Machine.execPortRequest req s
  | .pageWake ctx tid => Sys2Proof.Machine.execPageWake ctx tid s
  | .faultRetryTimer tid => Sys2Proof.Machine.execFaultRetryTimer tid s
  | .lineAgeDiscard ctx va => Sys2Proof.Machine.execLineAgeDiscard ctx va s
  | .ptwWrite => Sys2Proof.Machine.execPtwWrite s
  | .ptwMove => Sys2Proof.Machine.execPtwMove s
  | .pageMoveDone => Sys2Proof.Machine.execPageMoveDone s
  | .invalidation inv => Sys2Proof.Machine.execInvalidation inv s
  | .invalidationComplete => Sys2Proof.Machine.execInvalidationComplete s
  | .invalidationTimeout silent => Sys2Proof.Machine.execInvalidationTimeout silent s
  | .ovfcfgWrite => Sys2Proof.Machine.execOvfcfgWrite s
  | .ovfstatRead => Sys2Proof.Machine.execOvfstatRead s
  | .spillovfWrite => Sys2Proof.Machine.execSpillovfWrite s
  | .rvcfgWrite => Sys2Proof.Machine.execRvcfgWrite s
  | .rvclrRead => Sys2Proof.Machine.execRvclrRead s
  | .tblcfgWrite => Sys2Proof.Machine.execTblcfgWrite s
  | .ptwsWrite => Sys2Proof.Machine.execPtwsWrite s
  | .splitWrite => Sys2Proof.Machine.execSplitWrite s
  | .vgroupWrite => Sys2Proof.Machine.execVgroupWrite s
  | .spillBoundsWrite => Sys2Proof.Machine.execSpillBoundsWrite s
  | .tshapeWrite => Sys2Proof.Machine.execTshapeWrite s
  | .wctlWrite => Sys2Proof.Machine.execWctlWrite s
  | .wctlRead => Sys2Proof.Machine.execWctlRead s
  | .numsumRead => Sys2Proof.Machine.execNumsumRead s
  | .numsumWrite => Sys2Proof.Machine.execNumsumWrite s
  | .cpstatWrite => Sys2Proof.Machine.execCpstatWrite s
  | .gangcfgWrite => Sys2Proof.Machine.execGangcfgWrite s
  | .ctxsaveWrite => Sys2Proof.Machine.execCtxsaveWrite s
  | .sliceWrite => Sys2Proof.Machine.execSliceWrite s
  | .wdbudgetWrite => Sys2Proof.Machine.execWdbudgetWrite s
  | .runqstatRead => Sys2Proof.Machine.execRunqstatRead s
  | .keycmdRevoke => Sys2Proof.Machine.execKeycmdRevoke s
  | .ecccntRead => Sys2Proof.Machine.execEcccntRead s
  | .scrubcfgWrite => Sys2Proof.Machine.execScrubcfgWrite s
  | .snapstatWrite => Sys2Proof.Machine.execSnapstatWrite s
  | .routecfgWrite => Sys2Proof.Machine.execRoutecfgWrite s
  | .routestatRead => Sys2Proof.Machine.execRoutestatRead s
  | .lnkcfgWrite => Sys2Proof.Machine.execLnkcfgWrite s
  | .lnkfenceWrite => Sys2Proof.Machine.execLnkfenceWrite s
  | .lnkstatRead => Sys2Proof.Machine.execLnkstatRead s
  | .registerWrite => Sys2Proof.Machine.execRegisterWrite s
  | .queueDeadlock slot => Sys2Proof.Machine.execQueueDeadlock slot s
  | .watchdog slot => Sys2Proof.Machine.execWatchdog slot s
  | .idleWake slot stream => Sys2Proof.Machine.execIdleWake slot stream s
  | .taskEnd slot => Sys2Proof.Machine.execTaskEnd slot s
  | .messageDeparture slot => Sys2Proof.Machine.execMessageDeparture slot s
  | .fatalContext ctx key => Sys2Proof.Machine.execFatalContext ctx key s
  | .messageArrival message => Sys2Proof.Machine.execMessageArrival message s
  | .ringHoldTimeout ctx chan => Sys2Proof.Machine.execRingHoldTimeout ctx chan s
  | .priorityAgeing entry => Sys2Proof.Machine.execPriorityAgeing entry s
  | .channelBitArrival packet => Sys2Proof.Machine.execChannelBitArrival packet s
  | .spawnRequest req => Sys2Proof.Machine.execSpawnRequest req s
  | .spawnResponse id grant => Sys2Proof.Machine.execSpawnResponse id grant s
  | .spawnArrival message => Sys2Proof.Machine.execSpawnArrival message s
  | .streamWordArrival flit => Sys2Proof.Machine.execStreamWordArrival flit s
  | .watchRequest req => Sys2Proof.Machine.execWatchRequest req s
  | .unwatchRequest req => Sys2Proof.Machine.execUnwatchRequest req s
  | .fencehRequest req => Sys2Proof.Machine.execFencehRequest req s
  | .fencehResponse id record => Sys2Proof.Machine.execFencehResponse id record s
  | .epbindAnswer slot dctx => Sys2Proof.Machine.execEpbindAnswer slot dctx s
  | .accumulateFlit flit => Sys2Proof.Machine.execAccumulateFlit flit s
  | .flitResendRequest num seq => Sys2Proof.Machine.execFlitResendRequest num seq s
  | .flitAck num seq => Sys2Proof.Machine.execFlitAck num seq s
  | .flitRefusal num => Sys2Proof.Machine.execFlitRefusal num s
  | .accumulateSendStart => Sys2Proof.Machine.execAccumulateSendStart s
  | .sweepRequest ctx pkg core othersIdle => Sys2Proof.Machine.execSweepRequest ctx pkg core othersIdle s
  | .sweepDrainDone => Sys2Proof.Machine.execSweepDrainDone s
  | .sweepScanDone => Sys2Proof.Machine.execSweepScanDone s
  | .sweepEpochEnd => Sys2Proof.Machine.execSweepEpochEnd s
  | .sliceExpiry => Sys2Proof.Machine.execSliceExpiry s
  | .contextSave next => Sys2Proof.Machine.execContextSave next s
  | .hostLaunch sub => Sys2Proof.Machine.execHostLaunch sub s
  | .prepare plan => Sys2Proof.Machine.execPrepare plan s
  | .prepareAnswer ctx pkg ready reason => Sys2Proof.Machine.execPrepareAnswer ctx pkg ready reason s
  | .commit ctx => Sys2Proof.Machine.execCommit ctx s
  | .committed ctx pkg => Sys2Proof.Machine.execCommitted ctx pkg s
  | .launchAbort ctx => Sys2Proof.Machine.execLaunchAbort ctx s
  | .launchTimeout => Sys2Proof.Machine.execLaunchTimeout s
  | .contextRelease ctx => Sys2Proof.Machine.execContextRelease ctx s
  | .doorbell => Sys2Proof.Machine.execDoorbell s
  | .ctxctlEvict => Sys2Proof.Machine.execCtxctlEvict s
  | .ctxctlRestore => Sys2Proof.Machine.execCtxctlRestore s
  | .hwinRegister => Sys2Proof.Machine.execHwinRegister s
  | .hwinUnregister => Sys2Proof.Machine.execHwinUnregister s
  | .ssbindWrite => Sys2Proof.Machine.execSsbindWrite s
  | .accessDenied => Sys2Proof.Machine.execAccessDenied s
  | .hostAcquireRead id ctx va => Sys2Proof.Machine.execHostAcquireRead id ctx va s
  | .hostAtomic req => Sys2Proof.Machine.execHostAtomic req s
  | .contextCreate => Sys2Proof.Machine.execContextCreate s
  | .grant req => Sys2Proof.Machine.execGrant req s
  | .grantWithdraw req => Sys2Proof.Machine.execGrantWithdraw req s
  | .provision => Sys2Proof.Machine.execProvision s
  | .activate => Sys2Proof.Machine.execActivate s
  | .revoke => Sys2Proof.Machine.execRevoke s
  | .resealDone slot => Sys2Proof.Machine.execResealDone slot s
  | .scrubDone slot => Sys2Proof.Machine.execScrubDone slot s
  | .secureStreamUnit unit => Sys2Proof.Machine.execSecureStreamUnit unit s
  | .fenceRequest => Sys2Proof.Machine.execFenceRequest s
  | .packageFence pkg => Sys2Proof.Machine.execPackageFence pkg s
  | .linkFenceTimeout pkg => Sys2Proof.Machine.execLinkFenceTimeout pkg s
  | .admitPackage => Sys2Proof.Machine.execAdmitPackage s
  | .routingWindow idle => Sys2Proof.Machine.execRoutingWindow idle s
  | .linkFlit link flit => Sys2Proof.Machine.execLinkFlit link flit s
  | .nak link seq => Sys2Proof.Machine.execNak link seq s
  | .laneRepair link lane => Sys2Proof.Machine.execLaneRepair link lane s
  | .streamRouteReserve slot => Sys2Proof.Machine.execStreamRouteReserve slot s
  | .coldBoot => Sys2Proof.Machine.execColdBoot s
  | .warmReset => Sys2Proof.Machine.execWarmReset s
  | .bootStageDone result => Sys2Proof.Machine.execBootStageDone result s
  | .bootTimeout => Sys2Proof.Machine.execBootTimeout s
  | .firmwareUpdate verified => Sys2Proof.Machine.execFirmwareUpdate verified s
  | .scrubRead place found => Sys2Proof.Machine.execScrubRead place found s
  | .snaptrig => Sys2Proof.Machine.execSnaptrig s
  | .snapshotLatch => Sys2Proof.Machine.execSnapshotLatch s
  | .thermalStep => Sys2Proof.Machine.execThermalStep s
  | .sweeperExamine loc => Sys2Proof.Machine.execSweeperExamine loc s
  | .copyDeposit id => Sys2Proof.Machine.execCopyDeposit id s

end Sys2Proof.Machine
end

