-- ==== Sys2Proof/Machine/Units.lean ====
section
/-! DEFINITION. What the units of the core do next by themselves: the row that the next step takes when a unit acts. -/
namespace Sys2Proof.Machine

/-- The stream has an instruction at issue, which would issue or is held, by whatever: it does not stand at END, wait for
the line of its next instruction, or idle. -/
def hasInstruction (s : State) (x : StreamSt) : Bool :=
  !x.ended && (match x.wait with
    | .idle _ => false
    | .read id none => !(s.pending.any (fun p => decide (p.id = id) && decide (p.purpose = .fetch)))
    | _ => true)

/-- A pending command trap or matrix numeric trap that the task takes now (R172, R269, R351). -/
def trapDue (s : State) (t : Task) : Bool :=
  t.cmdTrap.isSome && decide (t.ending = .running) && (hasInstruction s t.sa || hasInstruction s t.se)

/-- A running task whose deadlock counter or budget has run out, whose pending trap is due or whose IDLE has ended;
QUEUE_DEADLOCK before WATCHDOG (R139, R356). Between one of these and a pending command or matrix numeric trap of the same
cycle R269 and R351 give no order; the model takes the counter first (log entry 178, DESIGN CHOICE). -/
def expired (s : State) (k : Nat) : Option Instr :=
  match taskIn s k with
  | none => none
  | some t =>
    if t.deadlock = 65536#17 then some (.queueDeadlock (BitVec.ofNat 2 k))
    else if t.wdbudget = 0 then some (.watchdog (BitVec.ofNat 2 k))
    else if trapDue s t then some (.commandTrap (BitVec.ofNat 2 k))
    else if t.sa.wait = .idle 0 then some (.idleWake (BitVec.ofNat 2 k) .A)
    else if t.se.wait = .idle 0 then some (.idleWake (BitVec.ofNat 2 k) .E)
    else none

/-- The flag that an instruction observes set, for it goes on only then or reads it as 1 (R138, R220). -/
def flagSeen (t : Task) : Instr → Option (BitVec 4)
  | .sfwait f => some f
  | .sftest _ f => if t.sf.getLsbD f.toNat then some f else none
  | _ => none

/-- The flag that an instruction sets. -/
def flagRaised : Instr → Option (BitVec 4)
  | .sfset f => some f
  | _ => none

/-- The other stream of a task. -/
def otherStream : Stream → Stream
  | .A => .E
  | .E => .A

/-- What an instruction of stream `c` that has gone from `pre` to `s` orders between the streams of its task (R138, R218). -/
def noteOrder (pre : State) (c : BitVec 2 × Stream) (i : Instr) (s : State) : State :=
  match taskIn pre c.1.toNat, taskIn s c.1.toNat with
  | some t, some u =>
    if u.late.isEmpty || decide (u.tid ≠ t.tid) || decide (s.hold ≠ .none) then s
    else { putTask s c.1.toNat (settleTask t u c.2 (flagSeen t i) (flagRaised i)
             (fun j => Config.choice (s.fresh + j))) with
           fresh := s.fresh + u.late.length }
  | _, _ => s

/-- The class of the trap by which task `tid` of context `ctx` has left its slot, or its context is to end: 3 FATAL-CONTEXT,
2 an abort, 1 SUSPEND, 0 none of them (R351). -/
def trapRank (pre s : State) (k tid : Nat) (ctx : BitVec 12) : Nat :=
  let left := match taskIn s k with
    | some t => decide (t.tid ≠ tid)
    | none => true
  if (s.inputs.drop pre.inputs.length).any (fun e => decide (e.row = .fatalContext ctx false ∨ e.row = .fatalContext ctx true)) then 3
  else if !left then 0
  else if (findSuspended s tid).isSome then 1 else 2

/-- Two traps of one task in one cycle (R351): whether that of stream `st`, of rank `r`, gives way to the other stream's, of
rank `q`: the higher class is taken, and of equal ones the access stream's. -/
def givesWay (st : Stream) (r q : Nat) : Bool := decide (0 < r) && (decide (r < q) || (decide (r = q) && decide (st = .E)))

def orderOut (pre : State) (c : BitVec 2 × Stream) (i : Instr) : Out → Out
  | .next s => .next (noteOrder pre c i s)
  | o => o

/-- The first slot with an expired counter. -/
def autoEvent (s : State) : Option Instr := (List.range 4).findSome? (expired s)

/-- The rows of a matrix command that has started, by its operation (R268). -/
def runRows (op : Nat) : List Instr :=
  [(opTld, [.tld]), (opTst, [.tst]), (opTzero, [.tzero]), (opTcopy, [.tcopy]), (opTxp, [.txp]), (opTcvt, [.tcvt]),
    (opMma, [.mma]), (opMmag, [.mmag none, .gangJoin]), (opWzero, [.wzero]), (opWanch, [.wanch]), (opWauto, [.wauto]),
    (opDrain, [.drain, .rowdrainDeposit])].foldl (fun (a : List Instr) (p : Nat × List Instr) =>
      if p.1 = op then p.2 else a) []

/-- Rows of the matrix engine. -/
def matrixActs (s : State) : List Instr :=
  .drrel :: (match s.mxRun with
    | some r => runRows (cmdOp r.cmd)
    | none => if s.mxQueue.isEmpty then [] else [.matrixCommandStart])

/-- Rows of the copy engine. -/
def copyActs (s : State) : List Instr :=
  if s.copies.isEmpty then []
  else s.copies.flatMap (fun c => [.copyRetire c.id, .copyDeposit c.id]) ++ [.copyCommandStart]

/-- Rows about the task in a slot: a permit on its way, its departures and its end, the route that its stream asks for. -/
def slotActs (s : State) (k : Nat) : List Instr :=
  match taskIn s k with
  | none => []
  | some t =>
    let b := BitVec.ofNat 2 k
    (match t.sa.wait with | .permit va => if vaSpace va = 2 then [] else [.permitReply { slot := b, present := true }] | _ => []) ++
      (match t.ending with
       | .running => []
       | .draining => [.taskEnd b]
       | .departing => if t.staged.isEmpty then [.taskEnd b] else [.messageDeparture b]) ++
      (if t.se.wait = .route then [.streamRouteReserve b] else [])

/-- Rows of the scheduler, the slices and the sweeper. -/
def coreActs (s : State) : List Instr :=
  (match nextOut s with | some c => if s.switchReq || decide (s.cx.num = 0) then [.contextSave c.num] else [] | none => []) ++
    (match s.home.slices.findSome? (fun p => p.2.fills.head?) with | some f => [.sliceFillDone f.1.id] | none => []) ++
    (if s.sweep = .draining && aloneHere s s.sweepCtx then [.sweepDrainDone] else []) ++
    (if s.sweep = .scan then [.sweepScanDone] else []) ++
    (if s.sweep = .reported && aloneHere s s.sweepCtx then [.sweepEpochEnd] else []) ++
    (match s.tableOp with | some op => if op.copying then [.pageMoveDone] else [] | none => [])

/-- The acts that the units may take next, in a fixed order of preference: a step takes the first that does not have to
wait. -/
def unitActs (s : State) : List Instr :=
  (if s.sb.isEmpty then [] else [.storePerformed]) ++ (List.range 4).flatMap (slotActs s) ++ matrixActs s ++
    (if s.sendQueue.isEmpty then [] else [.accumulateSendStart]) ++ copyActs s ++ coreActs s

end Sys2Proof.Machine
end

