-- ==== Sys2Proof/Machine/Step.lean ====
section
/-! DEFINITION. One step of the machine: an event that has come, an expired counter, a unit's act, or one instruction of
one stream; and the word that a host places to be run first. -/
namespace Sys2Proof.Machine

/-- A stream that has an instruction at issue: not at END and waiting for nothing (R129, R206). -/
def atIssue (t : Task) (st : Stream) : Bool :=
  let x := streamOf t st
  decide (t.ending = .running) && !x.ended &&
    (match x.wait with
     | .ready => true
     | .read _ r => r.isSome
     | .permit _ => false
     | .atomic _ r => r.isSome
     | .spawn _ _ _ _ _ r => r.isSome
     | .unreachable => true
     | .route => match t.port with | some p => p.routed | none => true
     | .epbind _ r => r.isSome
     | .fenceh _ _ r => r.isSome
     | .idle _ => false
     | .hostOk _ => true
     | .lost _ => true
     | .marking _ => true)

/-- Slots of one pipeline in the order of selection: by priority, then round-robin (R337). -/
def pipeline (s : State) (st : Stream) : List (BitVec 2 × Stream) :=
  let last := match st with | .A => s.lastA | .E => s.lastE
  [3, 2, 1, 0].flatMap (fun p => [1, 2, 3, 4].filterMap (fun i =>
    let k : BitVec 2 := last + BitVec.ofNat 2 i
    match taskIn s k.toNat with
    | some t => if t.prio.toNat = p ∧ atIssue t st = true then some (k, st) else none
    | none => none))

/-- The streams that may issue, the other pipeline than the last one first. -/
def candidates (s : State) : List (BitVec 2 × Stream) :=
  match s.cur.2 with
  | .A => pipeline s .E ++ pipeline s .A
  | .E => pipeline s .A ++ pipeline s .E

/-- The state in which stream `c` is being issued. -/
def issuing (s : State) (c : BitVec 2 × Stream) : State := { s with cur := c, hold := .none }

/-- One instruction of one stream: fetch, decode (R183) and its meaning. A pending command trap has been taken before
(autoEvent). -/
def attempt (s : State) (c : BitVec 2 × Stream) : Out :=
  let s1 := issuing s c
  match fetchWord.run s1 with
  | .error (.hold h) => .next { s1 with hold := h }
  | .error (.trap i) => .next (takeTrap s1 i)
  | .error .noSubject => .next { s1 with hold := .absent }
  | .error (.ask s2) => .next s2
  | .ok (w, s2) =>
    match decode c.2 w with
    | .error e => .next (takeTrap s2 (decodeTrap e))
    | .ok i => orderOut s2 c i (exec i s2)

/-- An answer that takes place: no wait, no missing subject. -/
def takesPlace : Out → Bool
  | .next s => decide (s.hold = .none)
  | _ => false

/-- An event that has to wait. One without a subject does not: it is over, with no effect. -/
def mustWait : Out → Bool
  | .next s => decide (s.hold ≠ .none ∧ s.hold ≠ .absent)
  | _ => false

/-- The first candidate whose instruction issues, with its answer. -/
def firstIssue (s : State) : List (BitVec 2 × Stream) → Option ((BitVec 2 × Stream) × Out)
  | [] => none
  | c :: r => if takesPlace (attempt s c) then some (c, attempt s c) else firstIssue s r

/-- The stream that its pipeline picks in this cycle. -/
def picked (s : State) (st : Stream) : Option (BitVec 2 × Stream) :=
  (pipeline s st).find? (fun c => takesPlace (attempt s c))

/-- The rank of the trap that an answer takes. -/
def rankOf (s : State) (c : BitVec 2 × Stream) : Out → Nat
  | .next u => match taskIn s c.1.toNat with
    | some t => trapRank s u c.1.toNat t.tid t.ctx
    | none => 0
  | _ => 0

/-- When the instruction chosen traps, and the other stream of its task, picked in the same cycle, traps too, one of them is
taken, and the other instruction has no effect (R351). -/
def settleTraps (s : State) (x : (BitVec 2 × Stream) × Out) : (BitVec 2 × Stream) × Out :=
  let r := rankOf s x.1 x.2
  let d := (x.1.1, otherStream x.1.2)
  if r ≠ 0 ∧ picked s d.2 = some d ∧ givesWay x.1.2 r (rankOf s d (attempt s d)) = true then (d, attempt s d) else x

/-- Why a stream's instruction is held. -/
def heldBy (s : State) (k : BitVec 2) (st : Stream) : Hold :=
  match attempt s (k, st) with
  | .next s1 => s1.hold
  | _ => .none

/-- The queue of a code (R355) with an element at its head and an entry free. -/
def eased {α : Type} (x : α) (depth : Nat) (q : Queue α) : Queue α :=
  (match q.take (depth - 1) with
   | some y :: r => some y :: r
   | _ :: r => some x :: r
   | [] => [some x])

/-- The task with every queue eased: what is then still held, is held by more than R136. -/
def easeTask (t : Task) : Task :=
  { t with
    lq := t.lq.map (eased 0 scalarDepth)
    sq := t.sq.map (eased 0 scalarDepth)
    vlq := eased 0 vectorDepth t.vlq
    vsq := eased 0 vectorDepth t.vsq }

/-- With every queue eased, the instruction is held by something else (R139). -/
def alsoHeld (s : State) (k : BitVec 2) (st : Stream) (t : Task) : Bool :=
  decide (heldBy (putTask s k.toNat (easeTask t)) k st = .other)

/-- The code that a queue-blocked stream waits on; none when it is not queue-blocked (R139): at END, or held only by
R136 or by a flag. -/
def blockedOn (s : State) (k : BitVec 2) (st : Stream) : Option (BitVec 8) :=
  match taskIn s k.toNat with
  | none => none
  | some t =>
    if (streamOf t st).ended then some 0
    else if atIssue t st then
      match heldBy s k st with
      | .queue c => if alsoHeld s k st t then none else some c
      | _ => none
    else none

/-- The codes of both streams when both are queue-blocked, as the detail of QUEUE_DEADLOCK holds them (R355). -/
def bothBlocked (s : State) (k : BitVec 2) : Option (BitVec 16) :=
  match blockedOn s k .A, blockedOn s k .E with
  | some x, some y => some (y ++ x)
  | _, _ => none

/-- An IDLE wait counts a cycle down, to zero. -/
def idleTick : StreamSt → StreamSt
  | { pc, auth, ended, wait := .idle n } =>
    { pc := pc, auth := auth, ended := ended, wait := .idle (if n = 0 then 0 else n - 1) }
  | x => x

/-- One cycle passes for a running task: budget, deadlock counter and IDLE waits (R139, R325, R356). `blocked`: both of
its streams are queue-blocked. -/
def tickTask (t : Task) (blocked : Option (BitVec 16)) : Task :=
  { changeViews t 5 (fun w => if w = 0 then 0 else w - 1) with
    deadlock := if t.ending ≠ .running then t.deadlock
      else if blocked.isSome then (if t.deadlock = 65536#17 then t.deadlock else t.deadlock + 1) else 0
    waitCodes := blocked.getD t.waitCodes
    sa := idleTick t.sa
    se := idleTick t.se }

def tickSlot (blocked : Option (BitVec 16)) : Slot → Slot
  | .running t => .running (tickTask t blocked)
  | x => x

/-- One cycle passes. `pre` is the state before it. -/
def tick (pre s : State) : State :=
  { s with slots := #v[tickSlot (bothBlocked pre 0) (slotAt s 0), tickSlot (bothBlocked pre 1) (slotAt s 1),
      tickSlot (bothBlocked pre 2) (slotAt s 2), tickSlot (bothBlocked pre 3) (slotAt s 3)] }

/-- The stream waits for the line of its next instruction, or for the permit of a store at issue. -/
def beforeIssue (s : State) (x : StreamSt) : Bool :=
  match x.wait with
  | .permit _ => true
  | .read id none => s.pending.any (fun p => decide (p.id = id) && decide (p.purpose = .fetch))
  | _ => false

/-- The step from `pre` to `s` selected an instruction of stream `c`, which then executed or trapped: not the second half
of an instruction selected before, and not a fetch or a permit asked for. -/
def selected (pre s : State) (c : BitVec 2 × Stream) : Bool :=
  match taskIn pre c.1.toNat with
  | none => false
  | some t =>
    (match (streamOf t c.2).wait with | .ready => true | _ => false) &&
      (match taskIn s c.1.toNat with
       | some u => !(decide (u.tid = t.tid) && beforeIssue s (streamOf u c.2))
       | none => true)

/-- A selected instruction ends the IDLE waits of other slots in its pipeline (R325). -/
def wakeIdle (c : BitVec 2 × Stream) (s : State) : State :=
  let w := fun (k : Nat) => match slotAt s k with
    | .running t =>
      if k ≠ c.1.toNat then
        match (streamOf t c.2).wait with
        | .idle _ => Slot.running (setWait t c.2 (.idle 0))
        | _ => .running t
      else .running t
    | x => x
  { s with slots := #v[w 0, w 1, w 2, w 3] }

/-- The round-robin pointer of the pipeline that issued (R337). -/
def noteIssue (c : BitVec 2 × Stream) (s : State) : State :=
  match c.2 with
  | .A => { s with lastA := c.1 }
  | .E => { s with lastE := c.1 }

/-- The marks that the selection of an instruction leaves. -/
def noteSelected (pre : State) (c : BitVec 2 × Stream) (s : State) : State :=
  if selected pre s c then noteIssue c (wakeIdle c s) else s

/-- After an instruction: its cycle passes and a unit may act next. -/
def afterIssue (pre : State) (c : BitVec 2 × Stream) : Out → Out
  | .next s => .next (tick pre { noteSelected pre c s with turn := true, hold := .none })
  | o => o

/-- After a row that is no instruction. -/
def afterEvent : Out → Out
  | .next s => .next { s with turn := false, hold := .none }
  | o => o

/-- The first of a list of acts that takes place. -/
def firstAct (s : State) : List Instr → Option Out
  | [] => none
  | i :: r => if takesPlace (exec i s) then some (afterEvent (exec i s)) else firstAct s r

/-- The streams' part of a step: the first that can issue; with none, a unit's act; with none, a cycle passes. -/
def stepStreams (s : State) : Out :=
  match (firstIssue s (candidates s)).map (settleTraps s) with
  | some (c, o) => afterIssue s c o
  | none => (firstAct s (unitActs s)).getD (.next (tick s s))

/-- The first event, in the order they came, that does not have to wait; `held` are those before it. A packet out of
sequence waits (R364), and so does a launch message behind another of its launch (R342). -/
def firstEvent (s : State) (held : List Event) : List Event → Option Out
  | [] => none
  | ev :: r =>
    let o := exec ev.row { accepted s ev with inputs := held ++ r, access := ev.access }
    if !inSequence s ev || overtakes held ev || mustWait o then firstEvent s (held ++ [ev]) r else some (afterEvent o)

/-- What happens when no event can be taken. -/
def stepInside (s : State) : Out :=
  match autoEvent s with
  | some i => afterEvent (exec i s)
  | none =>
    if s.turn then (firstAct s (unitActs s)).getD (stepStreams s)
    else stepStreams s

/-- One step from a state in which nothing is held. -/
def stepClear (s : State) : Out :=
  match firstEvent s [] s.inputs with
  | some o => o
  | none => stepInside s

/-- One step. -/
def step (s : State) : Out := stepClear { s with hold := .none }

/-! ### A word placed to be run first -/

/-- Table frames 0 to 3 of context 1 and its one page of code in frame 84 (R62), with the word at its first byte; frames 4 to 83
are the save area (R344). -/
def placedMem (m : Mem) (w : Nat) : Mem :=
  let m1 := putBytes m 8 (leBytes 8 0x40010000)
  let m2 := putBytes m1 65536 (leBytes 8 0x81)
  let m3 := putBytes m2 131072 (leBytes 8 0xC1)
  let m4 := putBytes m3 196608 (leBytes 8 0x1513)
  putBytes m4 5505024 (leBytes 4 w)

/-- The code root of context 1 over its one page. -/
def placedRoot (s : State) : Cap :=
  let b := (mkVa 3 s.pkg s.core 0).toNat
  capMake (mkVa 3 s.pkg s.core 0) b (b + 65536) codeRootPerms 0 true

/-- A launched task of context 1 whose stream `st` stands at the placed word; the other stream stands at END. -/
def placedTask (s : State) (st : Stream) : Task :=
  let root := placedRoot s
  let live : StreamSt := { pc := capAddr root, auth := root, ended := false, wait := .ready }
  let dead : StreamSt := { pc := 0, auth := Cap.null, ended := true, wait := .ready }
  let t := activate s { CtxState.fresh 1 with rootCode := root } 0
    { hdr0 := 0, hdr1 := 0, slot0 := Cap.null, slot1 := Cap.null, slot2 := Cap.null, record := none } none
  { t with
    sa := (match st with | .A => live | .E => dead)
    se := (match st with | .A => dead | .E => live)
    ending := .running
    wdbudget := 0xFFFFFFFF }

/-- The state with a word placed where the next step fetches: as if context 1 had an Active key slot, a launch of
it had placed a one-page image and a task of it stood at the word, in the stream that the word's major belongs to. -/
def State.withFetchWord (s : State) (nbits w : Nat) : State :=
  let x := if nbits = 0 then 0 else w % 2 ^ 32
  let st : Stream := if majorKind ((BitVec.ofNat 32 x).extractLsb' 26 6) = some (.only .E) then .E else .A
  { s with
    slots := #v[.running (placedTask s st), .free, .free, .free]
    cx := { CtxState.fresh 1 with rootCode := placedRoot s }
    regs := { s.regs with tblcfg := 0x540000, ctxsave := 4 }
    home := { mem := placedMem s.home.mem x, errors := [], slices := [], holder := [] }
    pk := if (activeKey s 1).isSome then s.pk
      else { s.pk with keys := sparsePut KeySlot.none s.pk.keys 0 { state := .active, ctx := 1, material := 0 } }
    tableOp := none
    fetchLines := []
    inputs := []
    turn := false
    hold := .none
    nextId := s.nextId + 1 }

end Sys2Proof.Machine
end

