-- ==== Sys2Proof/Safety.lean ====
section
/-! DEFINITION. What claims call safe, and the words that the claims are written in: answers of a step, states whose
memories are in canonical form, the operands of an instruction and the state that it leaves. -/
namespace Sys2Proof.Machine

/-- The answer is a next state. -/
def Answers (o : Out) (t : State) : Prop := o = .next t

/-- The machine goes on. -/
def GoesOn (o : Out) : Prop := ∃ t, o = .next t

/-- Every memory of the state is in canonical form: the home channel, and the scratchpad of each context. -/
def memoriesWf (s : State) : Bool :=
  memWf s.home.mem && memWf s.cx.sram && s.others.all (fun c => memWf c.sram)

/-- A run of `n` steps that ends in a state. -/
def Reaches : Nat → State → State → Prop
  | 0, s, t => s = t
  | n + 1, s, t => ∃ u, step s = .next u ∧ Reaches n u t

/-! ### An instruction at issue -/

/-- Task `t` runs in the slot whose instruction is at issue. -/
def Issues (s : State) (t : Task) : Prop := taskIn s (curK s) = some t

/-- What a source field gives (R131, R135): a register, or for a marked field the oldest element of its queue, which
the read takes away. None: there is no such element yet, and the instruction waits (R136). -/
def operandOf (t : Task) (st : Stream) (r : BitVec 5) (mark : Bool) : Option (Word × Task) :=
  if mark then
    match portQueue t r.toNat with
    | some w :: q => some (w, setPortQueue t r.toNat q)
    | _ => none
  else some (regVal t st r, t)

/-- A marked destination has a free entry in its queue of eight (R134, R136). -/
def HasRoom (t : Task) (d : BitVec 5) (mark : Bool) : Prop := mark = true → (portQueue t d.toNat).length < 8

/-- The task with a value written to a destination field: to the register (register 0 discards it, R131), or behind the
elements of the queue that a marked field names. -/
def withResult (t : Task) (st : Stream) (d : BitVec 5) (mark : Bool) (v : Word) : Task :=
  if mark then setPortQueue t d.toNat (portQueue t d.toNat ++ [some v]) else setReg t st d v

/-- The state in which the task at issue is `t`, its program counter at `pc`, and nothing else has changed. -/
def goesTo (s : State) (t : Task) (pc : Word) : State := putTask s (curK s) (setPc t s.cur.2 pc)

/-- The state in which the task at issue is `t`, at the next instruction, and nothing else has changed. -/
def goesOn (s : State) (t : Task) : State := goesTo s t (curPc t s.cur.2 + 4)

/-! ### Accesses that meet no failure and no stall -/

/-- A store of `n` bytes at an own address that has passed the checks of R44 goes to `l` at once (R67, R76, R97, R110,
R270): no armed range, no copy or matrix command in the way, room in the store buffer, and for space 0 a permit and a
translation. `tol`: the page is tolerant. -/
def StoreGoes (s : State) (t : Task) (va : Word) (n : Nat) (l : Loc) (tol : Bool) : Prop :=
  isOwn s va = true ∧ s.sb.length < 16 ∧ onScoreboard s va n = false ∧
  ((vaSpace va = 1 ∧ inArmed s.cx (vaOff va) n = false ∧ onMatrixHold s (vaOff va) n true = false ∧
      l = .sram (vaOff va) ∧ tol = false) ∨
   (vaSpace va ≠ 1 ∧ moveHolds s t.ctx va = false ∧ ∃ p b lf, findPermit s t.ctx va = some p ∧
      storeWalk s t.ctx va = .ok b lf ∧ l = .hbm b ∧ tol = p.tol))

/-- A load of `n` bytes at an own address that has passed the checks of R44 is served from `l` at once: no command in
the way, nothing in the store buffer to wait for, no error that cannot be corrected, and for spaces 0 and 3 an Active key
slot and a translation. -/
def LoadGoes (s : State) (t : Task) (va : Word) (n : Nat) (l : Loc) : Prop :=
  isOwn s va = true ∧ onScoreboard s va n = false ∧ sbMustWait s t.ctx va n = false ∧
  ((vaSpace va = 1 ∧ onMatrixHold s (vaOff va) n false = false ∧ badWord s.cx (vaOff va) n = false ∧
      l = .sram (vaOff va)) ∨
   (vaSpace va ≠ 1 ∧ moveHolds s t.ctx va = false ∧ (activeKey s t.ctx).isSome = true ∧ ∃ b lf, walk s t.ctx (decide (vaSpace va = 3)) true (vaOff va) =
      .ok b lf ∧ badRead s t.ctx va b n = false ∧ l = .hbm b))

/-- The state after a load at `va` from `l`: the errors that can be corrected are, in the data and in the entries that the
walk reads (R28, R395). -/
def afterLoad (s : State) (t : Task) (va : Word) (l : Loc) (n : Nat) : State :=
  match l with
  | .hbm b => correctSectors (noteWalk s t.ctx (decide (vaSpace va = 3)) (vaOff va)) b n
  | .sram a => correctWords s a n

/-- The own page at an address is tolerant (R29). -/
def tolAt (s : State) (t : Task) (va : Word) : Bool :=
  decide (vaSpace va ≠ 1) && (match walk s t.ctx (decide (vaSpace va = 3)) true (vaOff va) with
    | .ok _ lf => lf.tol
    | _ => false)

/-- What a load at `va` from `l` reads: memory, rounded on a tolerant page, with the newer bytes of the store buffer over it
(R30, R76). -/
def loaded (s : State) (t : Task) (va : Word) (l : Loc) (n : Nat) : List Byte :=
  forward s t.ctx va.toNat (readPage s l (tolAt s t va) n)

/-- The state with an entry behind the others of the store buffer. -/
def buffered (s : State) (e : SbEntry) : State := { s with sb := s.sb ++ [e] }

end Sys2Proof.Machine
end

