-- ==== Sys2Proof/Certificates/Slice0/Obligations.lean ====
section
/-! DEFINITION. Statements for the provers. The shapes that several of them share stand in Sys2Proof.Claims. -/

open Sys2Proof Sys2Proof.Machine

/-! ### Integer and control flow (chapter 11) -/

namespace Sys2Proof.Claims

/-- The major and the function code of a word with zeros in its other fields (R174, R177). -/
def opWord (major fn : Nat) : InstrWord := BitVec.ofNat 32 (major * 2 ^ 26 + fn)

/-- A form of major 0x01 with function code `fn` writes `f` of its two sources, and changes nothing else but the program
counter. -/
def BinaryGives (fn : Nat) (mk : BitVec 5 → BitVec 5 → BitVec 5 → BitVec 3 → Instr) (f : Word → Word → Word) : Prop :=
  (∀ d a b q, encode (mk d a b q) = [opWord 1 fn ||| put d 21 ||| put a 16 ||| put b 11 ||| put q 8]) ∧
  ∀ (s : State) (t u v : Task) (x y : Word) (d a b : BitVec 5) (q : BitVec 3), Issues s t →
    HasRoom t d (q.getLsbD 0) → operandOf t s.cur.2 a (q.getLsbD 1) = some (x, u) →
    operandOf u s.cur.2 b (q.getLsbD 2) = some (y, v) →
    exec (mk d a b q) s = .next (goesOn s (withResult v s.cur.2 d (q.getLsbD 0) (f x y)))

/-- A form of one source and a destination writes the number that `R` gives, and changes nothing else. -/
def UnaryGives (fn : Nat) (mk : BitVec 5 → BitVec 5 → BitVec 2 → Instr) (R : Word → Nat → Prop) : Prop :=
  (∀ d a q, encode (mk d a q) = [opWord 1 fn ||| put d 21 ||| put a 16 ||| put q 8]) ∧
  ∀ (s : State) (t u : Task) (x : Word) (d a : BitVec 5) (q : BitVec 2), Issues s t →
    HasRoom t d (q.getLsbD 0) → operandOf t s.cur.2 a (q.getLsbD 1) = some (x, u) →
    ∃ n, R x n ∧ exec (mk d a q) s = .next (goesOn s (withResult u s.cur.2 d (q.getLsbD 0) (BitVec.ofNat 64 n)))

/-- A form of a source register and an immediate of `n` bits; a word with a bit set above the immediate is refused. -/
def ImmGives {n : Nat} (major : Nat) (mk : BitVec 5 → BitVec 5 → BitVec n → Instr) (f : Word → BitVec n → Word) : Prop :=
  (∀ d a i, encode (mk d a i) = [opWord major 0 ||| put d 21 ||| put a 16 ||| put i 0]) ∧
  (∀ (st : Stream) (w : InstrWord), (w >>> 26).toNat = major → w.toNat % 2 ^ 16 / 2 ^ n ≠ 0 →
    decode st w = .error .reservedField) ∧
  ∀ (s : State) (t : Task) (d a : BitVec 5) (i : BitVec n), Issues s t →
    exec (mk d a i) s = .next (goesOn s (setReg t s.cur.2 d (f (regVal t s.cur.2 a) i)))

/-- A branch goes to PC + 4 × sext(offset) when the comparison holds, else to PC + 4. -/
def BranchGoes (major : Nat) (mk : BitVec 5 → BitVec 5 → BitVec 16 → Instr) (c : Word → Word → Bool) : Prop :=
  (∀ a b o, encode (mk a b o) = [opWord major 0 ||| put a 21 ||| put b 16 ||| put o 0]) ∧
  ∀ (s : State) (t : Task) (a b : BitVec 5) (o : BitVec 16), Issues s t →
    exec (mk a b o) s = .next (goesTo s t (if c (regVal t s.cur.2 a) (regVal t s.cur.2 b) then
      curPc t s.cur.2 + 4 * o.signExtend 64 else curPc t s.cur.2 + 4))

/-- The bit field of R199 with position y[5:0] and width y[13:8] + 1, sign-extended where y[16] is set. -/
def bitField (x y : Word) : Word :=
  let w := y.toNat / 256 % 64 + 1
  let f := x.toNat / 2 ^ (y.toNat % 64) % 2 ^ w
  if y.getLsbD 16 = true ∧ 2 ^ (w - 1) ≤ f then BitVec.ofInt 64 ((f : Int) - 2 ^ w) else BitVec.ofNat 64 f

end Sys2Proof.Claims

open Sys2Proof.Claims

/-- Table 1 of R197, Table 2 of R198 and R199, for every operand form of each register operation, with its frame. -/
def Sys2Proof.Claims.IntegerRegisterResults : Prop :=
  BinaryGives 0x00 .add (fun x y => x + y) ∧ BinaryGives 0x01 .sub (fun x y => x - y) ∧ BinaryGives 0x02 .and (fun x y => x &&& y) ∧
  BinaryGives 0x03 .or (fun x y => x ||| y) ∧ BinaryGives 0x04 .xor (fun x y => x ^^^ y) ∧
  BinaryGives 0x05 .shl (fun x y => x <<< (y.toNat % 64)) ∧ BinaryGives 0x06 .shr (fun x y => x >>> (y.toNat % 64)) ∧
  BinaryGives 0x07 .sar (fun x y => x.sshiftRight (y.toNat % 64)) ∧ BinaryGives 0x08 .mul (fun x y => x * y) ∧
  BinaryGives 0x09 .mulh (fun x y => (x.signExtend 128 * y.signExtend 128).extractLsb' 64 64) ∧
  BinaryGives 0x0A .mulhu (fun x y => (x.setWidth 128 * y.setWidth 128).extractLsb' 64 64) ∧
  BinaryGives 0x0B .div (fun x y => if y = 0 then BitVec.allOnes 64 else x.sdiv y) ∧
  BinaryGives 0x0C .divu (fun x y => if y = 0 then BitVec.allOnes 64 else x.udiv y) ∧
  BinaryGives 0x0D .rem (fun x y => if y = 0 then x else x.srem y) ∧
  BinaryGives 0x0E .remu (fun x y => if y = 0 then x else x.umod y) ∧
  BinaryGives 0x0F .min (fun x y => if x.slt y then x else y) ∧ BinaryGives 0x10 .max (fun x y => if x.slt y then y else x) ∧
  BinaryGives 0x11 .minu (fun x y => if x.ult y then x else y) ∧ BinaryGives 0x12 .maxu (fun x y => if x.ult y then y else x) ∧
  BinaryGives 0x13 .slt (fun x y => if x.slt y then 1 else 0) ∧ BinaryGives 0x14 .sltu (fun x y => if x.ult y then 1 else 0) ∧
  BinaryGives 0x19 .ext bitField ∧
  UnaryGives 0x15 .clz (fun x n => n ≤ 64 ∧ (∀ i, i < n → x.getLsbD (63 - i) = false) ∧ (n < 64 → x.getLsbD (63 - n) = true)) ∧
  UnaryGives 0x16 .ctz (fun x n => n ≤ 64 ∧ (∀ i, i < n → x.getLsbD i = false) ∧ (n < 64 → x.getLsbD n = true)) ∧
  UnaryGives 0x17 .popc (fun x n => n = (List.range 64).countP (fun i => x.getLsbD i)) ∧
  (∀ d a b q, encode (.sel d a b q) = [opWord 1 0x18 ||| put d 21 ||| put a 16 ||| put b 11 ||| put q 9]) ∧
  (∀ (s : State) (t u v : Task) (x y : Word) (d a b : BitVec 5) (q : BitVec 2), Issues s t →
    operandOf t s.cur.2 a (q.getLsbD 0) = some (x, u) → operandOf u s.cur.2 b (q.getLsbD 1) = some (y, v) →
    exec (.sel d a b q) s = .next (goesOn s (setReg v s.cur.2 d (if regVal t s.cur.2 d ≠ 0 then x else y))))

/-- Table 3 of R201, with its frame. -/
def Sys2Proof.Claims.IntegerImmediateResults : Prop :=
  ImmGives 0x02 .addi (fun x i => x + i.signExtend 64) ∧ ImmGives 0x03 .andi (fun x i => x &&& i.signExtend 64) ∧
  ImmGives 0x04 .ori (fun x i => x ||| i.signExtend 64) ∧ ImmGives 0x05 .xori (fun x i => x ^^^ i.signExtend 64) ∧
  ImmGives 0x06 .shli (fun x k => x <<< k.toNat) ∧ ImmGives 0x07 .shri (fun x k => x >>> k.toNat) ∧
  ImmGives 0x08 .sari (fun x k => x.sshiftRight k.toNat) ∧
  ImmGives 0x09 .slti (fun x i => if x.slt (i.signExtend 64) then 1 else 0) ∧
  ImmGives 0x0A .sltiu (fun x i => if x.ult (i.signExtend 64) then 1 else 0) ∧
  ImmGives 0x0B .lih (fun x i => x.extractLsb' 0 48 ++ i)

/-- R197 to R199, R201: the integer operations on registers and with immediates. -/
def Obligations.IntegerResults : Prop := IntegerRegisterResults ∧ IntegerImmediateResults

/-- R202: the six branches, which change nothing but the program counter. -/
def Sys2Proof.Claims.BranchesGo : Prop :=
  BranchGoes 0x0C .beq (fun x y => x == y) ∧ BranchGoes 0x0D .bne (fun x y => x != y) ∧ BranchGoes 0x0E .blt (fun x y => x.slt y) ∧
  BranchGoes 0x0F .bge (fun x y => !x.slt y) ∧ BranchGoes 0x10 .bltu (fun x y => x.ult y) ∧ BranchGoes 0x11 .bgeu (fun x y => !x.ult y)

/-- R203: JMP, JAL and JALR, the MISALIGN of JALR with its effects of a trap. -/
def Sys2Proof.Claims.JumpsGo : Prop :=
  ∀ (s : State) (t : Task), Issues s t →
    (∀ o, exec (.jmp o) s = .next (goesTo s t (curPc t s.cur.2 + 4 * o.signExtend 64))) ∧
    (∀ o, exec (.jal o) s = .next (goesTo s (setReg t s.cur.2 31 (curPc t s.cur.2 + 4))
      (curPc t s.cur.2 + 4 * o.signExtend 64))) ∧
    (∀ d a i, (regVal t s.cur.2 a).extractLsb' 0 2 = 0 → exec (.jalr d a i) s =
      .next (goesTo s (setReg t s.cur.2 d (curPc t s.cur.2 + 4)) (regVal t s.cur.2 a + 4 * i.signExtend 64))) ∧
    (∀ d a i, (regVal t s.cur.2 a).extractLsb' 0 2 ≠ 0 → exec (.jalr d a i) s =
      .next (takeTrap s { cause := .misalign, detail := 0, addr := 0 }))

/-- R204 and R206: LOOP counts down and branches while the counter stays nonzero; END stops its stream, and the second
END begins the end of the task. -/
def Sys2Proof.Claims.LoopAndEnd : Prop :=
  (∀ a o, encode (.loop a o) = [opWord 0x15 0 ||| put a 21 ||| put o 0]) ∧
  (∀ (st : Stream) (w : InstrWord), (w >>> 26).toNat = 0x15 → w.toNat / 2 ^ 16 % 2 ^ 5 ≠ 0 →
    decode st w = .error .reservedField) ∧
  ∀ (s : State) (t : Task), Issues s t →
    (∀ a o, regVal t s.cur.2 a = 0 → exec (.loop a o) s = .next (goesOn s t)) ∧
    (∀ a o, regVal t s.cur.2 a = 1 → exec (.loop a o) s = .next (goesOn s (setReg t s.cur.2 a 0))) ∧
    (∀ a o, regVal t s.cur.2 a ≠ 0 → regVal t s.cur.2 a ≠ 1 → exec (.loop a o) s =
      .next (goesTo s (setReg t s.cur.2 a (regVal t s.cur.2 a - 1)) (curPc t s.cur.2 + 4 * o.signExtend 64))) ∧
    (∃ u, exec .endStream s = .next (putTask s (curK s) u) ∧ streamOf u s.cur.2 = { streamOf t s.cur.2 with ended := true } ∧
      (∀ st, st ≠ s.cur.2 → streamOf u st = streamOf t st ∧
        u.ending = if (streamOf t st).ended then .draining else t.ending) ∧
      u = { t with sa := u.sa, se := u.se, ending := u.ending })

/-- R202 to R204, R206: the branches, JMP, JAL and JALR, LOOP and END. -/
def Obligations.ControlTransfers : Prop := BranchesGo ∧ JumpsGo ∧ LoopAndEnd

namespace Sys2Proof.Claims

/-- The instruction is held on the queue that field `r` names, and changes nothing. -/
def HeldOn (i : Instr) (s : State) (r : BitVec 5) : Prop :=
  exec i s = .next { s with hold := .queue (BitVec.ofNat 8 (0x10 + r.toNat)) }

/-- Room for a marked D, then S1, then S2: the first that is missing holds a form of three operands. -/
def BinaryWaits (mk : BitVec 5 → BitVec 5 → BitVec 5 → BitVec 3 → Instr) : Prop :=
  ∀ (s : State) (t : Task) (d a b : BitVec 5) (q : BitVec 3), Issues s t →
    (¬ HasRoom t d (q.getLsbD 0) → HeldOn (mk d a b q) s d) ∧
    (HasRoom t d (q.getLsbD 0) → operandOf t s.cur.2 a (q.getLsbD 1) = none → HeldOn (mk d a b q) s a) ∧
    (∀ x u, HasRoom t d (q.getLsbD 0) → operandOf t s.cur.2 a (q.getLsbD 1) = some (x, u) →
      operandOf u s.cur.2 b (q.getLsbD 2) = none → HeldOn (mk d a b q) s b)

/-- The same of a form of two operands. -/
def UnaryWaits (mk : BitVec 5 → BitVec 5 → BitVec 2 → Instr) : Prop :=
  ∀ (s : State) (t : Task) (d a : BitVec 5) (q : BitVec 2), Issues s t →
    (¬ HasRoom t d (q.getLsbD 0) → HeldOn (mk d a q) s d) ∧
    (HasRoom t d (q.getLsbD 0) → operandOf t s.cur.2 a (q.getLsbD 1) = none → HeldOn (mk d a q) s a)

/-- A form that reads its destination register: S1, then S2. -/
def SourcesWait (mk : BitVec 5 → BitVec 5 → BitVec 5 → BitVec 2 → Instr) : Prop :=
  ∀ (s : State) (t : Task) (d a b : BitVec 5) (q : BitVec 2), Issues s t →
    (operandOf t s.cur.2 a (q.getLsbD 0) = none → HeldOn (mk d a b q) s a) ∧
    (∀ x u, operandOf t s.cur.2 a (q.getLsbD 0) = some (x, u) → operandOf u s.cur.2 b (q.getLsbD 1) = none →
      HeldOn (mk d a b q) s b)

/-- An instruction of which one source is marked, which it names by the field given to `mk`. -/
def SourceWaits (mk : BitVec 5 → Instr) : Prop :=
  ∀ (s : State) (t : Task) (r : BitVec 5), Issues s t → (streamOf t s.cur.2).wait = .ready →
    operandOf t s.cur.2 r true = none → HeldOn (mk r) s r

/-- An instruction whose destination is marked. -/
def DestWaits (mk : BitVec 5 → Instr) : Prop :=
  ∀ (s : State) (t : Task) (d : BitVec 5), Issues s t → (streamOf t s.cur.2).wait = .ready → ¬ HasRoom t d true →
    HeldOn (mk d) s d

end Sys2Proof.Claims

/-- R136, R175, R226: an operation whose marked source has no element, or whose marked destination is full, is held and changes
nothing. Every marked form: of registers, integer and floating-point; loads, stores and atomics with a marked offset, value or
destination; capabilities; copy commands; contributions, messages, streams and channel bits. -/
def Sys2Proof.Claims.QueueOperandsWait : Prop :=
  (∀ mk ∈ [Instr.add, .sub, .and, .or, .xor, .shl, .shr, .sar, .mul, .mulh, .mulhu, .div, .divu, .rem, .remu, .min, .max, .minu,
    .maxu, .slt, .sltu, .ext], BinaryWaits mk) ∧
  (∀ f : BitVec 4, ∀ mk ∈ [Instr.fadd, .fsub, .fmul, .fdiv, .fmin, .fmax, .feq, .flt, .fle, .fsgn],
    BinaryWaits (fun d a b q => mk d a b q f)) ∧
  (∀ mk ∈ [Instr.clz, .ctz, .popc], UnaryWaits mk) ∧
  (∀ f u : BitVec 4, UnaryWaits (fun d a q => .fsqrt d a q f) ∧ UnaryWaits (fun d a q => .fcvt d a u q f) ∧
    UnaryWaits (fun d a q => .fclass d a q f)) ∧
  SourcesWait .sel ∧ (∀ f : BitVec 4, SourcesWait (fun d a b q => .fmadd d a b q f)) ∧
  (∀ (a c v : BitVec 5) (n z w : BitVec 1) (k o : BitVec 4) (g l : BitVec 3) (o10 : BitVec 10),
    (∀ mk ∈ ([fun r => .chen r 1, fun r => .chdis r 1, fun r => .chhold r 1, fun r => .chrel r 1, fun r => .chpend r a n 1,
        fun r => .send r a 1, fun r => .sendc r a 1 k, fun r => .sput r 1, fun r => .spawn v r a 1 n, fun r => .asend r 1 w,
        fun r => .avsend r v 1, fun r => .achain c r 1 v g, fun r => .trap { reg := r, mark := 1 },
        fun r => .seqadv c r 1, fun r => .watch v c r 1, fun r => .rvmark c r 1, fun r => .rvmarkClr c r 1, fun r => .spillA r 1,
        fun r => .ldReg v c r 1 n z l, fun r => .ldqReg v c r 1 n z l, fun r => .ldcReg v c r 1 n, fun r => .stReg v c r 1 l,
        fun r => .stcReg v c r 1, fun r => .amo v c r 1 n z o, fun r => .cas v c r 1 z, fun r => .copy v c r 1 k,
        fun r => .pull v c r 1 k, fun r => .gather v c r 1 k, fun r => .pref c r 1 z k, fun r => .flush c r 1 k,
        fun r => .inval c r 1 k, fun r => .kseta v c r 1, fun r => .kadd v c r 1, fun r => .kclip v c r 1,
        fun r => .kclipx v c r 1, fun r => .kmask v c r 1] : List (BitVec 5 → Instr)), SourceWaits mk) ∧
    (∀ mk ∈ ([fun d => .kbase d c 1, fun d => .klen d c 1, fun d => .kperm d c 1, fun d => .ktag d c 1, fun d => .ktype d c 1,
        fun d => .kaddr d c 1, fun d => .kdiff d c v 1, fun d => .kspan d a v 1, fun d => .fillA d 1, fun d => .msgid d 1,
        fun d => .bwait d c 1, fun d => .btest d c 1, fun d => .atest d 1 v, fun d => .amo d c a 0 1 z o,
        fun d => .spawn d a v 0 1] : List (BitVec 5 → Instr)), DestWaits mk) ∧
    (l ≠ 4#3 → DestWaits (fun d => .ldqImm d c n z l o10) ∧ DestWaits (fun d => .ldqReg d c a 0 n z l) ∧
      SourceWaits (fun r => .stqImm r c l o10) ∧ SourceWaits (fun r => .stqReg r c a 0 l)) ∧
    (∀ (s : State) (t : Task), Issues s t → (streamOf t s.cur.2).wait = .ready →
      -- the second marked source of CHPEND, and the offset of STQ, which comes second from the queue of its value
      (∀ x u r, operandOf t s.cur.2 a (n.getLsbD 0) = some (x, u) → operandOf u s.cur.2 r true = none →
        HeldOn (.chpend a r 1 n) s r) ∧
      (∀ r, (l = 4#3 ∨ v ≠ r) → operandOf t s.cur.2 r true = none → HeldOn (.stqReg v c r 1 l) s r) ∧
      (∀ r, l ≠ 4#3 → (∀ x, (portQueue t r.toNat)[1]? ≠ some (some x)) → HeldOn (.stqReg r c r 1 l) s r) ∧
      -- vlq of a vector LDQ, vsq of a vector STQ and of GATHER
      (4 ≤ t.vlq.length → exec (.ldqImm v c n z 4 o10) s = .next { s with hold := .queue 0x16 }) ∧
      ((∀ x, t.vsq.head? ≠ some (some x)) → exec (.stqImm v c 4 o10) s = .next { s with hold := .queue 0x17 } ∧
        exec (.gather v c a 0 k) s = .next { s with hold := .queue 0x17 })))
/-! ### Control registers, queues and flags (R6, R147, R215 to R220 and the register tables) -/

namespace Sys2Proof.Claims

/-- The task at issue may read, or write, the register `r` of number `n` (R147, R217). -/
def MayAccess (s : State) (t : Task) (n : BitVec 12) (r : Reg) (write : Bool) : Prop :=
  Issues s t ∧ (n.toNat < 0x800 ∨ t.sup = true) ∧ regOf n = some r ∧
  (write = true → regWritesA r = true → s.cur.2 = .A) ∧
  (regAdmin r = true → (capVal t 6).tag = true ∧ capSealed (capVal t 6) = false ∧ hasPerm (capVal t 6) permADMIN = true)

/-- CRR of register number `n` reads `v`, of the task as the stream sees it, and leaves the rest as `after` says: an RC
field is cleared, nothing else changes. -/
def CrrGives (n : BitVec 12) (v : State → Task → Word) (after : State → State) : Prop :=
  ∀ (s : State) (t : Task) (r : Reg) (d : BitVec 5), MayAccess s t n r false → s.lateCrws = [] →
    exec (.crr d n) s = .next (goesOn (after s) (setReg t s.cur.2 d (v s (taskView t s.cur.2))))

/-- The row of a clearing read: the value leaves and the RC field is cleared. -/
def ReadRowGives (n : BitVec 12) (row : Instr) (v : State → Word) (after : State → State) : Prop :=
  ∀ s : State, s.access.addr = .control n → s.lateCrws = [] →
    exec row s = .next (emit (after s) (.registerRead (v s)))

/-- A write of a task register whose time of sight R218 leaves open: it is the newest value, the writer sees it from now on, the
other stream sees it or what it saw before; every other register of R218 stands as each stream sees it, and nothing else of
the task has changed. -/
def SeenLate (n : BitVec 12) (get : Task → Word) (st : Stream) (t u : Task) (v : Word) : Prop :=
  get u = v ∧ get (taskView u st) = v ∧
  (get (taskView u (otherStream st)) = v ∨ get (taskView u (otherStream st)) = get (taskView t (otherStream st))) ∧
  (∀ (m : BitVec 12) (x : Stream), isLateReg m = true → m ≠ n →
    taskReg u m = taskReg t m ∧ taskReg (taskView u x) m = taskReg (taskView t x) m) ∧
  u = { t with numflags := u.numflags, fpmode := u.fpmode, trapcause := u.trapcause, trapaddr := u.trapaddr,
               trapmsg := u.trapmsg, wdbudget := u.wdbudget, keysel := u.keysel, late := u.late }

/-- The instruction leaves `v` in such a register, or nothing where the value is refused. -/
def LeavesLate (n : BitVec 12) (get : Task → Word) (s : State) (t : Task) (i : Instr) (refused : Prop) (v : Word) : Prop :=
  (refused → exec i s = .next (goesOn s t)) ∧
  (¬ refused → ∃ u, exec i s = .next (goesOn { s with fresh := s.fresh + 1 } u) ∧ SeenLate n get s.cur.2 t u v)

/-- CRW, CRSET and CRCLR of such a register, whose RW bits are `rw`; CRSET and CRCLR act on the newest value, whichever
stream wrote it, as one step (R216). `refused`: what the register does not take. -/
def LateRegister (n : BitVec 12) (rw : Word) (get : Task → Word) (refused : Task → Word → Prop) : Prop :=
  ∀ (s : State) (t : Task) (r : Reg) (a : BitVec 5), MayAccess s t n r true →
    let x := regVal t s.cur.2 a
    let set := get t ||| (x &&& rw)
    let clear := get t &&& ~~~(x &&& rw)
    LeavesLate n get s t (.crw a n) (refused t x) (x &&& rw) ∧
    LeavesLate n get s t (.crset a n) (refused t set) (set &&& rw) ∧
    LeavesLate n get s t (.crclr a n) (refused t clear) (clear &&& rw)

/-- A write of a register of the context or the core leaves `f`: by CRW in state `s`, and by the register's row. -/
def WriteLeaves (n : BitVec 12) (row : Instr) (c : State → Prop) (f : State → Word → State) : Prop :=
  ∀ s : State, c s →
    (∀ (t : Task) (r : Reg) (a : BitVec 5), MayAccess s t n r true →
      exec (.crw a n) s = .next (goesOn (f s (regVal t s.cur.2 a)) t)) ∧
    (s.access.addr = .control n → exec row s = .next (f s s.access.value))

/-- SLICE after a write: the quantum is written, a 1 clears `expired`, the rest stands (R346). -/
def sliceWritten (old v : Word) : Word :=
  old.extractLsb' 33 31 ++ (if v.getLsbD 32 then 0#1 else old.extractLsb' 32 1) ++ v.extractLsb' 0 32

/-- WCTLn after a write: late anchor and mode are written, satcnt stands (R144). -/
def wctlWritten (old v : Word) : Word := old.extractLsb' 32 32 ++ 0#14 ++ v.extractLsb' 0 18

/-- WDBUDGET.left is replaced only by a smaller value (R353). -/
def notSmaller (t : Task) (v : Word) : Prop := t.wdbudget.toNat ≤ v.toNat % 2 ^ 32

/-- The scratchpad after SPLIT goes to `n`: what changes sides reads zero (R101). -/
def portionCleared (cx : CtxState) (n : Nat) : Mem :=
  clearRange cx.sram (sramBytes - max n cx.split.toNat * 0x40000) (sramBytes - min n cx.split.toNat * 0x40000)

end Sys2Proof.Claims

/-- What CRR reads (R6, R142, R148, R149 and the register tables), RC fields cleared by the read, and nothing else
changed. -/
def Sys2Proof.Claims.ControlRegisterReads : Prop :=
  CrrGives 0x000 (fun _ t => t.numflags.setWidth 64) id ∧ CrrGives 0x001 (fun _ t => t.fpmode.setWidth 64) id ∧
  CrrGives 0x002 (fun _ t => t.trapcause) id ∧ CrrGives 0x003 (fun _ t => t.trapaddr) id ∧
  CrrGives 0x004 (fun _ t => t.trapmsg.setWidth 64) id ∧ CrrGives 0x005 (fun _ t => t.wdbudget.setWidth 64) id ∧
  CrrGives 0x007 (fun s t => (t.ctx ++ t.msgid ++ 0#5 ++ t.chan ++ BitVec.ofBool t.sup ++ t.prio ++ s.cur.1).setWidth 64) id ∧
  CrrGives 0x200 (fun s _ => s.cx.chanbase.setWidth 64) id ∧ CrrGives 0x202 (fun s _ => s.cx.slice) id ∧
  CrrGives 0x203 (fun s _ => s.cx.numsum)
    (fun s => { s with cx := { s.cx with numsum := 0#32 ++ s.cx.numsum.extractLsb' 0 32 } }) ∧
  CrrGives 0x300 (fun s _ => s.cx.split.setWidth 64) id ∧ CrrGives 0x302 (fun s _ => s.cx.spillbase.setWidth 64) id ∧
  CrrGives 0x303 (fun s _ => s.cx.spilllim.setWidth 64) id ∧ CrrGives 0x304 (fun s _ => s.cx.spillovf) id ∧
  CrrGives 0x305 (fun s _ => s.cx.pub.setWidth 64) id ∧ CrrGives 0x400 (fun s _ => s.cx.gangcfg) id ∧
  CrrGives 0x880 (fun s _ => s.regs.ovfcfg) id ∧ CrrGives 0x890 (fun s _ => s.regs.rvcfg) id ∧
  CrrGives 0x892 (fun s _ => s.regs.rvclr.setWidth 64) (fun s => { s with regs := { s.regs with rvclr := 0 } }) ∧
  CrrGives 0x8A0 (fun s _ => s.regs.tblcfg) id ∧ CrrGives 0x8A1 (fun s _ => s.regs.ptwa) id ∧
  CrrGives 0x8A2 (fun _ _ => 0) id ∧ CrrGives 0x8A4 (fun s _ => s.regs.sdtime.setWidth 64) id ∧
  CrrGives 0x900 (fun s _ => s.regs.ctxsave) id ∧ CrrGives 0xA00 (fun _ t => t.keysel.setWidth 64) id ∧
  CrrGives 0xA02 (fun _ _ => 0) id ∧
  CrrGives 0xB00 (fun s _ => s.regs.ecccnt) (fun s => { s with regs := { s.regs with ecccnt := 0 } }) ∧
  CrrGives 0xB01 (fun s _ => s.regs.scrubcfg) id ∧ CrrGives 0xB02 (fun s _ => s.regs.snapstat) id ∧
  (∀ i : Nat, i < 8 → CrrGives (BitVec.ofNat 12 (0x100 + i)) (fun s _ => vget s.cx.tshape i 0) id ∧
    CrrGives (BitVec.ofNat 12 (0xB03 + i)) (fun s _ => vget s.regs.snappc i 0) id) ∧
  (∀ i : Nat, i < 2 → CrrGives (BitVec.ofNat 12 (0x108 + i)) (fun s _ => vget s.cx.wctl i 0)
    (fun s => { s with cx := { s.cx with wctl := vset s.cx.wctl i (0#32 ++ (vget s.cx.wctl i 0).extractLsb' 0 32) } }))

/-- The rows of the clearing reads (R6, R34, R55, R144, R169, R337, R395): OVFSTAT.peak restarts from used. -/
def Sys2Proof.Claims.ClearingReadRows : Prop :=
  ReadRowGives 0x201 .runqstatRead runqstatOf (fun s => { s with regs := { s.regs with runqlost := 0 } }) ∧
  ReadRowGives 0x203 .numsumRead (fun s => s.cx.numsum)
    (fun s => { s with cx := { s.cx with numsum := 0#32 ++ s.cx.numsum.extractLsb' 0 32 } }) ∧
  ReadRowGives 0x881 .ovfstatRead (fun s => s.regs.ovfpeak ++ BitVec.ofNat 32 s.ovf.length)
    (fun s => { s with regs := { s.regs with ovfpeak := BitVec.ofNat 32 s.ovf.length } }) ∧
  ReadRowGives 0x892 .rvclrRead (fun s => s.regs.rvclr.setWidth 64)
    (fun s => { s with regs := { s.regs with rvclr := 0 } }) ∧
  ReadRowGives 0xB00 .ecccntRead (fun s => s.regs.ecccnt) (fun s => { s with regs := { s.regs with ecccnt := 0 } }) ∧
  (∀ i : Nat, i < 2 → ReadRowGives (BitVec.ofNat 12 (0x108 + i)) .wctlRead (fun s => vget s.cx.wctl i 0)
    (fun s => { s with cx := { s.cx with wctl := vset s.cx.wctl i (0#32 ++ (vget s.cx.wctl i 0).extractLsb' 0 32) } }))

/-- R6 and the register tables: what CRR reads, and the rows of the reads that clear. -/
def Obligations.ControlRegisterValues : Prop := ControlRegisterReads ∧ ClearingReadRows

/-- Writes of the registers that a task holds, with CRSET and CRCLR on their RW bits; WDBUDGET.left is replaced only by
a smaller value (R353); the other stream may see a write later (R218). A cause that no row of R349 gives is refused (the model's
choice, log entry 23). -/
def Sys2Proof.Claims.TaskRegisterWrites : Prop :=
  LateRegister 0x000 0x1F (fun t => t.numflags.setWidth 64) (fun _ _ => False) ∧
  LateRegister 0x001 0xF (fun t => t.fpmode.setWidth 64) (fun _ _ => False) ∧
  LateRegister 0x002 0xFFFFFFFF00000FFF (fun t => t.trapcause &&& 0xFFFFFFFF00000FFF)
    (fun _ v => 0x1E < v.toNat % 256) ∧
  LateRegister 0x003 (BitVec.allOnes 64) (fun t => t.trapaddr) (fun _ _ => False) ∧
  LateRegister 0x004 0x3FFFFF (fun t => t.trapmsg.setWidth 64) (fun _ _ => False) ∧
  LateRegister 0xA00 0x3FF (fun t => t.keysel.setWidth 64) (fun _ _ => False) ∧
  LateRegister 0x005 0xFFFFFFFF (fun t => t.wdbudget.setWidth 64) notSmaller ∧
  (∀ (s : State) (t : Task), s.access.addr = .control 0x005 → taskIn s s.access.slot.toNat = some t →
    (notSmaller t s.access.value → exec .wdbudgetWrite s = .next s) ∧
    (¬ notSmaller t s.access.value → ∃ u,
      exec .wdbudgetWrite s = .next { putTask s s.access.slot.toNat u with fresh := s.fresh + 1 } ∧
      SeenLate 0x005 (fun t => t.wdbudget.setWidth 64) s.cur.2 t u (s.access.value &&& 0xFFFFFFFF)))

/-- Writes of the context's registers: SLICE (R346), NUMSUM (R170), SPILLBASE, SPILLLIM (R114), SPILLOVF (R35),
VGROUP (R105), SPLIT (R101) and, while no matrix command is queued, TSHAPEn (R142) and WCTLn (R144). A refused value
leaves the register as it was. A change of VGROUP or SPLIT discards the victim ways, or every line, and is told to the pool
(R105, R106). The model's choices: a change of VGROUP ends the pool at once (log entry 149); an empty carve-out counts as a range at
offset 0 up to SPILLLIM for SPLIT (log entry 132); the depth of suspended tasks does not hold SPILLBASE and SPILLLIM (log
entry 134). -/
def Sys2Proof.Claims.ContextRegisterWrites : Prop :=
  WriteLeaves 0x202 .sliceWrite (fun _ => True) (fun s v => { s with cx := { s.cx with slice := sliceWritten s.cx.slice v } }) ∧
  WriteLeaves 0x203 .numsumWrite (fun _ => True) (fun s v =>
    { s with cx := { s.cx with numsum := s.cx.numsum &&& ~~~((v.extractLsb' 0 5).setWidth 64) } }) ∧
  WriteLeaves 0x302 .spillBoundsWrite (fun _ => True) (fun s v =>
    if anyDepth s = true ∨ s.cx.spilllim.toNat < v.toNat % 2 ^ 14 ∨ scratchEnd s.cx < s.cx.spilllim.toNat * 256 then s
    else { s with cx := { s.cx with spillbase := v.extractLsb' 0 14 } }) ∧
  WriteLeaves 0x303 .spillBoundsWrite (fun _ => True) (fun s v =>
    if anyDepth s = true ∨ v.toNat % 2 ^ 15 < s.cx.spillbase.toNat ∨ scratchEnd s.cx < v.toNat % 2 ^ 15 * 256 then s
    else { s with cx := { s.cx with spilllim := v.extractLsb' 0 15 } }) ∧
  WriteLeaves 0x304 .spillovfWrite (fun _ => True) (fun s v =>
    if 2 ^ 43 < (v.extractLsb' 16 27).toNat * 65536 + 4 * (v.extractLsb' 0 16).toNat * 65536 then s
    else { s with cx := { s.cx with spillovf := v &&& 0x7FFFFFFFFFF } }) ∧
  WriteLeaves 0x301 .vgroupWrite (fun _ => True) (fun s v =>
    if 4 < v.toNat % 8 ∨ 8 < (v.extractLsb' 3 4).toNat ∨ v.extractLsb' 0 7 = s.cx.vgroup then s
    else
      let s1 := { s with cx := { s.cx with vgroup := v.extractLsb' 0 7 }, poolPeers := false,
                         lines := s.lines.filter (fun l => !l.victim) }
      emit s1 (.poolState (v.extractLsb' 0 7) s.cx.num (decide (s.cx.split ≠ 0)))) ∧
  WriteLeaves 0x300 .splitWrite (fun s => s.sb = [] ∧ s.copies = [] ∧
      (∀ c ∈ s.cx.chains.toList, c.armed = false) ∧ (∀ k, k < 4 → k ≠ curK s → slotFree s k = true) ∧
      s.access.slot = s.cur.1) (fun s v =>
    if 12 < v.toNat % 16 ∨ v.toNat % 16 = s.cx.split.toNat ∨
      (∃ r ∈ placedRanges s.cx, r.2 ≠ 0 ∧ sramBytes - v.toNat % 16 * 0x40000 < r.1 + r.2) then s
    else
      let a := sramBytes - max (v.toNat % 16) s.cx.split.toNat * 0x40000
      let b := sramBytes - min (v.toNat % 16) s.cx.split.toNat * 0x40000
      let cx1 : CtxState :=
        { s.cx with split := v.extractLsb' 0 4, sram := portionCleared s.cx (v.toNat % 16),
                    sramErr := s.cx.sramErr.filter (fun p => decide (p.1 * 8 < a ∨ b ≤ p.1 * 8)) }
      let s1 := { s with cx := cx1, lines := [] }
      emit s1 (.poolState s.cx.vgroup s.cx.num (decide (v.extractLsb' 0 4 ≠ 0#4)))) ∧
  (∀ i : Nat, i < 8 → WriteLeaves (BitVec.ofNat 12 (0x100 + i)) .tshapeWrite (fun s => s.mxQueue = [] ∧ s.lateCrws = [])
    (fun s v => match tshapeValue v with
      | some w => { s with cx := { s.cx with tshape := vset s.cx.tshape i w }, fresh := s.fresh + 1 }
      | none => s)) ∧
  (∀ i : Nat, i < 2 → WriteLeaves (BitVec.ofNat 12 (0x108 + i)) .wctlWrite (fun s => s.mxQueue = [] ∧ s.lateCrws = [])
    (fun s v => if v.extractLsb' 16 2 = 3#2 then s else
      { s with cx := { s.cx with wctl := vset s.cx.wctl i (wctlWritten (vget s.cx.wctl i 0) v) }, fresh := s.fresh + 1 }))

/-- Writes of the core's registers: OVFCFG (R34), RVCFG (R55), TBLCFG (R69), PTWS (R70), CTXSAVE (R344), CPSTAT (R127),
GANGCFG (R275), SCRUBCFG (R395), SNAPSTAT (R396), SDTIME (R72), PTWA (R70). A refused value leaves the register. -/
def Sys2Proof.Claims.CoreRegisterWrites : Prop :=
  WriteLeaves 0x880 .ovfcfgWrite (fun _ => True) (fun s v =>
    if s.ovf ≠ [] ∨ frameCount < v.toNat % 2 ^ 14 + (v.extractLsb' 16 14).toNat ∨
      overlaps (v.toNat % 2 ^ 14) (v.extractLsb' 16 14).toNat (tblFirst s) (tblCount s) = true ∨
      (∃ d ∈ dataFramesOf s (leafTables s), v.toNat % 2 ^ 14 ≤ d ∧ d < v.toNat % 2 ^ 14 + (v.extractLsb' 16 14).toNat) then s
    else { s with regs := { s.regs with ovfcfg := v &&& 0x3FFF3FFF } }) ∧
  WriteLeaves 0x890 .rvcfgWrite (fun _ => True) (fun s v =>
    if s.sweep = .scan ∨ s.sweep = .wait ∨ s.sweep = .reported ∨ 2 ^ 43 < (v.extractLsb' 16 27).toNat * 65536 + 0x400010000 then s
    else { s with regs := { s.regs with rvcfg := v &&& 0x7FFFFFF0001 } }) ∧
  WriteLeaves 0x8A0 .tblcfgWrite (fun _ => True) (fun s v =>
    if s.tableOp ≠ none ∨ frameCount < v.toNat % 2 ^ 14 + (v.extractLsb' 16 14).toNat ∨
      overlaps (v.toNat % 2 ^ 14) (v.extractLsb' 16 14).toNat (ovfFirst s) (ovfFrames s) = true then s
    else { s with regs := { s.regs with tblcfg := v &&& 0x3FFF3FFF } }) ∧
  WriteLeaves 0x8A3 .ptwsWrite (fun _ => True) (fun s v =>
    if v.getLsbD 4 then { s with regs := { s.regs with ptwlost := false } } else s) ∧
  WriteLeaves 0x900 .ctxsaveWrite (fun _ => True) (fun s v =>
    let f := v.toNat % 2 ^ 14
    let n := 80 * ((v.extractLsb' 16 2).toNat + 1)
    if (∃ c ∈ s.others, c.residency = .out) ∨ f < tblFirst s ∨ tblFirst s + tblCount s < f + n ∨
      (∃ d ∈ tblFirst s :: (tableFrames s ++ keptFrames s), f ≤ d ∧ d < f + n) then s
    else { s with regs := { s.regs with ctxsave := v &&& 0x33FFF } }) ∧
  WriteLeaves 0x307 .cpstatWrite (fun _ => True) (fun s v =>
    if v.getLsbD 33 then { s with regs := { s.regs with cpfault := false } } else s) ∧
  WriteLeaves 0x400 .gangcfgWrite (fun s => gangWaiting s = false) (fun s v =>
    let g := v.toNat % 16 + 1
    let base := (v.extractLsb' 8 10).toNat
    if v.extractLsb' 32 32 = 0#32 ∨ 1024 < base + g * g ∨ base / 512 ≠ (base + g * g - 1) / 512 ∨
      s.core.toNat < base ∨ base + g * g ≤ s.core.toNat then s
    else { s with cx := { s.cx with gangcfg := v &&& 0xFFFFFFFF0003FF0F } }) ∧
  WriteLeaves 0xB01 .scrubcfgWrite (fun _ => True) (fun s v =>
    if v.extractLsb' 0 16 = 0#16 then s else { s with regs := { s.regs with scrubcfg := v &&& 0xFFFF } }) ∧
  WriteLeaves 0xB02 .snapstatWrite (fun _ => True) (fun s v =>
    if v.getLsbD 0 then { s with regs := { s.regs with snapstat := s.regs.snapstat &&& ~~~1 } } else s) ∧
  WriteLeaves 0x8A4 .registerWrite (fun _ => True) (fun s v =>
    { s with regs := { s.regs with sdtime := v.extractLsb' 0 32 } }) ∧
  WriteLeaves 0x8A1 .registerWrite (fun _ => True) (fun s v =>
    { s with regs := { s.regs with ptwa := v &&& 0xC00007FFFFFF7FFF } }) ∧
  WriteLeaves 0x200 .registerWrite (fun _ => True) (fun s _ => s)

/-- R6, R147, R217, R218 and the register tables: what a write of each register leaves. That VGROUP empties the ways that it takes,
that an empty carve-out refuses SPLIT, that the depths of suspended tasks hold neither SPILLBASE nor SPILLLIM, and that a cause
which the table does not list leaves TRAPCAUSE as it is are the model's choices (log entries 149, 132, 134, 23). -/
def Obligations.ControlRegisterWrites : Prop := TaskRegisterWrites ∧ ContextRegisterWrites ∧ CoreRegisterWrites

/-- R147, R217: the checks of CRR and CRW in their order, each with the trap that it takes. -/
def Obligations.ControlRegisterChecks : Prop :=
  ∀ (s : State) (t : Task) (d : BitVec 5) (n : BitVec 12), Issues s t →
    let both := fun (i : TrapInfo) => exec (.crr d n) s = .next (takeTrap s i) ∧ exec (.crw d n) s = .next (takeTrap s i)
    (0x800 ≤ n.toNat → t.sup = false → both { cause := .priv, detail := 0, addr := 0 }) ∧
    ((n.toNat < 0x800 ∨ t.sup = true) → regOf n = none → both { cause := .illegalOp, detail := 7, addr := 0 }) ∧
    (∀ r, (n.toNat < 0x800 ∨ t.sup = true) → regOf n = some r → regWritesA r = true → s.cur.2 = .E →
      exec (.crw d n) s = .next (takeTrap s { cause := .streamMismatch, detail := 3, addr := 0 })) ∧
    (∀ r, t.sup = true → regOf n = some r → regAdmin r = true → s.cur.2 = .A →
      ((capVal t 6).tag = false → both { cause := .capTag, detail := 0, addr := 0 }) ∧
      ((capVal t 6).tag = true → capSealed (capVal t 6) = true → both { cause := .capSealed, detail := 0, addr := 0 }) ∧
      ((capVal t 6).tag = true → capSealed (capVal t 6) = false → hasPerm (capVal t 6) permADMIN = false →
        both { cause := .capPerm, detail := 0, addr := 0 }))

/-- R219 and R220: QTEST counts the entries that a queue holds or has reserved, and QSTAT in the same way (R148); SFSET, SFCLR, SFTEST and SFWAIT act on
one flag, and SFWAIT is held until its flag is set. -/
def Sys2Proof.Claims.QueueTestsAndFlags : Prop :=
  ∀ (s : State) (t : Task), Issues s t →
    (∀ (d : BitVec 5) (q : BitVec 3), exec (.qtest d q) s = .next (goesOn s (setReg t s.cur.2 d (BitVec.ofNat 64
      (if q.toNat < 4 then (t.lq.toList.getD q.toNat []).length else if q.toNat < 6 then
        (t.sq.toList.getD (q.toNat - 4) []).length else if q.toNat = 6 then t.vlq.length else t.vsq.length))))) ∧
    (∀ f : BitVec 4, ∃ u : BitVec 16, exec (.sfset f) s = .next (goesOn s { t with sf := u }) ∧
      ∀ i, i < 16 → u.getLsbD i = (decide (i = f.toNat) || t.sf.getLsbD i)) ∧
    (∀ f : BitVec 4, ∃ u : BitVec 16, exec (.sfclr f) s = .next (goesOn s { t with sf := u }) ∧
      ∀ i, i < 16 → u.getLsbD i = (!decide (i = f.toNat) && t.sf.getLsbD i)) ∧
    (∀ f : BitVec 4, t.sf.getLsbD f.toNat = true → exec (.sfwait f) s = .next (goesOn s t)) ∧
    (∀ f : BitVec 4, t.sf.getLsbD f.toNat = false →
      exec (.sfwait f) s = .next { s with hold := .queue (BitVec.ofNat 8 (0x20 + f.toNat)) }) ∧
    (∀ (d : BitVec 5) (f : BitVec 4), exec (.sftest d f) s =
      .next (goesOn s (setReg t s.cur.2 d (if t.sf.getLsbD f.toNat then 1 else 0)))) ∧
    (∀ d : BitVec 5, ∃ w : Word, exec (.crr d 0x006) s = .next (goesOn s (setReg t s.cur.2 d w)) ∧
      (∀ i, i < 4 → (w.extractLsb' (4 * i) 4).toNat = (t.lq.toList.getD i []).length % 16) ∧
      (∀ i, i < 2 → (w.extractLsb' (16 + 4 * i) 4).toNat = (t.sq.toList.getD i []).length % 16) ∧
      (w.extractLsb' 24 3).toNat = t.vlq.length % 8 ∧ (w.extractLsb' 27 3).toNat = t.vsq.length % 8 ∧
      w.extractLsb' 30 2 = 0 ∧ w.extractLsb' 32 16 = t.sf ∧ w.extractLsb' 48 16 = 0)

/-- R136, R148, R219, R220: marked operands wait; QTEST and QSTAT count; the stream flags. -/
def Obligations.QueuesAndFlags : Prop := QueueOperandsWait ∧ QueueTestsAndFlags

/-! ### Fences, sequence words, watches and system instructions (R84 to R94, R319 to R325) -/

namespace Sys2Proof.Claims

/-- Lines of the owners that lie in a scope are dropped, and the members of an active pool are told (R84, R92). -/
def cleaned (s : State) (scope : Nat) : State :=
  let s1 := { s with lines := s.lines.filter (fun l => !inScope s scope l.owner) }
  if poolActive s then emit s1 (.poolClean none 0 scope) else s1

/-- PUB goes up by one (R85). -/
def published (s : State) : State := { s with cx := { s.cx with pub := s.cx.pub + 1 } }

/-- ACQ within a scope while the observation table has not overflowed: each observed pair in scope drops the older lines of
its owner, here and in an active pool, and raises the horizon (R84, R86, R92). -/
def acquired (s : State) (t : Task) (scope : Nat) : State × Task :=
  let ps := t.obs.filter (fun p => inScope s scope p.1)
  ({ s with
      lines := s.lines.filter (fun l => !(ps.any (fun p => decide (l.owner = p.1) && pubOlder l.stamp p.2)))
      outbox := s.outbox ++ (if poolActive s then ps.map (fun p => .poolClean (some p.1) p.2 0) else []) },
   { t with horizons := ps.foldl (fun h p => raisePair h p.1 p.2) t.horizons })

/-- The store-buffer entry of a task (R76), with X of its records (R85). -/
def entryOf (t : Task) (va : Word) (l : Option Loc) (k : SbKind) : SbEntry :=
  { ctx := t.ctx, tid := t.tid, va := va, loc := l, kind := k, x := t.obsOver || !t.obs.isEmpty }

/-- What SEQADV asks of its capability (R319): ST and SEQ over the doubleword. -/
def seqAccess (x : Cap) : Access44 :=
  { cap := x, va := capAddr x, len := 8, perms := [permST, permSEQ], align := 8, store := true }

/-- What WATCH and UNWATCH ask of theirs (R320). -/
def watchAccess (x : Cap) : Access44 :=
  { cap := x, va := capAddr x, len := 8, perms := [permWATCH], align := 8, store := false }

/-- An UNWATCH names this entry: requester, context, word and channel agree (R320). -/
def watched (q : WatchReq) (w : Watch) : Bool :=
  decide (w.spkg = q.spkg ∧ w.score = q.score ∧ w.ctx = q.ctx ∧ w.va = capAddr q.cap ∧ w.chan = q.chan)

/-- The packet of a WATCH or UNWATCH: who asks, the capability, the threshold and the reply channel (R320). -/
def requestOf (s : State) (t : Task) (x : Cap) (threshold ch : Word) : WatchReq :=
  { spkg := s.pkg, score := s.core, ctx := t.ctx, cap := x, threshold := threshold, chan := ch.extractLsb' 0 6 }

/-- A message of this core to itself comes back as an arrival, under the number of its pair (R309, R364). -/
def arrives (s : State) (m : Message) : Event :=
  { row := .messageArrival m,
    access := { Access.none with packet := some { pkg := s.pkg, core := s.core, seq := pairNo s.packetSent (s.pkg, s.core) } } }

/-- A task in slot `k` of state `s` reaches `u`, by an event. -/
def slotHolds (s : State) (k : BitVec 2) (t : Task) : Prop := taskIn s k.toNat = some t

end Sys2Proof.Claims

/-- R86, R92, R94: FENCE with each ordering, and FENCEL. A release waits until the store buffer is empty; an overflowed
ACQ and an SC leave no horizon of an owner in scope older than its current PUB. -/
def Obligations.FencesActInScope : Prop :=
  ∀ (s : State) (t : Task) (z : BitVec 3), Issues s t →
    (t.obsOver = false →
      exec (.fence z 0) s = .next (goesOn (acquired s t z.toNat).1 (acquired s t z.toNat).2)) ∧
    (t.obsOver = true → exec (.fence z 0) s =
      .next (goesOn { cleaned (acquired s t z.toNat).1 z.toNat with fresh := s.fresh + 1 }
        (raiseAll s z.toNat (acquired s t z.toNat).2))) ∧
    (∀ (u : Task) (o : Owner), inScope s z.toNat o = true →
      pubOlder (horizonOf s (raiseAll s z.toNat u) o) (Config.foreignPub s.fresh o) = false) ∧
    (z = 0 → exec (.fence z 1) s = .next (goesOn s t)) ∧
    (z ≠ 0 → s.sb = [] → exec (.fence z 1) s = .next (goesOn (published s) t)) ∧
    (z ≠ 0 → s.sb ≠ [] → exec (.fence z 1) s = .next { s with hold := .other }) ∧
    (z ≠ 0 → s.sb = [] → t.obsOver = false →
      exec (.fence z 2) s = .next (goesOn (published (acquired s t z.toNat).1) (acquired s t z.toNat).2)) ∧
    (s.sb = [] → exec (.fence z 3) s = .next (goesOn { cleaned (published s) z.toNat with fresh := s.fresh + 1 }
      (raiseAll s z.toNat t))) ∧
    (s.sb ≠ [] → exec (.fence z 3) s = .next { s with hold := .other }) ∧
    exec .fencel s = .next (goesOn s t)

/-- R94, R322: FENCEH, of either stream, asks the named core after its own fence, is answered there with a release, and acquires the
record. It is refused to a task that is no supervisor task, for an operand out of range, and for a core that the context does
not have; it waits until the store buffer is empty. -/
def Obligations.FencehAsksAndAcquires : Prop :=
  (∀ (s : State) (t : Task) (a : BitVec 5), Issues s t → t.sup = true → (streamOf t s.cur.2).wait = .ready →
    (regVal t s.cur.2 a).toNat < 2 ^ 19 →
    ((regVal t s.cur.2 a).extractLsb' 10 9, (regVal t s.cur.2 a).extractLsb' 0 10) ∈ s.cx.cores → s.sb = [] →
    let core : BitVec 10 := (regVal t s.cur.2 a).extractLsb' 0 10
    let pkg : BitVec 9 := (regVal t s.cur.2 a).extractLsb' 10 9
    let u := setWait (raiseAll s 7 t) s.cur.2 (.fenceh s.nextId pkg none)
    let s1 := putTask { cleaned (published s) 7 with fresh := s.fresh + 1, nextId := s.nextId + 1 } (curK s) u
    let q : FencehReq := { id := s.nextId, spkg := s.pkg, score := s.core, ctx := t.ctx }
    exec (.fenceh a) s = .next (if pkg = s.pkg ∧ core = s.core then queueEvent s1 (.fencehRequest q)
      else emit s1 (.fenceh q pkg core))) ∧
  (∀ (s : State) (t : Task) (a : BitVec 5), Issues s t → (streamOf t s.cur.2).wait = .ready →
    let x := regVal t s.cur.2 a
    let known := (x.extractLsb' 10 9, x.extractLsb' 0 10) ∈ s.cx.cores
    (t.sup = false → exec (.fenceh a) s = .next (takeTrap s { cause := .priv, detail := 0, addr := 0 })) ∧
    (t.sup = true → 2 ^ 19 ≤ x.toNat → exec (.fenceh a) s = .next (takeTrap s { cause := .illegalOp, detail := 9, addr := 0 })) ∧
    (t.sup = true → x.toNat < 2 ^ 19 → ¬ known → exec (.fenceh a) s =
      .next (takeTrap s { cause := .endpoint, detail := 0, addr := 0 })) ∧
    (t.sup = true → x.toNat < 2 ^ 19 → known → s.sb ≠ [] → exec (.fenceh a) s = .next { s with hold := .other })) ∧
  (∀ (s : State) (t : Task) (a : BitVec 5) (id : Nat) (pkg : BitVec 9) (r : Record), Issues s t →
    (streamOf t s.cur.2).wait = .fenceh id pkg (some r) →
    let p := acquire s (setWait t s.cur.2 .ready) r
    exec (.fenceh a) s = .next (goesOn p.1 p.2)) ∧
  (∀ (s : State) (q : FencehReq), fencedOff s q.spkg = false → s.cx.num = q.ctx → s.sb = [] →
    ∃ x, exec (.fencehRequest q) s = .next (answerFenceh { published s with fresh := s.fresh + 1 } q
      { owner := { pkg := s.pkg, core := s.core, host := false }, pub := s.cx.pub + 1, x := x })) ∧
  (∀ (s : State) (id : Nat) (r : Record) (k : BitVec 2) (t : Task), id < s.nextId → slotHolds s k t →
    ∃ s' u, exec (.fencehResponse id r) s = .next s' ∧ slotHolds s' k u ∧
      (∀ (st : Stream) (pkg : BitVec 9), (streamOf t st).wait = .fenceh id pkg none →
        streamOf u st = { streamOf t st with wait := .fenceh id pkg (some r) }) ∧
      (∀ st : Stream, (∀ pkg, (streamOf t st).wait ≠ .fenceh id pkg none) → streamOf u st = streamOf t st) ∧
      u = { t with sa := u.sa, se := u.se } ∧ s' = { s with slots := s'.slots, cx := s'.cx, others := s'.others })

/-- R319: SEQADV puts a larger or equal value of an own sequence word into the store buffer, and traps SEQ_REGRESS on
a smaller one; WATCH and UNWATCH send a packet to the port of the word's owner (R320). -/
def Sys2Proof.Claims.SequenceWordsAndWatches : Prop :=
  (∀ (s : State) (t u : Task) (c b : BitVec 5) (m : BitVec 1) (y : Word) (l l' : Loc), Issues s t →
    operandOf t s.cur.2 b (m.getLsbD 0) = some (y, u) →
    let x := capVal t c.toNat
    let va := capAddr x
    vaSpace va ≠ 2 → accessCheck s t.ctx (seqAccess x) none = none →
    StoreGoes s t va 8 l false → LoadGoes s t va 8 l' →
    (leNat (loaded s t va l' 8) ≤ y.toNat → exec (.seqadv c b m) s = .next (goesOn (buffered (afterLoad s t va l' 8)
      (entryOf t va (some l) (.seq y))) u)) ∧
    (y.toNat < leNat (loaded s t va l' 8) → exec (.seqadv c b m) s =
      .next (takeTrap s { cause := .seqRegress, detail := 0, addr := va }))) ∧
  (∀ (s : State) (t u : Task) (d c b : BitVec 5) (m : BitVec 1) (y : Word), Issues s t →
    operandOf t s.cur.2 b (m.getLsbD 0) = some (y, u) → (regVal u s.cur.2 d).toNat < 64 →
    let x := capVal t c.toNat
    vaSpace (capAddr x) < 2 → accessCheck s t.ctx (watchAccess x) none = none →
    exec (.watch d c b m) s = .next (goesOn (toPort s (requestOf s t x y (regVal u s.cur.2 d)) false) u)) ∧
  (∀ (s : State) (t : Task) (d c : BitVec 5), Issues s t → (regVal t s.cur.2 d).toNat < 64 →
    let x := capVal t c.toNat
    vaSpace (capAddr x) < 2 → accessCheck s t.ctx (watchAccess x) none = none →
    exec (.unwatch d c) s = .next (goesOn (toPort s (requestOf s t x 0 (regVal t s.cur.2 d)) true) t))

/-- R45, R65, R73, R89, R90, R320: the port of the owner repeats the checks in their order, waits for a page that is moved or a
line that is filled, answers a WATCH at once, registers it, or refuses it, and UNWATCH removes the entries that match. The
value field of a REFUSED reply is 0, which is the model's choice (log entry 130). -/
def Sys2Proof.Claims.WatchPortAnswers : Prop :=
  ∀ (s : State) (q : WatchReq), isOwn s (capAddr q.cap) = true →
    let va := capAddr q.cap
    let w := watchOf q
    let r : Record := { owner := { pkg := s.pkg, core := s.core, host := false }, pub := pubOf s q.ctx, x := true }
    let refuses := fun (e : BitVec 8) =>
      exec (.watchRequest q) s = .next (watchReply s w 0 3 e.toNat none) ∧ exec (.unwatchRequest q) s = .next s
    (fencedOff s q.spkg = true → refuses 0x0B) ∧
    (fencedOff s q.spkg = false →
      (q.cap.tag = false → refuses 0x04) ∧
      (q.cap.tag = true → capSealed q.cap = true → refuses 0x05) ∧
      (q.cap.tag = true → capSealed q.cap = false → hasPerm q.cap permWATCH = false → refuses 0x06) ∧
      (q.cap.tag = true → capSealed q.cap = false → hasPerm q.cap permWATCH = true →
        (inBounds q.cap va.toNat 8 = false → refuses 0x07) ∧
        (inBounds q.cap va.toNat 8 = true → vaSpace va = 1 →
          (findCtx s q.ctx = none → refuses 0x0B) ∧
          (∀ c, findCtx s q.ctx = some c → scratchEnd c < vaOff va + 8 → refuses 0x0B) ∧
          (∀ c, findCtx s q.ctx = some c → vaOff va + 8 ≤ scratchEnd c → c.residency = .absent → refuses 0x0A)))) ∧
    (watchRefusal s q = none →
      let holds := moveHolds s q.ctx va || filling s q.ctx va 8
      (holds = true → exec (.watchRequest q) s = .next { s with hold := .other } ∧
        exec (.unwatchRequest q) s = .next { s with hold := .other }) ∧
      (∀ key, holds = false → fatalRange s q.ctx va 8 = some key → exec (.watchRequest q) s = .next (endContext s q.ctx key) ∧
        exec (.unwatchRequest q) s = .next (endContext s q.ctx key)) ∧
      (holds = false → fatalRange s q.ctx va 8 = none →
        let s1 := noteErrors s (portCtx s q.ctx) (watchOwn s q) va 8
        (∀ e, portWord s q = .error e → exec (.watchRequest q) s = .next (watchReply s1 w 0 3 e.toNat none) ∧
          exec (.unwatchRequest q) s = .next s1) ∧
        (∀ v, portWord s q = .ok v →
          (q.threshold.toNat ≤ v.toNat → exec (.watchRequest q) s = .next (watchReply s1 w v 1 0 (some r))) ∧
          (v.toNat < q.threshold.toNat → s.watches.length < 64 →
            exec (.watchRequest q) s = .next { s1 with watches := s.watches ++ [w] }) ∧
          (v.toNat < q.threshold.toNat → 64 ≤ s.watches.length →
            exec (.watchRequest q) s = .next (watchReply s1 w v 2 0 (some r))) ∧
          exec (.unwatchRequest q) s = .next { s1 with watches := s.watches.filter (fun w => !watched q w) })))

/-- R89, R90, R319, R320: SEQADV, WATCH and UNWATCH at issue, and the watch port of the owner. That a reply
REFUSED carries the value 0 is the model's choice (log entry 130). -/
def Obligations.SequenceAndWatch : Prop := SequenceWordsAndWatches ∧ WatchPortAnswers

/-- R323, R350: TRAP is an abort of its task. Commands and stores already under way stand, result elements of the task
go, its flags are counted in NUMSUM, and its registers go with it; a task started by SPAWN frees its slot and its report
carries its PC and the low half of the operand. -/
def Obligations.TrapAbortsTask : Prop :=
  ∀ (s : State) (t u : Task) (a : BitVec 5) (m : BitVec 1) (x : Word), Issues s t → t.names = none →
    operandOf t s.cur.2 a (m.getLsbD 0) = some (x, u) →
    ∃ s', exec (.trap ⟨a, m⟩) s = .next s' ∧
      s'.sb = s.sb.map (fun e => if e.tid = t.tid then { e with x := t.obsOver || !t.obs.isEmpty } else e) ∧
      s'.copies = s.copies ∧ s'.mxQueue = s.mxQueue ∧
      s'.home = { s.home with errors := s'.home.errors } ∧ (s.home.errors = [] → s'.home = s.home) ∧
      s'.cx.results = s.cx.results.filter (fun r => decide (r.tid ≠ t.tid)) ∧
      s'.cx.numsum = s.cx.numsum ||| t.numflags.setWidth 64 ∧
      (t.spawned = true → s.cx.runq = [] → s.sweep = .idle → slotAt s' (curK s) = .free) ∧
      (∀ n, t.spawned = true → s.cx.runq = [] → s.sweep = .idle → t.staged = [] → t.port = none → t.drainRow = none →
        t.sa.wait = .ready → t.se.wait = .ready →
        supChannel s.cx = some n → s'.inputs = s.inputs ++ [arrives s (coreMessage s s.cx n kindFault
          (reportPayload 0x19 (if t.drop then 2 else 1) (whoByte s.cur.2 (curK s) false true) t.chan.toNat t.msgid.toNat
            (x.extractLsb' 0 32) (curPc t s.cur.2) 0 []) none)])

namespace Sys2Proof.Claims

/-- What BRK leaves in its task (R324, R352): the trap registers, the next instruction, and all else that it holds. -/
def StandsAtBreak (st : Stream) (t u : Task) : Prop :=
  u.trapaddr = curPc t st ∧ u.trapcause.extractLsb' 0 8 = 0x1A#8 ∧ u.trapcause.extractLsb' 8 2 = 0#2 ∧
  u.trapcause.getLsbD 10 = decide (st = .E) ∧ u.trapcause.extractLsb' 11 53 = 0#53 ∧
  u.trapmsg = t.chan ++ t.msgid ∧ (streamOf u st).pc = curPc t st + 4 ∧ u.tid = t.tid ∧
  u.a = t.a ∧ u.c = t.c ∧ u.e = t.e ∧ u.v = t.v ∧ u.m = t.m ∧ u.sq = t.sq ∧ u.sf = t.sf ∧ u.numflags = t.numflags

/-- The report of BRK, which the supervisor channel `n` of the core receives (R324, R354). -/
def breakReport (s : State) (t : Task) (n : Nat) : Event :=
  arrives s (coreMessage s s.cx n kindFault (reportPayload 0x1A 0
    (whoByte s.cur.2 (curK s) false true) t.chan.toNat t.msgid.toNat 0 (curPc t s.cur.2) 0 []) none)

end Sys2Proof.Claims

/-- R324, R338, R352, R357: BRK suspends its task at the next instruction with the trap registers written and a FAULT report
sent: into the suspend store, its slot freed, or HELD in its slot where the store is full. ERET in the supervisor task that the
report activated wakes it: a HELD task runs in its slot, one in the store by a resumption, which a free slot takes at once. Each
waits for nothing. -/
def Sys2Proof.Claims.BreakAndReturn : Prop :=
  (∀ (s : State) (t : Task) (n : Nat), Issues s t → (streamOf t s.cur.2).wait = .ready → supChannel s.cx = some n →
    (s.cx.suspCap ≤ s.cx.susp.length →
      ∃ s' u, exec .brk s = .next s' ∧ slotAt s' (curK s) = .held u (.brk s.cur.1) ∧ StandsAtBreak s.cur.2 t u ∧
        s'.cx = { s.cx with msgCounter := s.cx.msgCounter + 1 } ∧ s'.home = s.home ∧ s'.sb = s.sb ∧
        s'.inputs = s.inputs ++ [breakReport s t n]) ∧
    (s.cx.susp.length < s.cx.suspCap → s.cx.runq = [] → memoriesWf s = true →
      let place := s.cx.chanbase.toNat + 12288 + 16384 * s.cx.susp.length
      ∃ s' u, exec .brk s = .next s' ∧ slotAt s' (curK s) = .free ∧ StandsAtBreak s.cur.2 t u ∧
        s'.cx = { s.cx with msgCounter := s.cx.msgCounter + 1, susp := s.cx.susp ++ [(u, .brk s.cur.1)],
                            sram := s'.cx.sram, sramErr := s'.cx.sramErr } ∧
        (∀ a, a < place ∨ place + 16384 ≤ a → memByte s'.cx.sram a = memByte s.cx.sram a) ∧
        s'.home = s.home ∧ s'.sb = s.sb ∧ s'.inputs = s.inputs ++ [breakReport s t n])) ∧
  (∀ (s : State) (t b : Task) (k : Nat) (j : BitVec 2), Issues s t → t.sup = true → t.names = some b.tid → k < 4 → k ≠ curK s →
    slotAt s k = .held b (.brk j) → (∀ p ∈ s.cx.susp, p.1.tid ≠ b.tid) →
    (∀ i u o, i < 4 → slotAt s i = .held u o → u.tid = b.tid → i = k) → s.cx.runq = [] →
    exec .eret s = .next (goesOn (setSlot s k (.running b)) { t with names := none })) ∧
  (∀ (s : State) (t b : Task) (j : BitVec 2) (ps qs : List (Task × SuspendOn)), Issues s t → t.sup = true →
    t.names = some b.tid → s.cx.susp = ps ++ (b, .brk j) :: qs → (∀ p ∈ ps ++ qs, p.1.tid ≠ b.tid) →
    (∀ i u o, i < 4 → slotAt s i = .held u o → u.tid ≠ b.tid) →
    ((∀ i, i < 4 → slotFree s i = false) → s.cx.runq.length < 32 → exec .eret s = .next (goesOn
      { s with cx := { s.cx with susp := ps ++ (b, .woken) :: qs, runq := s.cx.runq ++ [.resume b.tid 0] } }
      { t with names := none })) ∧
    (∀ k, k < 4 → (∀ i, i < k → slotFree s i = false) → slotFree s k = true → s.cx.runq = [] → s.switchReq = false →
      exec .eret s = .next (goesOn (setSlot { s with cx := { s.cx with susp := ps ++ qs } } k (.running b))
        { t with names := none }))) ∧
  (∀ (s : State) (t : Task), Issues s t → t.sup = true → t.names = none →
    exec .eret s = .next (takeTrap s { cause := .illegalOp, detail := 0x0E, addr := 0 })) ∧
  (∀ (s : State) (t : Task), Issues s t → t.sup = false → exec .eret s =
    .next (takeTrap s { cause := .priv, detail := 0, addr := 0 }))

/-- R325, R396: SNAP raises the snapshot trigger in a supervisor task, with the PCs of that moment held for this core's block unless
the block holds a snapshot already, and traps PRIV in another task. While a trigger is on its way another makes one with it (the
model's choice, log entry 87). IDLE makes its stream wait for at most 64 cycles, and IDLE_WAKE ends the wait. -/
def Obligations.SnapAndIdle : Prop :=
  (∀ (s : State) (t : Task), Issues s t →
    (t.sup = true → s.pk.snapArmed = true → exec .snap s = .next (goesOn (emit s .snapTrigger) t)) ∧
    (t.sup = true → s.pk.snapArmed = false → ∃ held, exec .snap s = .next (goesOn
      (emit { s with fresh := s.fresh + 8, pk := { s.pk with snapArmed := true, snapHeld := held } } .snapTrigger) t) ∧
      (s.regs.snapstat.getLsbD 0 = true → held = none) ∧
      (s.regs.snapstat.getLsbD 0 = false → ∃ v, held = some v ∧ ∀ (k : Nat) (u : Task), k < 4 →
        (slotAt s k = .running u ∨ ∃ on, slotAt s k = .held u on) → v.toList[2 * k]? = some u.sa.pc ∧
          v.toList[2 * k + 1]? = some u.se.pc)) ∧
    (t.sup = false → exec .snap s = .next (takeTrap s { cause := .priv, detail := 0, addr := 0 })) ∧
    exec .idle s = .next (goesOn s (setWait t s.cur.2 (.idle 64)))) ∧
  (∀ (s : State) (t : Task) (k : BitVec 2) (st : Stream) (n : BitVec 7), slotHolds s k t →
    (streamOf t st).wait = .idle n → exec (.idleWake k st) s = .next (putTask s k.toNat (setWait t st .ready)))
/-! ### Loads, stores, atomics and spills (R44, R49, R64 to R67, R75 to R78, R113, R222 to R232) -/

namespace Sys2Proof.Claims

/-- The access of a load of `n` bytes through a capability at an offset (R223, R224). -/
def loadAccess (x : Cap) (off : Word) (n : Nat) : Access44 :=
  { cap := x, va := capAddr x + off, len := n, perms := [permLD], align := n, store := false }

/-- The access of a store of `n` bytes (R225). -/
def storeAccess (x : Cap) (off : Word) (n : Nat) : Access44 :=
  { cap := x, va := capAddr x + off, len := n, perms := [permST], align := n, store := true }

/-- The access of an atomic (R229). -/
def atomicAccess (x : Cap) (n : Nat) : Access44 :=
  { cap := x, va := capAddr x, len := n, perms := [permLD, permST], align := n, store := true }

/-- The instruction traps with a cause, a detail and the address of the first failing byte (R351, R354). -/
def TrapsWith (i : Instr) (s : State) (c : Cause) (d : Nat) (a : Word) : Prop :=
  exec i s = .next (takeTrap s { cause := c, detail := BitVec.ofNat 32 d, addr := a })

/-- A loaded value: sign-extended unless `z` is set (R224). -/
def valueOf (n : Nat) (z : BitVec 1) (bs : List Byte) : Word :=
  if z = 0 then (BitVec.ofNat (8 * n) (leNat bs)).signExtend 64 else BitVec.ofNat 64 (leNat bs)

/-- No entry of a queue stands reserved. -/
def NoneReserved {α : Type} (q : Queue α) : Prop := ∀ e ∈ q, e.isSome = true

/-- The offset of an immediate form: sext(offset) × size (R180). -/
def scaled (o : BitVec 10) (n : Nat) : Word := o.signExtend 64 * BitVec.ofNat 64 n

/-- The checks of R44 that both a load and a store make after row 1, in their order. -/
def RowsTrap (i : Instr) (s : State) (a : Access44) : Prop :=
  (a.cap.tag = false → TrapsWith i s .capTag 0 a.va) ∧
  (a.cap.tag = true → capSealed a.cap = true → TrapsWith i s .capSealed 0 a.va) ∧
  (a.cap.tag = true → capSealed a.cap = false →
    ((∃ p ∈ a.perms, hasPerm a.cap p = false) → TrapsWith i s .capPerm 0 a.va) ∧
    ((∀ p ∈ a.perms, hasPerm a.cap p = true) →
      (a.va.toNat < capBase a.cap → TrapsWith i s .capBounds 0 a.va) ∧
      (capBase a.cap ≤ a.va.toNat → capTop a.cap < a.va.toNat + a.len →
        TrapsWith i s .capBounds 0 (a.va + BitVec.ofNat 64 (capTop a.cap - a.va.toNat))) ∧
      (capBase a.cap ≤ a.va.toNat → a.va.toNat + a.len ≤ capTop a.cap → a.va.toNat % a.len ≠ 0 →
        TrapsWith i s .misalign 0 a.va)))

/-- The tag that a load of a granule finds: of a buffered capability, none behind a buffered data write, else of memory;
a tolerant page holds none (R31, R49, R76). -/
def tagAt (s : State) (t : Task) (va : Word) (l : Loc) : Bool :=
  (sbTag s.sb t.ctx va.toNat).getD (memTag (locMem s l) (locAddr l)) &&
    !tolAt s t va

/-- The granule that LDC reads from the core's own memory, after steps 3 and 4 of R227. -/
def granuleFor (s : State) (t : Task) (x : Cap) (va : Word) (l : Loc) : Cap :=
  let g : Cap := ⟨BitVec.ofNat 128 (leNat (loaded s t va l 16)), tagAt s t va l && hasPerm x permTAGRD⟩
  if hasPerm x permDEEP then g else capDropPerms g [permST, permTAGWR, permSEQ, permDEEP]

/-- A capability passes the revocation filter of a context (R56): the bytes of the map that it looks up stay cached. -/
def filtered (s : State) (ctx : BitVec 12) (c : Cap) : State × Cap :=
  ({ cacheMarks s ctx c with fresh := s.fresh + 1 }, filterCap (cacheMarks s ctx c) ctx c)

/-- What STC asks for a value that the filter has passed (R228). -/
def capAccess (s : State) (x : Cap) (off : Word) (y : Cap) : Access44 :=
  let va := capAddr x + off
  let own := decide (vaSpace va = 1) && isOwn s va
  ⟨x, va, 16, if y.tag then [permST, permTAGWR] else [permST], 16, true, y.tag && !own && !hasPerm y permROAM⟩

/-- The byte at `l'` lies outside the `n` bytes at `l`: in the other memory, or at another address. -/
def apart (l : Loc) (n : Nat) (l' : Loc) : Prop :=
  match l, l' with
  | .sram _, .hbm _ => True
  | .hbm _, .sram _ => True
  | .sram a, .sram b => b < a ∨ a + n ≤ b
  | .hbm a, .hbm b => b < a ∨ a + n ≤ b

/-- The read that a foreign load sends: whole lines when it is served from copies, else the bytes themselves (R78); to
the owner of the address, the writer core of a host window (R375). -/
def readFor (s : State) (t : Task) (x : Cap) (va : Word) (n : Nat) (cached : Bool) : Pending :=
  { id := s.nextId, slot := s.cur.1, tid := t.tid, ctx := t.ctx, owner := ownerOf s t.ctx (askRange va n cached).1,
    va := (askRange va n cached).1, len := (askRange va n cached).2, cached := cached, purpose := .load, cap := x }

/-- A load with its offset in a register is over: the offset that it took is kept no longer. -/
def loadOver (u : Task) : Task := { u with popped := none }

/-- While such a load is under way, the offset that it popped is kept. -/
def loadBegun (u : Task) (b : BitVec 5) (m : BitVec 1) (off : Word) : Task :=
  if m = 1 then { u with popped := some (b.toNat, off) } else u

/-- The offset of a load that has its answer: the one that it popped, or the register's. -/
def offsetKept (t : Task) (st : Stream) (b : BitVec 5) (m : BitVec 1) (off : Word) : Prop :=
  t.popped = some (b.toNat, off) ∨ (m = 0 ∧ t.popped = none ∧ off = regVal t st b)

/-- What a load form `i` of `n` bytes at `off` of another owner's memory does at issue (R78, R81, R83, R87, R363): it traps at
a host window without translation, completes from the store buffer of an own window or from held lines, is held
behind a fresh read of its line, or sends its read and waits. `begun`: the task with its operands taken; `put`: the
state that it leaves once its task, its bytes and their tags are there. -/
def LoadLeaves (i : Instr) (s : State) (t : Task) (x : Cap) (off : Word) (n : Nat) (nc : BitVec 1) (begun : Task)
    (put : Task → List Byte → List Bool → State) : Prop :=
  let va := capAddr x + off
  let cached := isCached s t.ctx va (decide (nc = 1))
  let here := ownWindow s t.ctx va = true ∧ ∃ e ∈ s.sb, sbOverlaps e t.ctx va n = true
  accessCheck s t.ctx (loadAccess x off n) none = none → isOwn s va = false → (streamOf t s.cur.2).wait = .ready →
    (vaSpace va = 2 → vaPkg va = s.pkg → hostReady s t.ctx va n = false → TrapsWith i s .pagePerm 0 va) ∧
    ((vaSpace va = 2 → vaPkg va = s.pkg → hostReady s t.ctx va n = true) →
      (∀ bs, here → bufferedBytes s t.ctx va n = some bs → exec i s = .next (put begun bs [])) ∧
      (here → bufferedBytes s t.ctx va n = none → exec i s = .next { s with hold := .other }) ∧
      (∀ bs ls, ¬ here → cached = true → heldBytes s t va n = some (bs, ls) →
        ((∃ l ∈ ls, l.bad = true) → TrapsWith i s .eccUncorrectable 0 va) ∧
        ((∀ l ∈ ls, l.bad = false) → exec i s = .next (put (observeLines s begun ls) bs
          (ls.map (fun l => l.tags.getLsbD (va.toNat % 64 / 16)))))) ∧
      (¬ here → cached = false → freshInFlight s va n = true → exec i s = .next { s with hold := .other }) ∧
      (¬ here → (cached = true → heldBytes s t va n = none) → (cached = false → freshInFlight s va n = false) →
        let s1 := putTask s (curK s) (setWait begun s.cur.2 (.read s.nextId none))
        let q := readFor s t x va n cached
        exec i s = .next (sendRead { s1 with pending := s.pending ++ [q], nextId := s.nextId + 1 } q)))

/-- What the form does once its answer is there. -/
def LoadAnswered (i : Instr) (s : State) (t : Task) (x : Cap) (off : Word) (n : Nat) (nc : BitVec 1)
    (put : Task → List Byte → List Bool → State) : Prop :=
  let va := capAddr x + off
  let base := (askRange va n (isCached s t.ctx va (decide (nc = 1)))).1
  let k := va.toNat - base.toNat
  accessCheck s t.ctx (loadAccess x off n) none = none → isOwn s va = false →
    ∀ id r, (streamOf t s.cur.2).wait = .read id (some r) →
      (r.fault = none → exec i s = .next (put (setWait t s.cur.2 .ready) (r.data.drop k) (r.tags.drop (k / 16)))) ∧
      (∀ e dt, r.fault = some (e, dt) → TrapsWith i s (causeOf e.toNat) dt.toNat
        (if va.toNat < base.toNat + r.data.length then base + BitVec.ofNat 64 r.data.length else va))

/-- A granule of another owner's memory as LDC takes it (R52, R227): TAGRD and DEEP as for the own memory; ST, TAGWR and SEQ are
lost; host memory holds no tags. -/
def foreignGranule (x : Cap) (va : Word) (bs : List Byte) (tags : List Bool) : Cap :=
  let g : Cap := ⟨BitVec.ofNat 128 (leAt bs 0 16), tags.headD false && decide (vaSpace va ≠ 2) && hasPerm x permTAGRD⟩
  capDropPerms (if hasPerm x permDEEP then g else capDropPerms g [permST, permTAGWR, permSEQ, permDEEP])
    [permST, permTAGWR, permSEQ]

/-- The words that R29 makes of a word that leaves the store buffer for a tolerant page. -/
def RoundsTo (w r : BitVec 32) : Prop :=
  let hi := w.extractLsb' 16 16
  r.extractLsb' 0 16 = 0#16 ∧
  (w.extractLsb' 23 8 = 0xFF#8 → w.extractLsb' 0 23 ≠ 0#23 → r.extractLsb' 16 16 = hi ||| 0x40#16) ∧
  (w.extractLsb' 23 8 = 0xFF#8 → w.extractLsb' 0 23 = 0#23 → r.extractLsb' 16 16 = hi) ∧
  (w.extractLsb' 23 8 ≠ 0xFF#8 → r.extractLsb' 16 16 =
    if w.getLsbD 15 = true ∧ (w.extractLsb' 0 15 ≠ 0#15 ∨ hi.getLsbD 0 = true) then hi + 1#16 else hi)

/-- What each operation of R178 leaves of `x` in memory and its operand `y`: 0 ADD, 1 AND, 2 OR, 3 XOR, 4 SWAP, 5 MIN,
6 MAX, 7 MINU, 8 MAXU, and CAS with the expected value. -/
def AtomicLeaves (op : BitVec 4) (x y expected z : Word) : Prop :=
  (op = 0 → z = x + y) ∧ (op = 1 → z = x &&& y) ∧ (op = 2 → z = x ||| y) ∧ (op = 3 → z = x ^^^ y) ∧ (op = 4 → z = y) ∧
  (op = 5 → z = if y.slt x then y else x) ∧ (op = 6 → z = if x.slt y then y else x) ∧
  (op = 7 → z = if y.ult x then y else x) ∧ (op = 8 → z = if x.ult y then y else x) ∧
  (op.toNat > 8 → z = if x = expected then y else x)

end Sys2Proof.Claims

/-- R44, R354: a load and a store that fail a check trap with the first cause of the table that applies, row 1 before
the others for a store, and name the first failing byte. -/
def Obligations.AccessChecksInOrder : Prop :=
  ∀ (s : State) (t : Task) (d c : BitVec 5) (nc z : BitVec 1) (sz : BitVec 3) (o : BitVec 10), Issues s t →
    let x := capVal t c.toNat
    let n := sizeBytes sz
    let off := scaled o n
    let va := capAddr x + off
    RowsTrap (.ldImm d c nc z sz o) s (loadAccess x off n) ∧
    (foreignStore s t.ctx va n = true → TrapsWith (.stImm d c sz o) s .foreignStore 0 va) ∧
    (foreignStore s t.ctx va n = false → RowsTrap (.stImm d c sz o) s (storeAccess x off n)) ∧
    ((vaSpace va = 0 ∨ vaSpace va = 1) → (foreignStore s t.ctx va n = true ↔ ¬ (vaPkg va = s.pkg ∧ vaCore va = s.core))) ∧
    (vaSpace va = 3 → foreignStore s t.ctx va n = true) ∧
    (capRows (loadAccess x off n) = none → vaPkg va ∉ s.members → TrapsWith (.ldImm d c nc z sz o) s .pagePerm 1 va) ∧
    (capRows (storeAccess x off n) = none → vaSpace va = 1 → isOwn s va = true → vaPkg va ∈ s.members →
      vaCore va ∉ s.outOfService → vaOff va + n ≤ scratchEnd s.cx → inSched s.cx (vaOff va) n = true →
      TrapsWith (.stImm d c sz o) s .pagePerm 0x0B va) ∧
    (capRows (storeAccess x off n) = none → accessCheck s t.ctx (storeAccess x off n) none = none → isOwn s va = true →
      vaSpace va = 1 → inArmed s.cx (vaOff va) n = true → TrapsWith (.stImm d c sz o) s .chainConflict 0 va)

/-- R76, R180, R224, R226, R227: loads from the core's own memory, in every form. -/
def Obligations.OwnLoads : Prop :=
  ∀ (s : State) (t : Task) (d c : BitVec 5) (nc z : BitVec 1) (l : Loc), Issues s t → (streamOf t s.cur.2).wait = .ready →
    let x := capVal t c.toNat
    let value := fun (n : Nat) (off : Word) => valueOf n z (loaded s t (capAddr x + off) l n)
    let goes := fun (n : Nat) (off : Word) => accessCheck s t.ctx (loadAccess x off n) none = none ∧
      LoadGoes s t (capAddr x + off) n l
    let after := fun (n : Nat) (off : Word) => afterLoad s t (capAddr x + off) l n
    let granule := fun (off : Word) => filtered (after 16 off) t.ctx (granuleFor s t x (capAddr x + off) l)
    (∀ sz o, goes (sizeBytes sz) (scaled o (sizeBytes sz)) → exec (.ldImm d c nc z sz o) s = .next
      (goesOn (after (sizeBytes sz) (scaled o (sizeBytes sz))) (setReg t s.cur.2 d (value (sizeBytes sz) (scaled o (sizeBytes sz)))))) ∧
    (∀ (b : BitVec 5) (m : BitVec 1) sz off u, operandOf t s.cur.2 b (m.getLsbD 0) = some (off, u) → goes (sizeBytes sz) off →
      exec (.ldReg d c b m nc z sz) s = .next
        (goesOn (after (sizeBytes sz) off) (loadOver (setReg u s.cur.2 d (value (sizeBytes sz) off))))) ∧
    (∀ sz o, sz ≠ 4 → goes (sizeBytes sz) (scaled o (sizeBytes sz)) → HasRoom t d true →
      NoneReserved (portQueue t d.toNat) → exec (.ldqImm d c nc z sz o) s = .next
      (goesOn (after (sizeBytes sz) (scaled o (sizeBytes sz)))
        (withResult t s.cur.2 d true (value (sizeBytes sz) (scaled o (sizeBytes sz)))))) ∧
    (∀ (b : BitVec 5) (m : BitVec 1) sz off u, sz ≠ 4 → operandOf t s.cur.2 b (m.getLsbD 0) = some (off, u) →
      goes (sizeBytes sz) off → HasRoom u d true → NoneReserved (portQueue u d.toNat) →
      exec (.ldqReg d c b m nc z sz) s = .next
        (goesOn (after (sizeBytes sz) off) (loadOver (withResult u s.cur.2 d true (value (sizeBytes sz) off))))) ∧
    (∀ o, goes 256 (scaled o 256) → t.vlq.length < 4 → NoneReserved t.vlq → exec (.ldqImm d c nc z 4 o) s =
      .next (goesOn (after 256 (scaled o 256))
        { t with vlq := t.vlq ++ [some (BitVec.ofNat 2048 (leNat (loaded s t (capAddr x + scaled o 256) l 256)))] })) ∧
    (∀ (b : BitVec 5) (m : BitVec 1) off u, operandOf t s.cur.2 b (m.getLsbD 0) = some (off, u) → goes 256 off →
      t.vlq.length < 4 → NoneReserved t.vlq → exec (.ldqReg d c b m nc z 4) s = .next (goesOn (after 256 off) (loadOver
        { u with vlq := t.vlq ++ [some (BitVec.ofNat 2048 (leNat (loaded s t (capAddr x + off) l 256)))] }))) ∧
    (∀ o, goes 16 (scaled o 16) → exec (.ldcImm d c nc o) s =
      .next (goesOn (granule (scaled o 16)).1 (setCap t d.toNat (granule (scaled o 16)).2))) ∧
    (∀ (b : BitVec 5) (m : BitVec 1) off u, operandOf t s.cur.2 b (m.getLsbD 0) = some (off, u) → goes 16 off →
      exec (.ldcReg d c b m nc) s = .next (goesOn (granule off).1 (loadOver (setCap u d.toNat (granule off).2))))

/-- R76, R225, R226, R228: stores to the core's own memory enter the store buffer and change nothing else, in every form;
a store to a host window of the package enters it for the host agent, once that has found the page (R375). -/
def Obligations.OwnStores : Prop :=
  ∀ (s : State) (t : Task) (v c : BitVec 5) (l : Loc) (tol : Bool), Issues s t →
    let x := capVal t c.toNat
    let goes := fun (n : Nat) (off : Word) => accessCheck s t.ctx (storeAccess x off n) none = none ∧
      StoreGoes s t (capAddr x + off) n l tol
    let put := fun (off : Word) (bs : List Byte) => buffered s (entryOf t (capAddr x + off) (some l) (.data bs tol))
    let y := filtered s t.ctx (capVal t v.toNat)
    let goesCap := fun (off : Word) => vaSpace (capAddr x + off) ≠ 2 ∧
      accessCheck s t.ctx (capAccess s x off y.2) none = none ∧ StoreGoes s t (capAddr x + off) 16 l false
    (∀ sz o, goes (sizeBytes sz) (scaled o (sizeBytes sz)) → exec (.stImm v c sz o) s =
      .next (goesOn (put (scaled o (sizeBytes sz)) (leBytes (sizeBytes sz) (regVal t s.cur.2 v).toNat)) t)) ∧
    (∀ (b : BitVec 5) (m : BitVec 1) sz off u, operandOf t s.cur.2 b (m.getLsbD 0) = some (off, u) → goes (sizeBytes sz) off →
      exec (.stReg v c b m sz) s = .next (goesOn (put off (leBytes (sizeBytes sz) (regVal t s.cur.2 v).toNat)) u)) ∧
    (∀ sz o w u, sz ≠ 4 → operandOf t s.cur.2 v true = some (w, u) → goes (sizeBytes sz) (scaled o (sizeBytes sz)) →
      exec (.stqImm v c sz o) s =
        .next (goesOn (put (scaled o (sizeBytes sz)) (leBytes (sizeBytes sz) w.toNat)) u)) ∧
    (∀ (b : BitVec 5) (m : BitVec 1) sz w u off u', sz ≠ 4 → operandOf t s.cur.2 v true = some (w, u) →
      operandOf u s.cur.2 b (m.getLsbD 0) = some (off, u') → goes (sizeBytes sz) off →
      exec (.stqReg v c b m sz) s = .next (goesOn (put off (leBytes (sizeBytes sz) w.toNat)) u')) ∧
    (∀ o w r, t.vsq = some w :: r → goes 256 (scaled o 256) → exec (.stqImm v c 4 o) s =
      .next (goesOn (put (scaled o 256) (leBytes 256 w.toNat)) { t with vsq := r })) ∧
    (∀ (b : BitVec 5) (m : BitVec 1) w r off u, t.vsq = some w :: r → operandOf t s.cur.2 b (m.getLsbD 0) = some (off, u) →
      goes 256 off → exec (.stqReg v c b m 4) s =
        .next (goesOn (put off (leBytes 256 w.toNat)) { u with vsq := r })) ∧
    (∀ o, goesCap (scaled o 16) → exec (.stcImm v c o) s = .next (goesOn
      (buffered y.1 (entryOf t (capAddr x + scaled o 16) (some l) (.cap y.2))) t)) ∧
    (∀ (b : BitVec 5) (m : BitVec 1) off u, operandOf t s.cur.2 b (m.getLsbD 0) = some (off, u) → goesCap off →
      exec (.stcReg v c b m) s = .next (goesOn (buffered y.1 (entryOf t (capAddr x + off) (some l) (.cap y.2))) u)) ∧
    (∀ sz o, let va := capAddr x + scaled o (sizeBytes sz)
      vaSpace va = 2 → accessCheck s t.ctx (storeAccess x (scaled o (sizeBytes sz)) (sizeBytes sz)) none = none →
      hostReady s t.ctx va 1 = true → (streamOf t s.cur.2).wait = .hostOk va → s.sb.length < 16 →
      exec (.stImm v c sz o) s = .next (goesOn
        (buffered s (entryOf t va none (.data (leBytes (sizeBytes sz) (regVal t s.cur.2 v).toNat) false)))
        (setWait t s.cur.2 .ready))) ∧
    (∀ o, let va := capAddr x + scaled o 16
      vaSpace va = 2 → y.2.tag = true → foreignStore s t.ctx va 16 = false → capRows (capAccess s x (scaled o 16) y.2) = none →
      TrapsWith (.stcImm v c o) s .pagePerm 6 va) ∧
    (∀ sz o, let va := capAddr x + scaled o (sizeBytes sz)
      accessCheck s t.ctx (storeAccess x (scaled o (sizeBytes sz)) (sizeBytes sz)) none = none → isOwn s va = true →
      vaSpace va = 1 → inArmed s.cx (vaOff va) (sizeBytes sz) = false → 16 ≤ s.sb.length →
      exec (.stImm v c sz o) s = .next { s with hold := .other })

/-- R52, R78, R81, R83, R87, R224, R226, R227: a load of another owner's memory, in every form: LD, LDQ and LDC, with an immediate
offset or one in a register or a queue. It sends its read and waits, or completes from what the core holds; the answer
reaches the waiting stream with an observation pair, and the instruction completes with its data or takes the cause that the
owner names, at the first byte that the answer does not bring (the model's choice, log entry 158). One fresh read of a line
is in flight at a time (R363), and lines that come sealed are opened (R68). The answer to a read that was given up goes to no
one. -/
def Obligations.ForeignLoads : Prop :=
  (∀ (s : State) (t : Task) (d c : BitVec 5) (nc z : BitVec 1), Issues s t →
    let x := capVal t c.toNat
    let st := s.cur.2
    let word := fun (n : Nat) (u : Task) (bs : List Byte) (_ : List Bool) =>
      goesOn s (setReg u st d (valueOf n z (takePad n bs)))
    let queued := fun (q : Queue Word) (r : Queue Word) (n : Nat) (u : Task) (bs : List Byte) (_ : List Bool) =>
      goesOn s (setPortQueue u d.toNat (q ++ some (valueOf n z (takePad n bs)) :: r))
    let vector := fun (q : Queue VecWord) (r : Queue VecWord) (u : Task) (bs : List Byte) (_ : List Bool) =>
      goesOn s { u with vlq := q ++ some (BitVec.ofNat 2048 (leNat (takePad 256 bs))) :: r }
    let granule := fun (off : Word) (u : Task) (bs : List Byte) (tags : List Bool) =>
      let g := filtered s t.ctx (foreignGranule x (capAddr x + off) bs tags)
      goesOn g.1 (setCap u d.toNat g.2)
    let loaded := fun (put : Task → List Byte → List Bool → State) (u : Task) => put (loadOver u)
    -- an immediate offset
    (∀ sz o, LoadLeaves (.ldImm d c nc z sz o) s t x (scaled o (sizeBytes sz)) (sizeBytes sz) nc t (word (sizeBytes sz)) ∧
      LoadAnswered (.ldImm d c nc z sz o) s t x (scaled o (sizeBytes sz)) (sizeBytes sz) nc (word (sizeBytes sz))) ∧
    (∀ sz o, sz ≠ 4 → HasRoom t d true → NoneReserved (portQueue t d.toNat) →
      LoadLeaves (.ldqImm d c nc z sz o) s t x (scaled o (sizeBytes sz)) (sizeBytes sz) nc
        (setPortQueue t d.toNat (portQueue t d.toNat ++ [none])) (queued (portQueue t d.toNat) [] (sizeBytes sz))) ∧
    (∀ sz o q r, sz ≠ 4 → portQueue t d.toNat = q ++ none :: r → NoneReserved q →
      LoadAnswered (.ldqImm d c nc z sz o) s t x (scaled o (sizeBytes sz)) (sizeBytes sz) nc (queued q r (sizeBytes sz))) ∧
    (∀ o, t.vlq.length < 4 → NoneReserved t.vlq → LoadLeaves (.ldqImm d c nc z 4 o) s t x (scaled o 256) 256 nc
        { t with vlq := t.vlq ++ [none] } (vector t.vlq [])) ∧
    (∀ o q r, t.vlq = q ++ none :: r → NoneReserved q →
      LoadAnswered (.ldqImm d c nc z 4 o) s t x (scaled o 256) 256 nc (vector q r)) ∧
    (∀ o, LoadLeaves (.ldcImm d c nc o) s t x (scaled o 16) 16 nc t (granule (scaled o 16)) ∧
      LoadAnswered (.ldcImm d c nc o) s t x (scaled o 16) 16 nc (granule (scaled o 16))) ∧
    -- an offset in a register, or popped from a queue
    (∀ (b : BitVec 5) (m : BitVec 1) (sz : BitVec 3) (off : Word) (u : Task), operandOf t st b (m.getLsbD 0) = some (off, u) →
      let v := loadBegun u b m off
      LoadLeaves (.ldReg d c b m nc z sz) s t x off (sizeBytes sz) nc v (loaded (word (sizeBytes sz))) ∧
      (sz ≠ 4 → HasRoom u d true → NoneReserved (portQueue u d.toNat) →
        LoadLeaves (.ldqReg d c b m nc z sz) s t x off (sizeBytes sz) nc
          (setPortQueue v d.toNat (portQueue u d.toNat ++ [none])) (loaded (queued (portQueue u d.toNat) [] (sizeBytes sz)))) ∧
      (t.vlq.length < 4 → NoneReserved t.vlq → LoadLeaves (.ldqReg d c b m nc z 4) s t x off 256 nc
        { v with vlq := t.vlq ++ [none] } (loaded (vector t.vlq []))) ∧
      LoadLeaves (.ldcReg d c b m nc) s t x off 16 nc v (loaded (granule off))) ∧
    (∀ (b : BitVec 5) (m : BitVec 1) (sz : BitVec 3) (off : Word), offsetKept t st b m off →
      LoadAnswered (.ldReg d c b m nc z sz) s t x off (sizeBytes sz) nc (loaded (word (sizeBytes sz))) ∧
      (∀ q r, sz ≠ 4 → portQueue t d.toNat = q ++ none :: r → NoneReserved q →
        LoadAnswered (.ldqReg d c b m nc z sz) s t x off (sizeBytes sz) nc (loaded (queued q r (sizeBytes sz)))) ∧
      (∀ q r, t.vlq = q ++ none :: r → NoneReserved q →
        LoadAnswered (.ldqReg d c b m nc z 4) s t x off 256 nc (loaded (vector q r))) ∧
      LoadAnswered (.ldcReg d c b m nc) s t x off 16 nc (loaded (granule off)))) ∧
  (∀ (s : State) (p : Pending),
    (vaSpace p.va = 2 → vaPkg p.va = s.pkg → sendRead s p = emit s (.hostRead p (hostStream s p.ctx))) ∧
    (¬ (vaSpace p.va = 2 ∧ vaPkg p.va = s.pkg) → p.cached = true → poolActive s = true → poolMember s (lineOf p.va) ≠ s.core →
      sendRead s p = emit s (.poolProbe (poolMember s (lineOf p.va)) p)) ∧
    (¬ (vaSpace p.va = 2 ∧ vaPkg p.va = s.pkg) →
      (p.cached = false ∨ poolActive s = false ∨ poolMember s (lineOf p.va) = s.core) → sendRead s p = emit s (.read p p.cap))) ∧
  (∀ (s : State) (t : Task) (p : Pending) (r : ReadReply) (k : BitVec 2), p ∈ s.pending → p.id = r.id → r.pool = none →
    (∀ q ∈ s.pending, q.id = r.id → q = p) →
    let rest := s.pending.filter (fun q => decide (q.id ≠ r.id))
    (p.fate = .dead → exec (.readResponse r) s = .next { s with pending := rest }) ∧
    (slotHolds s k t → t.tid = p.tid → p.purpose = .load → t.sa.wait = .read p.id none → p.fate = .live →
      staleAnswer s p r = false →
      (∀ r', openAnswer s p r = some r' → ∃ s', exec (.readResponse r) s = .next s' ∧ slotHolds s' k
          (let u := setWait t .A (.read p.id (some r'))
           if r'.fault = none then observe s u (answerOwner s p r') r'.pub else u) ∧
        s' = { s with pending := rest, slots := s'.slots, cx := s'.cx, others := s'.others, lines := s'.lines,
                      outbox := s'.outbox, fresh := s'.fresh } ∧
        (p.cached = false ∨ r'.fault ≠ none → s'.lines = s.lines ∧ s'.outbox = s.outbox ∧ s'.fresh = s.fresh)) ∧
      (openAnswer s p r = none →
        exec (.readResponse r) s = .next (queueEvent { s with pending := rest } (.fatalContext p.ctx true))))) ∧
  (∀ (s : State) (p : Pending) (r : ReadReply),
    let key := if r.retiring then retiringKey s p.ctx else activeKey s p.ctx
    (isSealed p.va = false → openAnswer s p r = some r) ∧
    (isSealed p.va = true → r.pooled = false → key = none → openAnswer s p r = none) ∧
    (∀ k d, isSealed p.va = true → r.pooled = false → key = some k → p.va.toNat % 64 = 0 → p.len = 64 →
      r.data = leBytes 64 (xtsSeal (k.material.extractLsb' 0 512) (lineTweak p.ctx p.va) d).toNat →
      ∃ r', openAnswer s p r = some r' ∧ r'.data = leBytes 64
        (xtsOpen (k.material.extractLsb' 0 512) (lineTweak p.ctx p.va)
          (xtsSeal (k.material.extractLsb' 0 512) (lineTweak p.ctx p.va) d)).toNat ∧ r'.fault = r.fault ∧ r'.pub = r.pub))

/-- R28, R178, R229, R230: AMO and CAS enter the store buffer and wait for the old value, which is then written or pushed;
one that met bytes that cannot be corrected traps. -/
def Sys2Proof.Claims.AtomicsAtIssue : Prop :=
  ∀ (s : State) (t : Task) (d c b : BitVec 5) (m n z : BitVec 1) (p : BitVec 4), Issues s t →
    let x := capVal t c.toNat
    let w := if z = 1 then 8 else 4
    let result := fun (old : Word) => if z = 1 then old else (old.extractLsb' 0 32).signExtend 64
    (∀ y u l, (streamOf t s.cur.2).wait = .ready → operandOf t s.cur.2 b (m.getLsbD 0) = some (y, u) →
      accessCheck s t.ctx (atomicAccess x w) none = none → StoreGoes s t (capAddr x) w l false →
      let s1 := fun (k : SbKind) => { buffered s (entryOf t (capAddr x) (some l) k) with nextId := s.nextId + 1 }
      let u1 := setWait u s.cur.2 (.atomic s.nextId none)
      (n = 0 → exec (.amo d c b m n z p) s =
        .next (putTask (s1 (.amo p (decide (z = 1)) y 0 s.nextId)) (curK s) u1)) ∧
      (n = 1 → HasRoom t d true → exec (.amo d c b m n z p) s =
        .next (putTask (s1 (.amo p (decide (z = 1)) y 0 s.nextId)) (curK s)
          (setPortQueue u1 d.toNat (portQueue u d.toNat ++ [none])))) ∧
      exec (.cas d c b m z) s =
        .next (putTask (s1 (.amo 15 (decide (z = 1)) y (regVal t s.cur.2 d) s.nextId)) (curK s) u1)) ∧
    (∀ id old, (streamOf t s.cur.2).wait = .atomic id (some old) →
      (n = 0 → exec (.amo d c b m n z p) s = .next (goesOn s (setReg (setWait t s.cur.2 .ready) s.cur.2 d (result old)))) ∧
      (∀ q1 q2, n = 1 → portQueue t d.toNat = q1 ++ none :: q2 → NoneReserved q1 → exec (.amo d c b m n z p) s =
        .next (goesOn s (setPortQueue (setWait t s.cur.2 .ready) d.toNat (q1 ++ some (result old) :: q2)))) ∧
      exec (.cas d c b m z) s = .next (goesOn s (setReg (setWait t s.cur.2 .ready) s.cur.2 d (result old)))) ∧
    (∀ va, (streamOf t s.cur.2).wait = .lost va → TrapsWith (.amo d c b m n z p) s .eccUncorrectable 0 va ∧
      TrapsWith (.cas d c b m z) s .eccUncorrectable 0 va)

/-- R113, R231, R232: SPILL stores a granule at the top of the slot's stack and FILL loads the newest one back; an empty
stack and a full one trap SPILL_EXHAUSTED. -/
def Obligations.SpillsAndFills : Prop :=
  ∀ (s : State) (t : Task) (r c : BitVec 5) (m : BitVec 1) (l : Loc), Issues s t →
    let va := stackVa s (curK s) t.spillDepth
    let top := stackVa s (curK s) (t.spillDepth - 16)
    let free := t.spillDepth + 16 ≤ carveBytes s.cx + ovfBytes s.cx ∧
      ¬ (vaSpace va = 1 ∧ inSched s.cx (vaOff va) 16 = true) ∧ StoreGoes s t va 16 l false
    let y := filtered s t.ctx (capVal t c.toNat)
    let g : Cap := ⟨BitVec.ofNat 128 (leNat (loaded s t top l 16)), tagAt s t top l⟩
    (∀ x u, free → operandOf t s.cur.2 r (m.getLsbD 0) = some (x, u) → exec (.spillA r m) s = .next (goesOn
      (buffered s (entryOf t va (some l) (.cap ⟨x.setWidth 128, false⟩))) { u with spillDepth := t.spillDepth + 16 })) ∧
    (free → (y.2.tag = true → vaSpace va = 0 → hasPerm y.2 permROAM = true) → exec (.spillC c) s = .next (goesOn
      (buffered y.1 (entryOf t va (some l) (.cap y.2))) { t with spillDepth := t.spillDepth + 16 })) ∧
    (0 < t.spillDepth → LoadGoes s t top 16 l → HasRoom t r (m.getLsbD 0) → exec (.fillA r m) s = .next (goesOn
      (afterLoad s t top l 16) (withResult { t with spillDepth := t.spillDepth - 16 } s.cur.2 r (m.getLsbD 0)
        (BitVec.ofNat 64 (leNat (loaded s t top l 16)))))) ∧
    (0 < t.spillDepth → LoadGoes s t top 16 l →
      let f := filtered (afterLoad s t top l 16) t.ctx g
      exec (.fillC c) s = .next (goesOn f.1 (setCap { t with spillDepth := t.spillDepth - 16 } c.toNat f.2))) ∧
    (t.spillDepth = 0 → TrapsWith (.fillC c) s .spillExhausted 2 0 ∧
      (HasRoom t r (m.getLsbD 0) → TrapsWith (.fillA r m) s .spillExhausted 2 0)) ∧
    (carveBytes s.cx + ovfBytes s.cx < t.spillDepth + 16 → TrapsWith (.spillC c) s .spillExhausted 1 0)

/-- R29, R49, R65, R75, R76, R89, R124, R229: the oldest entry of the store buffer is performed: its bytes and tags stand at its
place, rounded on a tolerant page, and every other byte of memory reads as before. It waits while a fill of its line is under
way. A SEQADV publishes, and the watches that it brings to their thresholds are answered and freed. A complete chain that
waited for it may then be released (R299). -/
def Sys2Proof.Claims.StoreBufferPerforms : Prop :=
  (∀ (s : State) (e : SbEntry) (r : List SbEntry), s.sb = e :: r → memoriesWf s = true →
    (∀ l, e.loc = some l → filling s e.ctx e.va (sbLen e) = true → exec .storePerformed s = .next { s with hold := .other }) ∧
    (∀ l, e.loc = some l → filling s e.ctx e.va (sbLen e) = false →
      let goes := fun (s' : State) => exec .storePerformed s = .next (chainsAfterStore s') ∧ s'.sb = r ∧ s'.slots = s.slots
      let elsewhere := fun (s' : State) (n : Nat) => ∀ l' : Loc, apart l n l' → readLoc s' l' 1 = readLoc s l' 1
      (∀ bs, e.kind = .data bs false → ∃ s', goes s' ∧ readLoc s' l bs.length = bs ∧ s'.regs = s.regs ∧ elsewhere s' bs.length ∧
        (∀ i, i < bs.length → memTag (locMem s' l) (locAddr l + i) = false)) ∧
      (∀ bs, e.kind = .data bs true → locAddr l % 4 = 0 → bs.length % 4 = 0 → ∃ s', goes s' ∧ elsewhere s' bs.length ∧
        (∀ i, i < bs.length / 4 → RoundsTo (BitVec.ofNat 32 (leAt bs (4 * i) 4))
          (BitVec.ofNat 32 (leAt (readLoc s' l bs.length) (4 * i) 4)))) ∧
      (∀ b, e.kind = .data [b] true → ∃ s', goes s' ∧
        (∀ l' : Loc, apart (match l with | .sram a => .sram (a / 4 * 4) | .hbm a => .hbm (a / 4 * 4)) 4 l' →
          readLoc s' l' 1 = readLoc s l' 1)) ∧
      (∀ c, e.kind = .cap c → locAddr l % 16 = 0 → ∃ s', goes s' ∧ capAtLoc s' l = c ∧ elsewhere s' 16) ∧
      (∀ v, e.kind = .seq v → ∃ s1, s1.sb = r ∧ readLoc s1 l 8 = leBytes 8 v.toNat ∧ 
          s1.cx = { s.cx with sram := s1.cx.sram, sramErr := s1.cx.sramErr, pub := s.cx.pub + 1 } ∧ s1.outbox = s.outbox ∧ s1.slots = s.slots ∧
          s1.watches = s.watches ∧ exec .storePerformed s = .next (chainsAfterStore (evaluateWatches s1 e.ctx e.va v
            { owner := ownId s, pub := s.cx.pub + 1, x := entryX s e }))) ∧
      (∀ n, e.kind = .binit n → ∃ s', exec .storePerformed s = .next (chainsAfterStore s') ∧ s'.sb = r ∧
        readLoc s' l 32 = leBytes 8 (if n = 0 then 2 ^ 40 else 0) ++ leBytes 8 n.toNat ++ leBytes 16 0)) ∧
    (∀ bs tol, e.loc = none → e.kind = .data bs tol → exec .storePerformed s =
      .next (chainsAfterStore (emit { s with sb := r } (.hostStore e.ctx e.va bs (hostStream s e.ctx)))))) ∧
  (∀ (s : State) (ctx : BitVec 12) (va v : Word) (rec : Record),
    let met := fun (w : Watch) => w.ctx = ctx ∧ w.va = va ∧ w.threshold.toNat ≤ v.toNat
    (∀ w, w ∈ (evaluateWatches s ctx va v rec).watches ↔ w ∈ s.watches ∧ ¬ met w) ∧
    ((∀ w ∈ s.watches, ¬ met w) → evaluateWatches s ctx va v rec = s) ∧
    (∀ w, s.watches = [w] → met w →
      evaluateWatches s ctx va v rec = watchReply { s with watches := [] } w v 0 0 (some rec))) ∧
  (∀ s : State, (∀ n, n < 32 → (chainAt s.cx n).closing = none) → chainsAfterStore s = s)

/-- R28, R178, R229: what each atomic leaves in memory and answers; a CAS that does not match writes nothing. A host atomic
is performed by the host agent on the host line (R378). -/
def Sys2Proof.Claims.AtomicsPerformed : Prop :=
  ∀ (s : State) (e : SbEntry) (r : List SbEntry) (op : BitVec 4) (y expected : Word) (id : Nat) (k : Nat) (t : Task),
    s.sb = e :: r → memoriesWf s = true → e.kind = .amo op true y expected id → k < 4 → taskIn s k = some t →
    t.sa.wait = .atomic id none → (e.loc ≠ none → filling s e.ctx e.va 8 = false) →
    (∀ (l : Loc) (x : Word), e.loc = some l → lostAt s e l = false → readLoc s l 8 = leBytes 8 x.toNat →
      ∃ s' u z, exec .storePerformed s = .next (chainsAfterStore s') ∧ s'.sb = r ∧ taskIn s' k = some u ∧
      u.sa = { t.sa with wait := .atomic id (some x) } ∧ AtomicLeaves op x y expected z ∧
      readLoc s' l 8 = leBytes 8 z.toNat ∧ (op.toNat > 8 → x ≠ expected → locMem s' l = locMem s l)) ∧
    (∀ l, e.loc = some l → lostAt s e l = true → ∃ s' u, exec .storePerformed s = .next (chainsAfterStore s') ∧ s'.sb = r ∧
      taskIn s' k = some u ∧ u.sa = { t.sa with wait := .lost e.va } ∧ locMem s' l = locMem s l) ∧
    (∀ q : HostAtomic, e.loc = none →
      let x : Word := BitVec.ofNat 64 (q.line.toNat / 2 ^ (e.va.toNat % 64 * 8))
      let native := ∃ w, windowAt s e.ctx e.va = some w ∧ w.regB.getLsbD 31 = true
      ∃ s' u z, exec (.hostAtomic q) s = .next (chainsAfterStore s') ∧ s'.sb = r ∧ taskIn s' k = some u ∧
        u.sa = { t.sa with wait := .atomic id (some x) } ∧ s'.home = s.home ∧ s'.cx.sram = s.cx.sram ∧
        AtomicLeaves op x y expected z ∧
        (native → s'.outbox = s.outbox ++ [.hostAtomic id e.va op true y expected (hostStream s e.ctx)]) ∧
        (¬ native → op.toNat ≤ 8 ∨ x = expected →
          s'.outbox = s.outbox ++ [.hostStore e.ctx e.va (leBytes 8 z.toNat) (hostStream s e.ctx)]) ∧
        (¬ native → ¬ (op.toNat ≤ 8 ∨ x = expected) → s'.outbox = s.outbox))

/-- R178, R229, R230, R378: AMO and CAS at issue, and what they do where they are performed. -/
def Obligations.AtomicOperations : Prop := AtomicsAtIssue ∧ AtomicsPerformed

/-- R65, R67, R375: a store that has no permit waits for one; the answer grants it for a page that translates and is
writable, and the store goes on, or the store's trap is taken. A store to a host window waits for the host agent, which
translates its page. Without an Active key slot the context ends. -/
def Sys2Proof.Claims.PermitsAnswered : Prop :=
  (∀ (s : State) (t : Task) (v c : BitVec 5) (sz : BitVec 3) (o : BitVec 10), Issues s t →
    let x := capVal t c.toNat
    let n := sizeBytes sz
    let va := capAddr x + scaled o n
    accessCheck s t.ctx (storeAccess x (scaled o n) n) none = none →
    (isOwn s va = true → vaSpace va = 0 → onScoreboard s va n = false → moveHolds s t.ctx va = false →
      findPermit s t.ctx va = none →
      exec (.stImm v c sz o) s = .next (putTask s (curK s) (setWait t s.cur.2 (.permit va)))) ∧
    (vaSpace va = 2 → hostReady s t.ctx va 1 = true → (streamOf t s.cur.2).wait = .ready →
      exec (.stImm v c sz o) s = .next (putTask s (curK s) (setWait t s.cur.2 (.permit va)))) ∧
    (vaSpace va = 2 → hostReady s t.ctx va 1 = false → TrapsWith (.stImm v c sz o) s .pagePerm 0 va)) ∧
  (∀ (s : State) (k : BitVec 2) (p : Bool) (t : Task) (va : Word), slotHolds s k t → t.sa.wait = .permit va →
    let s1 := putTask s k.toNat (setWait t .A .ready)
    (vaSpace va = 0 → moveHolds s t.ctx va = false →
      (activeKey s t.ctx = none → exec (.permitReply ⟨k, p⟩) s = .next (queueEvent s1 (.fatalContext t.ctx true))) ∧
      ((activeKey s t.ctx).isSome = true →
        (∀ b lf, walk s t.ctx false true (vaOff va) = .ok b lf → lf.w = true → exec (.permitReply ⟨k, p⟩) s =
          .next (addPermit s1 ⟨t.ctx, va.extractLsb' 16 27, lf.tol⟩)) ∧
        (∀ b lf, walk s t.ctx false true (vaOff va) = .ok b lf → lf.w = false → exec (.permitReply ⟨k, p⟩) s =
          .next (takeOwnTrap s1 k.toNat .A ⟨.pagePerm, 4, va⟩ t.sa.pc)) ∧
        (walk s t.ctx false true (vaOff va) = .notPresent → exec (.permitReply ⟨k, p⟩) s =
          .next (takeOwnTrap s1 k.toNat .A ⟨.pageNotPresent, 0, va⟩ t.sa.pc)) ∧
        (walk s t.ctx false true (vaOff va) = .broken → exec (.permitReply ⟨k, p⟩) s =
          .next (queueEvent (countUncorr s1) (.fatalContext t.ctx false))))) ∧
    (vaSpace va = 2 → exec (.permitReply ⟨k, true⟩) s = .next (putTask s k.toNat (setWait t .A (.hostOk va))) ∧
      exec (.permitReply ⟨k, false⟩) s = .next (takeOwnTrap s1 k.toNat .A ⟨.pageNotPresent, 0, va⟩ t.sa.pc)))
/-! ### Capabilities (R37 to R43, R233 to R235) -/

/-- R67, R76, R229: the store buffer performs its oldest entry; a permit is asked for and answered. -/
def Obligations.StoresPerformed : Prop := StoreBufferPerforms ∧ PermitsAnswered

namespace Sys2Proof.Claims

/-- A getter writes or pushes `f` of its capability, tagged or not. -/
def GetterGives (mk : BitVec 5 → BitVec 5 → BitVec 1 → Instr) (f : Cap → Word) : Prop :=
  ∀ (s : State) (t : Task) (d c : BitVec 5) (m : BitVec 1), Issues s t → HasRoom t d (m.getLsbD 0) →
    exec (mk d c m) s = .next (goesOn s (withResult t s.cur.2 d (m.getLsbD 0) (f (capVal t c.toNat))))

/-- A derivation of a tagged, unsealed capability leaves `f` of it where `ok` holds; other sources trap (R233). -/
def DerivationGives (mk : BitVec 5 → BitVec 5 → BitVec 5 → BitVec 1 → Instr) (ok : Cap → Word → Prop)
    (f : Cap → Word → Cap) : Prop :=
  ∀ (s : State) (t u : Task) (y : Word) (d c b : BitVec 5) (m : BitVec 1), Issues s t →
    operandOf t s.cur.2 b (m.getLsbD 0) = some (y, u) →
    let x := capVal t c.toNat
    (x.tag = true → capSealed x = false → ok x y → exec (mk d c b m) s = .next (goesOn s (setCap u d.toNat (f x y)))) ∧
    (x.tag = false → TrapsWith (mk d c b m) s .capTag 0 0) ∧
    (x.tag = true → capSealed x = true → TrapsWith (mk d c b m) s .capSealed 0 0)

/-- The bounds of a request, as R42 rounds them, lie within those of a capability. -/
def Encloses (x : Cap) (b t : Nat) : Prop :=
  t ≤ 2 ^ 64 ∧ capBase x ≤ (encodeBounds b t).2.1 ∧ (encodeBounds b t).2.2 ≤ capTop x

/-- What KCLIP leaves (R234): the bounds of R42 for `y` bytes from the address, every other field that of the source. -/
def clipped (x : Cap) (y : Word) : Cap :=
  let r := capMake (capAddr x) (capAddr x).toNat ((capAddr x).toNat + y.toNat) (capPerms x) (capType x) true
  ⟨x.bits.extractLsb' 120 8 ++ r.bits.extractLsb' 0 120, true⟩

/-- `d` grants nothing that `c` does not: its bytes and its permissions are among those of `c`. -/
def NoMoreThan (d c : Cap) : Prop :=
  (∀ a : Nat, capBase d ≤ a → a < capTop d → capBase c ≤ a ∧ a < capTop c) ∧ (∀ p, hasPerm d p = true → hasPerm c p = true)

/-- The checks of the authority of a seal or an unseal in their order, each with its trap and detail (R235 rows 3 to 8). -/
def sealChecks (k : Cap) (perm : Nat) : List (Bool × Cause × Nat) :=
  let n := (capAddr k).toNat
  [(k.tag, .capTag, 0), (!capSealed k, .capSealed, 0), (hasPerm k perm, .capPerm, 0),
   (decide (capBase k ≤ n ∧ n + 1 ≤ capTop k), .capBounds, 0), (decide (1 ≤ n ∧ n ≤ 15), .capPerm, 1),
   (decide (3 < n) || hasPerm k permADMIN, .capPerm, 0)]

/-- The first check of a list that fails is the one that traps; with none the instruction runs. -/
def FirstFailure (checks : List (Bool × Cause × Nat)) (i : Instr) (s next : State) : Prop :=
  ((∀ c ∈ checks, c.1 = true) → exec i s = .next next) ∧
  (∀ (n : Nat) (c : Bool × Cause × Nat), checks[n]? = some c → c.1 = false → (∀ m, m < n → ((checks[m]?).all (·.1)) = true) →
    TrapsWith i s c.2.1 c.2.2 0)

end Sys2Proof.Claims

/-- R233, R234: the getters, KDIFF and KSPAN, with their frame. -/
def Obligations.CapabilityGetters : Prop :=
  GetterGives .kbase (fun c => BitVec.ofNat 64 (capBase c)) ∧
  GetterGives .klen (fun c => if 2 ^ 64 ≤ capTop c - capBase c then BitVec.allOnes 64 else BitVec.ofNat 64 (capTop c - capBase c)) ∧
  GetterGives .kperm (fun c => (c.bits.extractLsb' 64 16).setWidth 64) ∧ GetterGives .ktag (fun c => if c.tag then 1 else 0) ∧
  GetterGives .ktype (fun c => (c.bits.extractLsb' 80 4).setWidth 64) ∧ GetterGives .kaddr (fun c => c.bits.extractLsb' 0 64) ∧
  (∀ (s : State) (t : Task) (d a b : BitVec 5) (m : BitVec 1), Issues s t → HasRoom t d (m.getLsbD 0) →
    exec (.kdiff d a b m) s = .next (goesOn s (withResult t s.cur.2 d (m.getLsbD 0)
      (capAddr (capVal t a.toNat) - capAddr (capVal t b.toNat)))) ∧
    exec (.kspan d a b m) s = .next (goesOn s (withResult t s.cur.2 d (m.getLsbD 0)
      (spanWord (regVal t s.cur.2 a) (regVal t s.cur.2 b)))))

/-- R43, R233, R234: the derivations KSETA, KADD, KADDI, KCLIP, KCLIPX and KMASK, KDROP and KMOV: their results, the traps
of their sources, and nothing else changed. -/
def Sys2Proof.Claims.CapabilityDerivations : Prop :=
  DerivationGives .kseta (fun _ _ => True) (fun x y => capSetAddr x y) ∧
  DerivationGives .kadd (fun _ _ => True) (fun x y => capSetAddr x (capAddr x + y)) ∧
  DerivationGives .kclip (fun x y => Encloses x (capAddr x).toNat ((capAddr x).toNat + y.toNat)) clipped ∧
  DerivationGives .kclipx (fun x y => Encloses x (capAddr x).toNat ((capAddr x).toNat + y.toNat) ∧
      (encodeBounds (capAddr x).toNat ((capAddr x).toNat + y.toNat)).2 = ((capAddr x).toNat, (capAddr x).toNat + y.toNat))
    clipped ∧
  DerivationGives .kmask (fun _ _ => True)
    (fun x y => ⟨(x.bits.extractLsb' 80 48 ++ (x.bits.extractLsb' 64 16 &&& y.extractLsb' 0 16)) ++ x.bits.extractLsb' 0 64, x.tag⟩) ∧
  (∀ (s : State) (t : Task) (d c : BitVec 5) (i : BitVec 16), Issues s t →
    let x := capVal t c.toNat
    (x.tag = true → capSealed x = false →
      exec (.kaddi d c i) s = .next (goesOn s (setCap t d.toNat (capSetAddr x (capAddr x + i.signExtend 64))))) ∧
    (x.tag = false → TrapsWith (.kaddi d c i) s .capTag 0 0) ∧
    (capSealed x = false → exec (.kdrop d c) s = .next (goesOn s (setCap t d.toNat { x with tag := false }))) ∧
    (capSealed x = true → TrapsWith (.kdrop d c) s .capSealed 0 0) ∧
    exec (.kmov d c) s = .next (goesOn s (setCap t d.toNat x))) ∧
  (∀ (s : State) (t u : Task) (y : Word) (d c b : BitVec 5) (m : BitVec 1), Issues s t →
    operandOf t s.cur.2 b (m.getLsbD 0) = some (y, u) → (capVal t c.toNat).tag = true → capSealed (capVal t c.toNat) = false →
    ¬ Encloses (capVal t c.toNat) (capAddr (capVal t c.toNat)).toNat ((capAddr (capVal t c.toNat)).toNat + y.toNat) →
    TrapsWith (.kclip d c b m) s .capBounds 0 0 ∧ TrapsWith (.kclipx d c b m) s .capBounds 0 0) ∧
  (∀ (s : State) (t u : Task) (y : Word) (d c b : BitVec 5) (m : BitVec 1), Issues s t →
    operandOf t s.cur.2 b (m.getLsbD 0) = some (y, u) →
    let x := capVal t c.toNat
    let b0 := (capAddr x).toNat
    x.tag = true → capSealed x = false → Encloses x b0 (b0 + y.toNat) → (encodeBounds b0 (b0 + y.toNat)).2 ≠ (b0, b0 + y.toNat) →
    TrapsWith (.kclipx d c b m) s .capBounds 1 0)

/-- R235: KSEAL gives a type and KUNSEAL takes it away under an authority; the first check of the rule that fails traps,
with its detail. -/
def Sys2Proof.Claims.SealAndUnseal : Prop :=
  ∀ (s : State) (t : Task) (d c e : BitVec 5), Issues s t →
    let x := capVal t c.toNat
    let k := capVal t e.toNat
    let typed := fun (n : BitVec 4) => (⟨(x.bits.extractLsb' 84 44 ++ n) ++ x.bits.extractLsb' 0 80, x.tag⟩ : Cap)
    FirstFailure ((x.tag, .capTag, 0) :: (!capSealed x, .capSealed, 0) :: sealChecks k permWRAP) (.kseal d c e) s
      (goesOn s (setCap t d.toNat (typed (k.bits.extractLsb' 0 4)))) ∧
    FirstFailure ((x.tag, .capTag, 0) ::
        (capSealed x && decide ((capType x).toNat = (capAddr k).toNat), .capPerm, 1) :: sealChecks k permUNWRAP)
      (.kunseal d c e) s (goesOn s (setCap t d.toNat (typed 0)))

/-- R43, R233 to R235: derivations, KSEAL and KUNSEAL. -/
def Obligations.CapabilityResults : Prop := CapabilityDerivations ∧ SealAndUnseal

/-- R43, R47: no derivation widens what a capability grants: where the result is tagged, its bytes and permissions are
among those of the source. -/
def Obligations.DerivationsNeverWiden : Prop :=
  ∀ x : Cap, x.tag = true →
    (∀ a : Word, (capSetAddr x a).tag = true → NoMoreThan (capSetAddr x a) x) ∧
    (∀ y : Word, Encloses x (capAddr x).toNat ((capAddr x).toNat + y.toNat) → NoMoreThan (clipped x y) x) ∧
    (∀ m : BitVec 16, NoMoreThan (capPut x 64 16 (capPerms x &&& m).toNat) x) ∧
    (∀ n : BitVec 4, NoMoreThan (capPut x 80 4 n.toNat) x) ∧
    (∀ ps : List Nat, (∀ p ∈ ps, p < 16) → NoMoreThan (capDropPerms x ps) x ∧ ∀ p ∈ ps, hasPerm (capDropPerms x ps) p = false)

/-! ### Floating point (R152 to R158, R168, R208 to R214) -/

namespace Sys2Proof.Claims

/-- An instruction whose flags are `f` runs when none of them is enabled, with the flags recorded; else NUM_FLAG (R168,
R214). -/
def FlagsThen (s : State) (i : Instr) (f : Nat) (next : BitVec 5 → State) : Prop :=
  ((f &&& (numtrapNow s).toNat) % 32 = 0 → exec i s = .next (next (BitVec.ofNat 5 f))) ∧
  ((f &&& (numtrapNow s).toNat) % 32 ≠ 0 → TrapsWith i s .numFlag (f % 32) 0)

/-- A scalar operation of two operands of a type. -/
def FloatGives (mk : BitVec 5 → BitVec 5 → BitVec 5 → BitVec 3 → BitVec 4 → Instr)
    (g : FloatFmt → BitVec 4 → Nat → Nat → Nat × Nat) : Prop :=
  ∀ (s : State) (t u v : Task) (x y : Word) (d a b : BitVec 5) (m : BitVec 3) (ty : BitVec 4), Issues s t →
    HasRoom t d (m.getLsbD 0) → operandOf t s.cur.2 a (m.getLsbD 1) = some (x, u) →
    operandOf u s.cur.2 b (m.getLsbD 2) = some (y, v) →
    let f := floatOf ty
    let r := g f (modeOf t) (x.toNat % 2 ^ f.width) (y.toNat % 2 ^ f.width)
    FlagsThen s (mk d a b m ty) r.2 (fun fl =>
      goesOn s (withResult (setFlags v fl) s.cur.2 d (m.getLsbD 0) (BitVec.ofNat 64 r.1)))

/-- An arithmetic function of two values, as FPMODE reads them. -/
def ofNums (g : FloatFmt → BitVec 4 → Machine.Num → Machine.Num → Nat × Nat) (f : FloatFmt) (mode : BitVec 4) (x y : Nat) : Nat × Nat :=
  g f mode (operand f mode x) (operand f mode y)

end Sys2Proof.Claims

/-- R208 to R214: each scalar floating-point operation computes on the low bits of its operands under FPMODE, records its
flags and writes its result; an enabled flag traps and nothing is written. -/
def Sys2Proof.Claims.ScalarFloatResults : Prop :=
  FloatGives .fadd (ofNums addNum) ∧ FloatGives .fsub (ofNums (fun f m x y => addNum f m x y.negate)) ∧
  FloatGives .fmul (ofNums mulNum) ∧ FloatGives .fdiv (ofNums divNum) ∧
  FloatGives .fmin (fun f m x y => minMaxFloat f m false x y) ∧ FloatGives .fmax (fun f m x y => minMaxFloat f m true x y) ∧
  FloatGives .feq (fun f m x y => ((compareFloat f m numEq x y).1.toNat, (compareFloat f m numEq x y).2)) ∧
  FloatGives .flt (fun f m x y => ((compareFloat f m numLt x y).1.toNat, (compareFloat f m numLt x y).2)) ∧
  FloatGives .fle (fun f m x y => ((compareFloat f m numLe x y).1.toNat, (compareFloat f m numLe x y).2)) ∧
  (∀ (s : State) (t u v : Task) (x y : Word) (d a b : BitVec 5) (q : BitVec 2) (ty : BitVec 4), Issues s t →
    operandOf t s.cur.2 a (q.getLsbD 0) = some (x, u) → operandOf u s.cur.2 b (q.getLsbD 1) = some (y, v) →
    let f := floatOf ty
    let z := fun (w : Word) => operand f (modeOf t) (w.toNat % 2 ^ f.width)
    let r := fmaNum f (modeOf t) (z x) (z y) (z (regVal t s.cur.2 d))
    FlagsThen s (.fmadd d a b q ty) r.2 (fun fl => goesOn s (setReg (setFlags v fl) s.cur.2 d (BitVec.ofNat 64 r.1)))) ∧
  (∀ (s : State) (t u : Task) (x : Word) (d a : BitVec 5) (ty : BitVec 4) (q : BitVec 2) (to' : BitVec 4), Issues s t →
    HasRoom t d (q.getLsbD 0) → operandOf t s.cur.2 a (q.getLsbD 1) = some (x, u) →
    let f := floatOf ty
    let r := sqrtNum f (modeOf t) (operand f (modeOf t) (x.toNat % 2 ^ f.width))
    let c := convert to' ty (modeOf t) x.toNat
    FlagsThen s (.fsqrt d a q ty) r.2 (fun fl =>
      goesOn s (withResult (setFlags u fl) s.cur.2 d (q.getLsbD 0) (BitVec.ofNat 64 r.1))) ∧
    FlagsThen s (.fcvt d a to' q ty) c.2 (fun fl =>
      goesOn s (withResult (setFlags u fl) s.cur.2 d (q.getLsbD 0) (extendWord to' c.1))) ∧
    exec (.fclass d a q ty) s = .next (goesOn s (withResult u s.cur.2 d (q.getLsbD 0)
      (BitVec.ofNat 64 (2 ^ classOf f (x.toNat % 2 ^ f.width)))))) ∧
  (∀ (s : State) (t u v : Task) (x y : Word) (d a b : BitVec 5) (m : BitVec 3) (ty : BitVec 4), Issues s t →
    HasRoom t d (m.getLsbD 0) → operandOf t s.cur.2 a (m.getLsbD 1) = some (x, u) →
    operandOf u s.cur.2 b (m.getLsbD 2) = some (y, v) →
    let n := (floatOf ty).width - 1
    exec (.fsgn d a b m ty) s = .next (goesOn s (withResult v s.cur.2 d (m.getLsbD 0)
      (BitVec.ofNat 64 (x.toNat % 2 ^ n + if y.getLsbD n then 2 ^ n else 0)))))

/-- R154 to R157, R210: a NaN operand gives the canonical NaN in arithmetic, and INVALID when it is signalling; it compares
false; an exact sum or product of finite numbers that the format holds comes back without a flag. -/
def Sys2Proof.Claims.FloatSpecialValues : Prop :=
  ∀ (f : FloatFmt) (mode : BitVec 4), f = f16Fmt ∨ f = b16Fmt ∨ f = f32Fmt →
    (∀ x y : Machine.Num, (∃ q, x = .nan q) ∨ (∃ q, y = .nan q) →
      let fl := if x = .nan true ∨ y = .nan true then 1 else 0
      addNum f mode x y = (f.qnan, fl) ∧ mulNum f mode x y = (f.qnan, fl) ∧ divNum f mode x y = (f.qnan, fl) ∧
      numEq x y = false ∧ numLt x y = false ∧ numLe x y = false) ∧
    (∀ n : Bool, addNum f mode (.inf n) (.inf !n) = (f.qnan, 1) ∧ addNum f mode (.inf n) (.inf n) = (f.infBits n, 0)) ∧
    (∀ (n : Bool) (x : Nat), x < 2 ^ f.width → ∀ neg m e, decodeFloat f x = .fin neg m e → m ≠ 0 → isSubnormal f x = false →
      mulNum f mode (.fin neg m e) (.fin n 1 0) = (if n then x ^^^ 2 ^ (f.width - 1) else x, 0))

namespace Sys2Proof.Claims

/-- An f32 pattern with a sign. -/
def bySign (n : Bool) (x : Nat) : Nat := if n then x + 2 ^ 31 else x

/-- The rounding mode that goes away from zero for a sign. -/
def away (n : Bool) : BitVec 4 := if n then 3 else 2

/-- The sum of two f32 numbers of one sign. -/
def addBySign (n : Bool) (mode : BitVec 4) (x y : Nat) : Nat × Nat := ofNums addNum f32Fmt mode (bySign n x) (bySign n y)

/-- Half of an f32 number of a sign. -/
def halfBySign (n : Bool) (mode : BitVec 4) (x : Nat) : Nat × Nat := ofNums mulNum f32Fmt mode (bySign n x) 0x3F000000

end Sys2Proof.Claims

/-- R155, R156: rounding in the four modes at boundary values of f32, each worked out from the rule: ties and values on
either side of one, overflow at half a unit above the largest number and far above it, results below the least normal
number with and without FTZ, and DAZ. -/
def Sys2Proof.Claims.RoundingModes : Prop :=
  (∀ (n : Bool) (mode : BitVec 4), mode < 4 →
    addBySign n mode 0x3F800000 0x33800000 = (bySign n (if mode = away n then 0x3F800001 else 0x3F800000), 8) ∧
    addBySign n mode 0x3F800001 0x33800000 = (bySign n (if mode = away n ∨ mode = 0 then 0x3F800002 else 0x3F800001), 8) ∧
    addBySign n mode 0x3F800000 0x33800001 = (bySign n (if mode = away n ∨ mode = 0 then 0x3F800001 else 0x3F800000), 8) ∧
    addBySign n mode 0x7F7FFFFF 0x73000000 =
      (if mode = away n ∨ mode = 0 then (bySign n 0x7F800000, 10) else (bySign n 0x7F7FFFFF, 8)) ∧
    addBySign n mode 0x7F7FFFFF 0x7F7FFFFF = (bySign n (if mode = away n ∨ mode = 0 then 0x7F800000 else 0x7F7FFFFF), 10) ∧
    halfBySign n mode 0x1 = (bySign n (if mode = away n then 1 else 0), 12) ∧
    halfBySign n mode 0x00800000 = (bySign n 0x00400000, 0) ∧
    halfBySign n mode 0x00FFFFFF = (bySign n (if mode = away n ∨ mode = 0 then 0x00800000 else 0x007FFFFF), 12) ∧
    addBySign n mode 1 1 = (bySign n 2, 0) ∧ halfBySign n (mode ||| 4) 0x00800000 = (bySign n 0, 12) ∧
    addBySign n (mode ||| 8) 1 1 = (bySign n 0, 0)) ∧
  ofNums divNum f32Fmt 0 0x3F800000 0x40400000 = (0x3EAAAAAB, 8) ∧ ofNums divNum f32Fmt 1 0x3F800000 0x40400000 = (0x3EAAAAAA, 8) ∧
  sqrtNum f32Fmt 0 (operand f32Fmt 0 0x40000000) = (0x3FB504F3, 8) ∧ sqrtNum f32Fmt 2 (operand f32Fmt 2 0x40000000) = (0x3FB504F4, 8) ∧
  (let z := fun x => operand f32Fmt 0 x
   fmaNum f32Fmt 0 (z 0x3F800001) (z 0x3F800001) (z 0xBF800002) = (0x28800000, 0)) ∧
  ofNums addNum f16Fmt 0 0x7BFF 0x4C00 = (0x7C00, 10) ∧ ofNums addNum f16Fmt 1 0x7BFF 0x4C00 = (0x7BFF, 8) ∧
  ofNums addNum b16Fmt 0 0x3F80 0x3B80 = (0x3F80, 8) ∧ ofNums addNum b16Fmt 2 0x3F80 0x3B80 = (0x3F81, 8)

/-- R154, R157, R158, R213: the minimum and maximum examples of Table 3 of R157, and conversions at boundary values:
overflow of f16, ties to integers, the saturation of an integer at either end, and a NaN. -/
def Sys2Proof.Claims.MinMaxAndConversions : Prop :=
  minMaxFloat f32Fmt 0 false 0 0x80000000 = (0x80000000, 0) ∧ minMaxFloat f32Fmt 0 true 0 0x80000000 = (0, 0) ∧
  minMaxFloat f32Fmt 0 false 0x7FC00001 0x40000000 = (0x40000000, 0) ∧
  minMaxFloat f32Fmt 0 true 0xFF800001 0x40000000 = (0x40000000, 1) ∧
  minMaxFloat f32Fmt 0 false 0x7FC00001 0xFFC00000 = (0x7FC00000, 0) ∧
  minMaxFloat f32Fmt 8 true 0x00000001 0x7FC00000 = (0, 0) ∧
  (∀ mode : BitVec 4, mode < 4 →
    convert 6 8 mode 0x477FF000 = (if mode = 0 ∨ mode = 2 then (0x7C00, 10) else (0x7BFF, 8)) ∧
    convert 0 8 mode 0x40200000 = (if mode = 2 then 3 else 2, 8) ∧
    convert 0 8 mode 0xC0200000 = (if mode = 3 then 0xFFFFFFFD else 0xFFFFFFFE, 8) ∧
    convert 0 8 mode 0x4F000000 = (0x7FFFFFFF, 1) ∧ convert 0 8 mode 0xCF000000 = (0x80000001, 1) ∧
    convert 0 8 mode 0x7FC00000 = (0x80000000, 1) ∧ convert 5 8 mode 0xBF800000 = (0, 1) ∧
    convert 8 0 mode 0x1000001 = (if mode = 2 then 0x4B800001 else 0x4B800000, 8))

/-- R152 to R158, R208 to R214: the scalar operations, their special values, and rounding at boundary values. -/
def Obligations.FloatingPointScalar : Prop := ScalarFloatResults ∧ FloatSpecialValues ∧ RoundingModes ∧ MinMaxAndConversions

/-! ### Vectors and masks (R244 to R261) -/

namespace Sys2Proof.Claims

/-- Lane `i` of a vector. -/
def lane (x : VecWord) (i : Nat) : BitVec 32 := x.extractLsb' (32 * i) 32

/-- A lane-wise operation on a type: active lanes take `f` of FPMODE, the old lane and the source lanes, extended; the
others keep their value; the flags of the active lanes are recorded, or trap and nothing is written (R245, R262). -/
def LanesGive (i : BitVec 5 → BitVec 5 → BitVec 5 → BitVec 3 → BitVec 4 → Instr)
    (f : BitVec 4 → BitVec 4 → Nat → Nat → Nat → Nat × Nat) : Prop :=
  ∀ (s : State) (t : Task) (v a b : BitVec 5) (k : BitVec 3) (ty : BitVec 4), Issues s t →
    let g := fun (j : Nat) => f ty (modeOf t) ((lane t.v[v.toNat] j).toNat % 2 ^ typeWidth ty)
      ((lane t.v[a.toNat] j).toNat % 2 ^ typeWidth ty) (lane t.v[b.toNat] j).toNat
    ∃ w : VecWord, (∀ j, j < 64 → lane w j = if (maskVal t k).getLsbD j then BitVec.ofNat 32 (extendLane ty (g j).1)
        else lane t.v[v.toNat] j) ∧
      FlagsThen s (i v a b k ty) (laneFlags (maskVal t k) g) (fun fl => goesOn s (setVec (setFlags t fl) v w))

/-- A move of lanes, which sets no flag: lane `j` of the result is `f t j`. -/
def MovesLanes (i : Instr) (v : BitVec 5) (f : Task → Nat → BitVec 32) : Prop :=
  ∀ (s : State) (t : Task), Issues s t →
    ∃ w : VecWord, (∀ j, j < 64 → lane w j = f t j) ∧ exec i s = .next (goesOn s (setVec t v w))

/-- Lanes of type i32: `f` on 32-bit words, wrapping, with no flag. -/
def WordLanes (i : BitVec 5 → BitVec 5 → BitVec 5 → BitVec 3 → BitVec 4 → Instr)
    (f : BitVec 32 → BitVec 32 → BitVec 32 → BitVec 32) : Prop :=
  ∀ (v a b : BitVec 5) (k : BitVec 3), MovesLanes (i v a b k 0) v (fun t j =>
    if (maskVal t k).getLsbD j then f (lane t.v[v.toNat] j) (lane t.v[a.toNat] j) (lane t.v[b.toNat] j) else lane t.v[v.toNat] j)

end Sys2Proof.Claims

/-- R244 to R250, R262: the lane-wise instructions for every type. -/
def Sys2Proof.Claims.VectorLaneResults : Prop :=
  LanesGive .vadd (fun ty => arithLane ty (· + ·) addNum) ∧
  LanesGive .vsub (fun ty => arithLane ty (· - ·) (fun f m x y => addNum f m x y.negate)) ∧
  LanesGive .vmul (fun ty => arithLane ty (· * ·) mulNum) ∧ LanesGive .vfma fmaLane ∧
  LanesGive .vdiv (fun ty => arithLane ty (divInt ty) divNum) ∧ LanesGive (fun v a _ k ty => .vsqrt v a k ty) sqrtLane ∧
  LanesGive .vmin (fun ty => minMaxLane ty false) ∧ LanesGive .vmax (fun ty => minMaxLane ty true) ∧
  LanesGive (fun v a _ k ty => .vabs v a k ty) absLane ∧ LanesGive (fun v a _ k ty => .vneg v a k ty) negLane ∧
  LanesGive .vand (fun ty => logicLane ty (· &&& ·)) ∧ LanesGive .vor (fun ty => logicLane ty (· ||| ·)) ∧
  LanesGive .vxor (fun ty => logicLane ty (· ^^^ ·)) ∧ LanesGive .vshl shlLane ∧ LanesGive .vshr shrLane ∧
  LanesGive .vsar sarLane

/-- R247 to R250 for type i32, said on 32-bit words: wrapping arithmetic, signed minimum and maximum, division toward zero
with all ones for a zero divisor, and shifts by the low six bits of the count. -/
def Sys2Proof.Claims.VectorWordLanes : Prop :=
  WordLanes .vadd (fun _ x y => x + y) ∧ WordLanes .vsub (fun _ x y => x - y) ∧ WordLanes .vmul (fun _ x y => x * y) ∧
  WordLanes .vfma (fun d x y => d + x * y) ∧
  WordLanes .vdiv (fun _ x y => if y = 0 then BitVec.allOnes 32 else x.sdiv y) ∧
  WordLanes .vmin (fun _ x y => if x.slt y then x else y) ∧ WordLanes .vmax (fun _ x y => if x.slt y then y else x) ∧
  WordLanes .vand (fun _ x y => x &&& y) ∧ WordLanes .vor (fun _ x y => x ||| y) ∧ WordLanes .vxor (fun _ x y => x ^^^ y) ∧
  WordLanes .vshl (fun _ x y => x <<< (y.toNat % 64)) ∧ WordLanes .vshr (fun _ x y => x >>> (y.toNat % 64)) ∧
  WordLanes .vsar (fun _ x y => x.sshiftRight (y.toNat % 64)) ∧
  WordLanes (fun v a _ k ty => .vabs v a k ty) (fun _ x _ => if x.slt 0 then -x else x) ∧
  WordLanes (fun v a _ k ty => .vneg v a k ty) (fun _ x _ => -x)

/-- R244 to R250, R262: the lane-wise instructions, for every type and, on words, for i32. -/
def Obligations.VectorLanes : Prop := VectorLaneResults ∧ VectorWordLanes

/-- R251 to R254, R260: compares, selects, permutations, broadcasts, insertions, extractions, lane numbers and the vector
queues. -/
def Sys2Proof.Claims.VectorMoves : Prop :=
  (∀ (v a b : BitVec 5) (k : BitVec 3), MovesLanes (.vsel v a b k) v (fun t j =>
    if (maskVal t k).getLsbD j then lane t.v[a.toNat] j else lane t.v[b.toNat] j)) ∧
  (∀ (v a b : BitVec 5) (k : BitVec 3), MovesLanes (.vperm v a b k) v (fun t j =>
    if (maskVal t k).getLsbD j then
      (if (lane t.v[b.toNat] j).toNat < 64 then lane t.v[a.toNat] (lane t.v[b.toNat] j).toNat else 0)
    else lane t.v[v.toNat] j)) ∧
  (∀ (v e : BitVec 5) (k : BitVec 3) (ty : BitVec 4), MovesLanes (.vbcast v e k ty) v (fun t j =>
    if (maskVal t k).getLsbD j then BitVec.ofNat 32 (extendLane ty (regVal t .E e).toNat) else lane t.v[v.toNat] j)) ∧
  (∀ (v : BitVec 5) (k : BitVec 3) (ty : BitVec 4), MovesLanes (.viota v k ty) v (fun t j =>
    if (maskVal t k).getLsbD j then BitVec.ofNat 32 (extendLane ty ((List.range j).countP (fun n => (maskVal t k).getLsbD n)))
    else lane t.v[v.toNat] j)) ∧
  (∀ (s : State) (t : Task) (v e g : BitVec 5) (ty : BitVec 4), Issues s t →
    ((regVal t .E g).toNat < 64 →
      (∃ w : VecWord, (∀ j, j < 64 → lane w j = if j = (regVal t .E g).toNat then
          BitVec.ofNat 32 (extendLane ty (regVal t .E e).toNat) else lane t.v[v.toNat] j) ∧
        exec (.vins v e g ty) s = .next (goesOn s (setVec t v w))) ∧
      exec (.vext e v g ty) s = .next (goesOn s (setReg t .E e
        (extendWord ty ((lane t.v[v.toNat] (regVal t .E g).toNat).toNat % 2 ^ typeWidth ty))))) ∧
    (64 ≤ (regVal t .E g).toNat → TrapsWith (.vins v e g ty) s .illegalOp 9 0 ∧ TrapsWith (.vext e v g ty) s .illegalOp 9 0) ∧
    (∀ x r, t.vlq = some x :: r → exec (.vlq v) s = .next (goesOn s (setVec { t with vlq := r } v x))) ∧
    (t.vsq.length < 4 → exec (.vsq v) s = .next (goesOn s { t with vsq := t.vsq ++ [some t.v[v.toNat]] })) ∧
    (4 ≤ t.vsq.length → exec (.vsq v) s = .next { s with hold := .queue 0x17 })) ∧
  (∀ (s : State) (t : Task) (c : BitVec 2) (m : BitVec 3) (a b : BitVec 5) (k : BitVec 3) (ty : BitVec 4), Issues s t →
    let g := fun (j : Nat) => cmpLane c ty (modeOf t) ((lane t.v[a.toNat] j).toNat % 2 ^ typeWidth ty)
      ((lane t.v[b.toNat] j).toNat % 2 ^ typeWidth ty)
    ∃ w : Word, (∀ j, j < 64 → w.getLsbD j = ((maskVal t k).getLsbD j && (g j).1)) ∧
      FlagsThen s (.vcmp c m a b k ty) (laneFlags (maskVal t k) (fun j => (0, (g j).2)))
        (fun fl => goesOn s (setMask (setFlags t fl) m w)))

namespace Sys2Proof.Claims

/-- Element `i` at level `n` of the tree of R255, with the flags of its combinations. -/
def treeElem (f : Option Nat → Option Nat → Option Nat × Nat) (p : Nat → Option Nat) : Nat → Nat → Option Nat × Nat
  | 0, i => (p i, 0)
  | n + 1, i =>
    let a := treeElem f p n (2 * i)
    let b := treeElem f p n (2 * i + 1)
    ((f a.1 b.1).1, a.2 ||| b.2 ||| (f a.1 b.1).2)

/-- What the scan of R256 holds after its first `n` lanes, with the flags of its steps. -/
def scanned (f : Option Nat → Option Nat → Option Nat × Nat) (p : Nat → Option Nat) : Nat → Option Nat × Nat
  | 0 => (none, 0)
  | n + 1 =>
    let r := scanned f p n
    if p n = none then r else ((f r.1 (p n)).1, r.2 ||| (f r.1 (p n)).2)

/-- The active lanes of a vector as elements of a type. -/
def activeElem (t : Task) (a : BitVec 5) (k : BitVec 3) (ty : BitVec 4) (i : Nat) : Option Nat :=
  if (maskVal t k).getLsbD i then some ((lane t.v[a.toNat] i).toNat % 2 ^ typeWidth ty) else none

end Sys2Proof.Claims

/-- R142, R161, R255, R256: the worked examples of the reduction and of the scan, the block of Table 5, the block of a NaN,
that of zeros, and one whose least value underflows. -/
def Sys2Proof.Claims.TreesAndBlocks : Prop :=
  (let p := fun (i : Nat) => ([0x4B800000, 0x3F800000, 0x3F800000, 0xCB800000] : List Nat)[i]?
   treeElem (comb 0 8 0) p 6 0 = (some 0x3F800000, 8) ∧
   (∀ i, i < 3 → scanned (comb 0 8 0) p (i + 1) = (some 0x4B800000, if i = 0 then 0 else 8)) ∧
   scanned (comb 0 8 0) p 4 = (some 0, 8)) ∧
  (∀ (o : BitVec 3) (ty mode : BitVec 4) (p : Nat → Option Nat), (∀ i, p i = none) → treeElem (comb o ty mode) p 6 0 = (none, 0)) ∧
  (let zeros := fun (n : Nat) => List.replicate n (operand f32Fmt 0 0)
   let b := toBlock 4 (([0x40400000, 0xBFA00000, 0x3E99999A, 0x40733333] : List Nat).map (operand f32Fmt 0) ++ zeros 28)
   b.mants.take 5 = [6, 0xE, 1, 7, 0] ∧ packBits 4 (b.mants.take 4) = 0x71E6 ∧ b.expo = 0x80 ∧ b.flags = 8 + 16 ∧ b.sats = 1 ∧
   (let z := toBlock 4 (zeros 32); z.expo = 0 ∧ z.flags = 0 ∧ ∀ m ∈ z.mants, m = 0) ∧
   (let q := toBlock 8 (operand f32Fmt 0 0x7FC00000 :: zeros 31); q.expo = 255 ∧ q.flags = 0) ∧
   (let q := toBlock 8 (operand f32Fmt 0 0x7F800000 :: zeros 31); q.expo = 255 ∧ q.flags = 1) ∧
   (let q := toBlock 2 (operand f32Fmt 0 0x3F800000 :: operand f32Fmt 0 0x3E800000 :: zeros 30)
    q.expo = 127 ∧ q.mants.take 2 = [1, 0] ∧ q.flags = 12))

/-- R255 to R258: reductions by the fixed tree, scans, and conversions between element types and of block formats. -/
def Sys2Proof.Claims.VectorReductionResults : Prop :=
  ∀ (s : State) (t : Task) (v a : BitVec 5) (o k : BitVec 3) (ty u : BitVec 4), Issues s t →
    (let r := treeElem (comb o ty (modeOf t)) (activeElem t a k ty) 6 0
      ∃ w : VecWord, lane w 0 = BitVec.ofNat 32 (extendLane ty (r.1.getD (redIdentity o ty))) ∧
        (∀ j, 0 < j → j < 64 → lane w j = 0) ∧
        FlagsThen s (.vred v a o k ty) r.2 (fun fl => goesOn s (setVec (setFlags t fl) v w))) ∧
    (let r := scanned (comb o ty (modeOf t)) (activeElem t a k ty)
      ∃ w : VecWord, (∀ j, j < 64 → lane w j = if (maskVal t k).getLsbD j then BitVec.ofNat 32 (extendLane ty ((r (j + 1)).1.getD 0))
          else lane t.v[v.toNat] j) ∧
        FlagsThen s (.vscan v a o k ty) (r 64).2 (fun fl => goesOn s (setVec (setFlags t fl) v w))) ∧
    (u.toNat < 9 → ty.toNat < 9 →
      let g := fun (j : Nat) => convert u ty (modeOf t) ((lane t.v[a.toNat] j).toNat % 2 ^ typeWidth ty)
      ∃ w : VecWord, (∀ j, j < 64 → lane w j = if (maskVal t k).getLsbD j then BitVec.ofNat 32 (extendLane u (g j).1)
          else lane t.v[v.toNat] j) ∧
        FlagsThen s (.vcvt v a u k ty) (laneFlags (maskVal t k) g) (fun fl => goesOn s (setVec (setFlags t fl) v w))) ∧
    (9 ≤ ty.toNat → u.toNat < 9 →
      let ms := unpackBits (ty.toNat - 7) t.v[a.toNat].toNat 64
      let e := (regVal t .E (24 + k.setWidth 5)).toNat
      let g := fun (j : Nat) => blockToFloat (floatOf u) (modeOf t)
        (blockNum (ty.toNat - 7) (if j < 32 then e % 256 else e / 256 % 256) (ms.getD j 0))
      ∃ w : VecWord, (∀ j, j < 64 → lane w j = BitVec.ofNat 32 (extendLane u (g j).1)) ∧
        FlagsThen s (.vcvt v a u k ty) (laneFlags (BitVec.allOnes 64) g) (fun fl => goesOn s (setVec (setFlags t fl) v w))) ∧
    (9 ≤ u.toNat →
      let xs := fun (b : Nat) => (List.range 32).map (fun i => operand (floatOf ty) ((modeOf t) &&& 8)
        ((lane t.v[a.toNat] (32 * b + i)).toNat % 2 ^ typeWidth ty))
      let b0 := toBlock (u.toNat - 7) (xs 0)
      let b1 := toBlock (u.toNat - 7) (xs 1)
      let sats := b0.sats + b1.sats
      FlagsThen s (.vcvt v a u k ty) (orFlags b0.flags b1.flags) (fun fl =>
        goesOn { s with cx := if sats = 0 then s.cx else addCvtsat s.cx sats }
          (setReg (setVec (setFlags t fl) v (BitVec.ofNat 2048 (packBits (u.toNat - 7) (b0.mants ++ b1.mants)))) .E
            (24 + k.setWidth 5) (BitVec.ofNat 64 (b0.expo + 256 * b1.expo)))))

/-- R142, R161, R255 to R258: reductions, scans and conversions, with the worked examples of the spec. -/
def Obligations.VectorReductionsAndConversions : Prop := VectorReductionResults ∧ TreesAndBlocks

/-- R131, R261: the mask instructions; m0 reads as all ones and discards what is written. -/
def Sys2Proof.Claims.MaskInstructions : Prop :=
  ∀ (s : State) (t : Task), Issues s t →
    (∀ d a b, exec (.mand d a b) s = .next (goesOn s (setMask t d (maskVal t a &&& maskVal t b)))) ∧
    (∀ d a b, exec (.mor d a b) s = .next (goesOn s (setMask t d (maskVal t a ||| maskVal t b)))) ∧
    (∀ d a b, exec (.mxor d a b) s = .next (goesOn s (setMask t d (maskVal t a ^^^ maskVal t b)))) ∧
    (∀ d a, exec (.mnot d a) s = .next (goesOn s (setMask t d (~~~ maskVal t a)))) ∧
    (∀ d e, exec (.mset d e) s = .next (goesOn s (setMask t d (regVal t .E e)))) ∧
    (∀ e a, exec (.mcnt e a) s = .next (goesOn s (setReg t .E e
      (BitVec.ofNat 64 ((List.range 64).countP (fun i => (maskVal t a).getLsbD i)))))) ∧
    maskVal t 0 = BitVec.allOnes 64 ∧ (∀ w, setMask t 0 w = t) ∧ (∀ (m : BitVec 3) w, m ≠ 0 → maskVal (setMask t m w) m = w)

/-- R251 to R254, R260, R261: moves of lanes and the mask instructions. -/
def Obligations.VectorMovesAndMasks : Prop := VectorMoves ∧ MaskInstructions

/-! ### The copy engine and barriers (R95, R109, R115 to R128, R236 to R241) -/

namespace Sys2Proof.Claims

/-- The source of a command passes its checks over every owner that it runs through (R115, R236). -/
def SourceOk (s : State) (t : Task) (x : Cap) (n : Nat) (ps : List Nat) : Prop :=
  rangeCheck s t.ctx ⟨x, capAddr x, n, ps, 0, false, false⟩ (fun _ => none) = none

/-- What a read of a range needs: LD for own memory, PULL for that of each other owner (R115). -/
def pullPerms (s : State) (x : Cap) (n : Nat) : List Nat :=
  (ownerPieces (capAddr x) n).map (fun p => if isOwn s p.1 then permLD else permPULL)

/-- All of a range is the core's own memory. -/
def AllOwn (s : State) (x : Cap) (n : Nat) : Prop := ∀ p ∈ ownerPieces (capAddr x) n, isOwn s p.1 = true

/-- The destination of a command passes its checks: own memory, that it may write, and no armed landing area; of GATHER
scratchpad (R115, R236, R238). -/
def DestinationOk (s : State) (t : Task) (x : Cap) (n : Nat) (scratch : Bool) : Prop :=
  rangeCheck s t.ctx ⟨x, capAddr x, n, [permST], 0, true, false⟩ (fun va => if vaSpace va = 2 then some dtlEngineSpace
    else if scratch && decide (vaSpace va ≠ 1) then some dtlNotScratchpad else none) = none ∧
  ¬ (isOwn s (capAddr x) = true ∧ vaSpace (capAddr x) = 1 ∧ inArmed s.cx (vaOff (capAddr x)) n = true)

/-- A range of one owner (R21). -/
def OneOwner (a : Word) (n : Nat) : Prop := a.toNat % 2 ^ 43 + n ≤ 2 ^ 43

/-- A range that runs on from one owner into the next, which begins at `b`. -/
def TwoOwners (a : Word) (n : Nat) (b : Word) : Prop :=
  b.toNat = (a.toNat / 2 ^ 43 + 1) * 2 ^ 43 ∧ b.toNat < a.toNat + n ∧ a.toNat + n ≤ b.toNat + 2 ^ 43

/-- An address of the core's own scratchpad. -/
def Scratch (s : State) (va : Word) : Prop := vaSpace va = 1 ∧ isOwn s va = true

/-- The barrier object that a capability names: 32 aligned bytes of own scratchpad that it may write (R116, R240). -/
def ObjectOk (s : State) (t : Task) (x : Cap) : Prop :=
  Scratch s (capAddr x) ∧ accessCheck s t.ctx ⟨x, capAddr x, 32, [permST], 32, true, false⟩ none = none

/-- What a command names as its object: nothing for c0, else an object that passes its check. -/
def NamesObject (s : State) (t : Task) (k : BitVec 4) (o : Option (BitVec 22)) : Prop :=
  (k = 0 ∧ o = none) ∨ (k ≠ 0 ∧ ObjectOk s t (capVal t k.toNat) ∧ o = some ((capAddr (capVal t k.toNat)).extractLsb' 0 22))

/-- A command as it is pushed; a prefetch pushed while its context is being switched out is cancelled (R123). -/
def commandOf (s : State) (t : Task) (kind : CopyKind) (src dst : Cap) (n : Nat) (o : Option (BitVec 22))
    (e : Option (BitVec 3)) : CopyCmd :=
  { id := s.nextId, tid := t.tid, slot := s.cur.1, ctx := t.ctx, kind := kind, src := src, dst := dst, len := n, obj := o,
    entry := e, started := false, todo := [], parts := [], got := [], done := 0, stopped := s.switchReq && isPref kind,
    fault := false, cause := 0, lanemask := 0, faultaddr := 0, pairs := [] }

/-- The state after a push: a release has been made (R95) and the command stands last. -/
def pushed (s : State) (c : CopyCmd) : State :=
  { published s with copies := s.copies ++ [c], nextId := s.nextId + 1 }

/-- The engine takes a push: fewer than two commands wait, and the store buffer is empty for the release. -/
def EngineTakes (s : State) : Prop := (s.copies.filter (fun c => !c.started)).length < 2 ∧ s.sb = []

/-- BWAIT and BTEST with c0: number of elements, done, fault and partial (R241). -/
def countWord (rs : List Completion) (done : Bool) : Word :=
  BitVec.ofNat 64 (rs.length + (if done then 2 ^ 40 else 0) + (if rs.any (·.fault) then 2 ^ 41 else 0) +
    (if rs.any (·.part) then 2 ^ 42 else 0))

/-- The elements of a task that meet `p` are popped, and what they observed is acquired (R95, R127). -/
def popped (s : State) (t : Task) (p : Completion → Bool) : State × Task :=
  let mine := fun (r : Completion) => decide (r.tid = t.tid) && p r
  ({ s with cx := { s.cx with results := s.cx.results.filter (fun r => !mine r) } },
   ((s.cx.results.filter mine).flatMap (·.pairs)).foldl (fun u q => observe s u q.1 q.2) t)

end Sys2Proof.Claims

/-- R115, R116, R236 to R239: each command is pushed behind the others once its checks pass, as a release; it changes
nothing else at issue. -/
def Sys2Proof.Claims.CopyCommandsPushed : Prop :=
  ∀ (s : State) (t u : Task) (d c b : BitVec 5) (m : BitVec 1) (k : BitVec 4) (y : Word) (o : Option (BitVec 22)) (e : BitVec 3),
    Issues s t → operandOf t s.cur.2 b (m.getLsbD 0) = some (y, u) → EngineTakes s → freeEntry s = some e →
    NamesObject s t k o →
    let x := capVal t c.toNat
    let z := capVal t d.toNat
    (y.toNat ≤ 2 ^ 24 → AllOwn s x y.toNat → SourceOk s t x y.toNat [permLD] → DestinationOk s t z y.toNat false →
      exec (.copy d c b m k) s = .next (goesOn (pushed s (commandOf s t .copy x z y.toNat o (some e))) u)) ∧
    (y.toNat ≤ 2 ^ 24 → SourceOk s t x y.toNat (pullPerms s x y.toNat) → DestinationOk s t z y.toNat false →
      exec (.pull d c b m k) s = .next (goesOn (pushed s (commandOf s t .pull x z y.toNat o (some e))) u)) ∧
    (y.toNat ≤ 2 ^ 24 → SourceOk s t x y.toNat (pullPerms s x y.toNat) → ∀ z : BitVec 1,
      exec (.pref c b m z k) s = .next (goesOn (pushed s (commandOf s t (.pref (decide (z = 1))) x Cap.null y.toNat o none)) u)) ∧
    (y.toNat ≤ 2 ^ 24 → SourceOk s t x y.toNat [permLD] →
      exec (.flush c b m k) s = .next (goesOn (pushed s (commandOf s t .flush x Cap.null y.toNat o none)) u) ∧
      exec (.inval c b m k) s = .next (goesOn (pushed s (commandOf s t .inval x Cap.null y.toNat o none)) u)) ∧
    (∀ w, regVal t s.cur.2 (b + 1) = w →
      let v := regVal t s.cur.2 b
      let rowlen := w.toNat % 2 ^ 17
      let rows := (w.extractLsb' 32 16).toNat
      let ss := (v.extractLsb' 0 32).toNat
      let ds := (v.extractLsb' 32 32).toNat
      1 ≤ rowlen → rowlen ≤ 65536 → 1 ≤ rows → rows ≤ 4096 → rows * rowlen ≤ 2 ^ 24 →
      SourceOk s t x ((rows - 1) * ss + rowlen) (pullPerms s x ((rows - 1) * ss + rowlen)) →
      DestinationOk s t z ((rows - 1) * ds + rowlen) false →
      exec (.pull2 d c b k) s =
        .next (goesOn (pushed s (commandOf s t (.pull2 rows rowlen ss ds) x z (rows * rowlen) o (some e))) t)) ∧
    (∀ v r n code, t.vsq = some v :: r → n = y.toNat % 128 → code = y.toNat / 256 % 8 → 1 ≤ n → n ≤ 64 → code ≤ 4 →
      let size := [4, 8, 16, 64, 256].getD code 0
      let offs := (List.range n).map (fun i => (lane v i).signExtend 64)
      DestinationOk s t z (n * size) true →
      (∀ off ∈ offs, accessCheck s t.ctx ⟨x, capAddr x + off, size, [if isOwn s (capAddr x + off) then permLD else permPULL],
        size, false, false⟩ none = none) →
      exec (.gather d c b m k) s = .next (goesOn (pushed s (commandOf s t (.gather size offs) x z (n * size) o (some e)))
        { u with vsq := r }))

/-- R116, R117, R222: a push is held while two commands wait, and traps OPERAND beyond the largest extent. -/
def Sys2Proof.Claims.CopyPushLimits : Prop :=
  ∀ (s : State) (t u : Task) (d c b : BitVec 5) (m : BitVec 1) (k : BitVec 4) (y : Word), Issues s t →
    operandOf t s.cur.2 b (m.getLsbD 0) = some (y, u) →
    (2 ≤ (s.copies.filter (fun c => !c.started)).length →
      exec (.copy d c b m k) s = .next { s with hold := .other } ∧ exec (.flush c b m k) s = .next { s with hold := .other }) ∧
    ((s.copies.filter (fun c => !c.started)).length < 2 → freeEntry s = none →
      exec (.pull d c b m k) s = .next { s with hold := .other }) ∧
    ((s.copies.filter (fun c => !c.started)).length < 2 → (freeEntry s).isSome = true → 2 ^ 24 < y.toNat →
      TrapsWith (.copy d c b m k) s .illegalOp 9 0 ∧ TrapsWith (.pull d c b m k) s .illegalOp 9 0)

/-- R115 to R117, R236 to R239: the commands of the copy engine, and the limits of the push. -/
def Obligations.CopyCommands : Prop := CopyCommandsPushed ∧ CopyPushLimits

/-- R124, R125, R127, R240, R241: BINIT and BARR enter the store buffer; BWAIT and BTEST read an object or count the
elements of the task, pop them once all has arrived, and BWAIT is held until then. -/
def Obligations.BarrierInstructions : Prop :=
  ∀ (s : State) (t : Task) (d c b : BitVec 5) (m : BitVec 1), Issues s t →
    let x := capVal t c.toNat
    let va := capAddr x
    let o : BitVec 22 := va.extractLsb' 0 22
    (c ≠ 0 → ObjectOk s t x → onScoreboard s va 32 = false → onMatrixHold s (vaOff va) 32 true = false → s.sb.length < 16 →
      ((∀ q ∈ s.copies, ¬ (q.ctx = t.ctx ∧ q.obj = some o)) → exec (.binit c b) s = .next (goesOn (buffered s
        (entryOf t va (some (.sram o.toNat)) (.binit ((regVal t s.cur.2 b).extractLsb' 0 32)))) t)) ∧
      exec (.barr c) s = .next (goesOn (buffered s (entryOf t va (some (.sram o.toNat)) .arrive)) t)) ∧
    TrapsWith (.barr 0) s .capTag 0 0 ∧ TrapsWith (.binit 0 b) s .capTag 0 0 ∧
    (HasRoom t d (m.getLsbD 0) →
      ((∀ q ∈ s.copies, q.tid ≠ t.tid) →
        let p := popped s t (fun _ => true)
        let w := countWord (s.cx.results.filter (fun r => decide (r.tid = t.tid))) true
        exec (.bwait d 0 m) s = .next (goesOn p.1 (withResult p.2 s.cur.2 d (m.getLsbD 0) w)) ∧
        exec (.btest d 0 m) s = .next (goesOn p.1 (withResult p.2 s.cur.2 d (m.getLsbD 0) w))) ∧
      ((∃ q ∈ s.copies, q.tid = t.tid) → exec (.bwait d 0 m) s = .next { s with hold := .other } ∧
        exec (.btest d 0 m) s = .next (goesOn s (withResult t s.cur.2 d (m.getLsbD 0)
          (countWord (s.cx.results.filter (fun r => decide (r.tid = t.tid))) false)))) ∧
      (c ≠ 0 → ObjectOk s t x → LoadGoes s t va 8 (.sram (vaOff va)) →
        let w := BitVec.ofNat 64 (leNat (loaded s t va (.sram (vaOff va)) 8))
        let s1 := afterLoad s t va (.sram (vaOff va)) 8
        let p := popped s1 t (fun r => decide (r.obj = some o))
        (w.getLsbD 40 = true →
          exec (.bwait d c m) s = .next (goesOn p.1 (withResult p.2 s.cur.2 d (m.getLsbD 0) w)) ∧
          exec (.btest d c m) s = .next (goesOn p.1 (withResult p.2 s.cur.2 d (m.getLsbD 0) w))) ∧
        (w.getLsbD 40 = false → exec (.bwait d c m) s = .next { s with hold := .other } ∧
          exec (.btest d c m) s = .next (goesOn s1 (withResult t s.cur.2 d (m.getLsbD 0) w)))))

/-- R117 to R123, R127: the oldest waiting command starts, reads its own source once, and sends a request for each other
owner's part, once no fresh read of its lines is in flight (R363), also where a range runs on into the next owner's memory;
a part in a package that is not there fails (R370); FLUSH and INVAL act on the own and on the foreign part of their range; an
answer brings its bytes and their observation (R95); a granule of its data lands with nothing else changed; at its end it
retires with an element and its arrival. -/
def Obligations.CopyEngineRuns : Prop :=
  (∀ (s : State) (c : CopyCmd), startable s = some c →
    let a := capAddr c.src
    let c1 := { c with started := true }
    let s1 := { s with nextId := s.nextId + 1 }
    let p : CopyPart := ⟨s.nextId, 0, a, c.len⟩
    let q : Pending := { id := s.nextId, slot := c.slot, tid := c.tid, ctx := c.ctx, owner := ownerOf s c.ctx a, va := a,
                         len := c.len, cached := false, purpose := .copy c.id, cap := c.src }
    (c.stopped = true → exec .copyCommandStart s = .next (putCopy s c1)) ∧
    (c.stopped = false → (c.kind = .copy ∨ c.kind = .pull) → 0 < c.len → OneOwner a c.len → isOwn s a = true →
      (fatalRange s1 c.ctx a c.len = none →
        exec .copyCommandStart s = .next (putCopy (noteErrors s1 s.cx true a c.len) { c1 with got := c.got ++ [readPart s1 p] })) ∧
      (∀ key, fatalRange s1 c.ctx a c.len = some key →
        exec .copyCommandStart s = .next (putCopy (queueEvent (if key then s1 else countUncorr s1) (.fatalContext c.ctx key)) c1))) ∧
    (c.stopped = false → c.kind = .pull → 0 < c.len → OneOwner a c.len → isOwn s a = false →
      (freshInFlight s a c.len = true → exec .copyCommandStart s = .next (putCopy s1 { c1 with todo := c.todo ++ [p] })) ∧
      (freshInFlight s a c.len = false → noPackage s a = true → exec .copyCommandStart s =
        .next (putCopy s1 { c1 with got := c.got ++ [{ part := p, bytes := [], tags := [], fault := some 0x0B }] })) ∧
      (freshInFlight s a c.len = false → noPackage s a = false → fencedOff s (vaPkg a) = false → vaSpace a ≠ 2 →
        exec .copyCommandStart s = .next (putCopy (emit { s1 with pending := s.pending ++ [q] } (.read q c.src))
          { c1 with parts := c.parts ++ [p] }))) ∧
    (∀ b : Word, c.stopped = false → c.kind = .pull → TwoOwners a c.len b → isOwn s a = true → isOwn s b = false →
      anyError s s.cx = false → fatalRange { s with nextId := s.nextId + 2 } c.ctx a (b.toNat - a.toNat) = none →
      freshInFlight s b (a.toNat + c.len - b.toNat) = false → noPackage s b = false → fencedOff s (vaPkg b) = false →
      vaSpace b ≠ 2 →
      let s2 := { s with nextId := s.nextId + 2 }
      let n := b.toNat - a.toNat
      let r : CopyPart := ⟨s.nextId + 1, n, b, c.len - n⟩
      let q2 := { q with id := s.nextId + 1, owner := ownerOf s c.ctx b, va := b, len := c.len - n }
      exec .copyCommandStart s = .next (putCopy (emit { s2 with pending := s.pending ++ [q2] } (.read q2 c.src))
        { c1 with got := c.got ++ [readPart s2 ⟨s.nextId, 0, a, n⟩], parts := c.parts ++ [r] })) ∧
    (c.stopped = false → c.kind = .flush →
      (OneOwner a c.len → exec .copyCommandStart s =
        .next (if isOwn s a then flushLines (putCopy s c1) c.ctx a.toNat c.len else putCopy s c1)) ∧
      (∀ b, TwoOwners a c.len b → isOwn s a = false → isOwn s b = true → exec .copyCommandStart s =
        .next (flushLines (putCopy s c1) c.ctx b.toNat (a.toNat + c.len - b.toNat)))) ∧
    (c.stopped = false → c.kind = .inval →
      (OneOwner a c.len → exec .copyCommandStart s =
        .next (if isOwn s a then putCopy s c1 else invalLines (putCopy s c1) c.ctx a.toNat c.len)) ∧
      (∀ b, TwoOwners a c.len b → isOwn s a = true → isOwn s b = false → exec .copyCommandStart s =
        .next (invalLines (putCopy s c1) c.ctx b.toNat (a.toNat + c.len - b.toNat))))) ∧
  (∀ (s : State) (p : Pending) (r : ReadReply) (c : CopyCmd) (q : CopyPart), p ∈ s.pending → p.id = r.id → r.pool = none →
    (∀ x ∈ s.pending, x.id = r.id → x = p) → p.purpose = .copy c.id → p.fate = .live → staleAnswer s p r = false →
    isSealed p.va = false → findCopy s c.id = some c → isPref c.kind = false →
    c.parts.find? (fun x => decide (x.read = p.id)) = some q →
    let brings := r.fault = none ∨ r.data ≠ []
    exec (.readResponse r) s = .next (putCopy { s with pending := s.pending.filter (fun x => decide (x.id ≠ p.id)) } { c with
      parts := c.parts.filter (fun x => decide (x.read ≠ p.id))
      got := c.got ++ [{ part := q, bytes := if r.fault = none then takePad q.len r.data else r.data.take q.len,
                         tags := r.tags, fault := r.fault.map (·.1) }]
      pairs := if brings then raisePair c.pairs (answerOwner s p r) r.pub else c.pairs })) ∧
  (∀ (s : State) (c : CopyCmd) (g : CopyData), memoriesWf s = true → findCopy s c.id = some c → c.kind = .copy ∨ c.kind = .pull →
    c.started = true → c.stopped = false → waitsOnMove s c = false → c.got = [g] → g.part.pos = 0 → g.part.len = c.len →
    g.bytes.length = c.len → g.fault = none → (∀ b ∈ g.tags, b = false) → c.done < c.len → vaSpace (capAddr c.dst) = 1 →
    vaOff (capAddr c.dst) + c.len ≤ sramBytes → (∀ o n, filling s c.ctx (capAddr c.dst + BitVec.ofNat 64 o) n = false) →
    let a := vaOff (capAddr c.dst)
    let e := min c.len (((a + c.done) / 64 + 1) * 64 - a)
    ∃ s', exec (.copyDeposit c.id) s = .next s' ∧ c.done < e ∧ findCopy s' c.id = some { c with done := e } ∧
      (∀ i, c.done ≤ i → i < e → memByte s'.cx.sram (a + i) = g.bytes.getD i 0 ∧ memTag s'.cx.sram (a + i) = false) ∧
      (∀ i, i < a + c.done ∨ a + e ≤ i → memByte s'.cx.sram i = memByte s.cx.sram i) ∧ s'.home.mem = s.home.mem ∧
      s'.slots = s.slots ∧ s'.regs = s.regs) ∧
  (∀ (s : State) (c : CopyCmd), findCopy s c.id = some c → finished c = true → c.obj = none →
    exec (.copyRetire c.id) s = .next { s with
      cx := { s.cx with results := if taskAlive s c.tid then s.cx.results ++
        [⟨c.tid, c.slot, none, c.fault, isPartial c, c.pairs⟩] else s.cx.results },
      copies := s.copies.filter (fun x => decide (x.id ≠ c.id)),
      pending := dropReads (fun p => decide (p.purpose = .copy c.id) || decide (p.purpose = .pref c.id)) s.pending,
      regs := { s.regs with cpretired := s.regs.cpretired + 1, cpfault := s.regs.cpfault || c.fault || isPartial c } }) ∧
  (∀ (s : State) (c : CopyCmd) (o : BitVec 22), memoriesWf s = true → findCopy s c.id = some c → finished c = true →
    c.obj = some o → c.fault = false → isPartial c = false → c.lanemask = 0 →
    ∃ s' w, exec (.copyRetire c.id) s = .next s' ∧ memDouble s'.cx.sram o.toNat = w ∧
      (∀ i, i < o.toNat ∨ o.toNat + 8 ≤ i → memByte s'.cx.sram i = memByte s.cx.sram i) ∧
      (let v := memDouble s.cx.sram o.toNat
       let n := if (v.extractLsb' 0 32) = BitVec.allOnes 32 then 2 ^ 32 - 1 else (v.extractLsb' 0 32).toNat + 1
       w.extractLsb' 0 32 = BitVec.ofNat 32 n ∧ w.extractLsb' 32 8 = v.extractLsb' 32 8 ∧
       w.getLsbD 40 = (v.getLsbD 40 || decide (leNat (memBytes s.cx.sram (o.toNat + 8) 4) ≤ n)) ∧
       w.getLsbD 43 = (v.getLsbD 43 || v.getLsbD 40) ∧ w.getLsbD 41 = v.getLsbD 41 ∧ w.getLsbD 42 = v.getLsbD 42))


/-! ### The matrix engine (R185 to R187, R265 to R286) -/

namespace Sys2Proof.Claims

/-- A command with operation `op` has started and not completed. -/
def Runs (s : State) (op : Nat) (r : MxRun) : Prop := s.mxRun = some r ∧ cmdOp r.cmd = op

/-- Its window in a tile. -/
def inWindow (c : MxCmd) (i j : Nat) : Prop :=
  tcwRow0 c.w3 ≤ i ∧ i < tcwRow0 c.w3 + cmdRows c ∧ tcwCol0 c.w3 ≤ j ∧ j < tcwCol0 c.w3 + cmdCols c

/-- A shape whose elements fit into the 32768 bytes of a tile (R142). -/
def TileFits (sh : Shape) : Prop := 0 < tileWidth sh.fmt ∧ sh.rows * sh.cols * tileWidth sh.fmt ≤ 262144

/-- The window of a command lies within a shape. -/
def Within (c : MxCmd) (sh : Shape) : Prop :=
  tcwRow0 c.w3 + cmdRows c ≤ sh.rows ∧ tcwCol0 c.w3 + cmdCols c ≤ sh.cols

/-- `u` is tile `t` with the window of `c` holding `v`, by row and column within the window, and every other element as
it was. -/
def WindowSet (c : MxCmd) (sh : Shape) (t u : BitVec 262144) (v : Nat → Nat → Nat) : Prop :=
  ∀ i j, i < sh.rows → j < sh.cols →
    (inWindow c i j → tileElem sh u i j = v (i - tcwRow0 c.w3) (j - tcwCol0 c.w3) % 2 ^ tileWidth sh.fmt) ∧
    (¬ inWindow c i j → tileElem sh u i j = tileElem sh t i j)

/-- The state in which a command has written its destination tile and completed; of the words that were lost, `e` are left. -/
def tileDone (s : State) (r : MxRun) (t : BitVec 262144) (e : Sparse SectorHealth) : State :=
  let s1 := putTile s (tcwDst r.cmd.w0) t
  completeRun { s1 with cx := { s1.cx with tileErr := e } } r

/-- The elements of the accumulators are listed in canonical form. -/
def accsWf (cx : CtxState) : Prop := ∀ n : Bool, sparseWf ({ w := 0, p := false } : Acc) (accElems cx n) = true

/-- The state in which the accumulators are `l` and the command, with report `rep`, has completed; of the elements that
were lost, `e` are left. -/
def accDone (s : State) (r : MxRun) (l : Vector (Sparse Acc) 2) (e : Sparse SectorHealth) (rep : MxReport) : State :=
  completeRun { s with cx := { s.cx with accs := l, accErr := e } } { r with report := rep }

/-- Every element of both accumulators is `f` of the old one, by accumulator, row and column. -/
def AccsAre (cx : CtxState) (l : Vector (Sparse Acc) 2) (f : Bool → Nat → Nat → Acc) : Prop :=
  ∀ (n : Bool) (i j : Nat), i < 128 → j < 64 → accElem { cx with accs := l } n i j = f n i j

/-- The window of an accumulator command lies within the 128 × 64 elements. -/
def AccWindow (c : MxCmd) : Prop := tcwRow0 c.w3 + cmdRows c ≤ 128 ∧ tcwCol0 c.w3 + cmdCols c ≤ 64

/-- Row `i` of the window as a drain writes it, in a format that is no block format. -/
def drainedRow (s : State) (r : MxRun) (i : Nat) : List Byte :=
  leBytes (drainRowBytes r.cmd) (packBits (tileWidth (tcwFo r.cmd.w0))
    ((drainRowValues s r i).map (fun x => (encElem (tcwFo r.cmd.w0) 0 x).bits)))

/-- A drain that has not sent its amax and may deposit. -/
def DrainGoes (s : State) (r : MxRun) (mode : Nat) : Prop :=
  Runs s opDrain r ∧ (mode ≠ 1 → lostOperands s r = false) ∧ r.awaiting = false ∧ drainMode r = mode ∧ (∀ h ∈ r.cmd.holds, bufferedIn s r.cmd.ctx h = false)

end Sys2Proof.Claims

/-- R185, R187, R265, R266: MQ reads the 32-byte literal that its offset names, substitutes the slots, checks the
word in the order of R187 and pushes the command into the queue of two; a reserved bit traps TCW_RESERVED, the other
stream's opcode STREAM_MISMATCH, a bad value TCW_VALUE. -/
def Sys2Proof.Claims.TileCommandsPushed : Prop :=
  ∀ (s u : State) (t : Task) (st : Stream) (x y : BitVec 5) (o : BitVec 16) (bits : Nat), Issues s t → s.cur.2 = st →
    (fetchBytes ((curPc t st >>> 5 <<< 5) + 32 * sext64 o) 32).run s = .ok (bits, u) → Issues u t → u.cur = s.cur →
    let ex := fun s => match st with | .A => exec (.mqA x y o) s | .E => exec (.mqE x y o) s
    let wd := fun (i : Nat) => BitVec.ofNat 64 (bits / 2 ^ (64 * i))
    let w0 := wd 0
    let w3 := wd 3
    let k := if tcwCap w0 then capVal t x.toNat else Cap.null
    let w1 := if tcwCap w0 then capAddr k else if tcwSub1 w0 then regVal t st x else wd 1
    let w2 := if tcwCap w0 then k.bits.extractLsb' 64 64 else if tcwSub2 w0 then regVal t st y else wd 2
    let n := windowBytes w0 w3
    let store := decide (tcwOp w0 = opTst)
    (tcwReserved st x y w0 (wd 1) (wd 2) w3 = true →
      ex s = .next (takeTrap s { cause := .illegalOp, detail := 8, addr := 0 })) ∧
    (tcwReserved st x y w0 (wd 1) (wd 2) w3 = false →
      (opStream (tcwOp w0) ≠ some st → ex s = .next (takeTrap s { cause := .streamMismatch, detail := 2, addr := 0 })) ∧
      (opStream (tcwOp w0) = some st →
        (tcwValid w0 w1 w2 w3 = false → ex s = .next (takeTrap s { cause := .illegalOp, detail := 10, addr := 0 })) ∧
        (tcwValid w0 w1 w2 w3 = true →
          (tcwCap w0 = true → ownSram u (capAddr k) = true ∧ onScoreboard u (capAddr k) n = false ∧
            accessCheck u t.ctx ⟨k, capAddr k, n, [if store then permST else permLD], 16, store, false⟩ none = none) →
          (tcwOp w0 = opDrrel → u.sb = []) → u.mxQueue.length < 2 →
          let c : MxCmd :=
            ⟨u.mxPushed, t.tid, t.ctx, st, curPc t st, w0, w1, w2, w3, k, u.nextId, rangesAtPush u w0 w1 w2 w3⟩
          ex s = .next (goesOn { u with mxPushed := u.mxPushed + 1, mxQueue := u.mxQueue ++ [c] } t))))

/-- R268, R269, R279: with the engine idle the oldest command of the queue leaves it. One that passes the checks of R268
starts with its registers sampled, WANCH and WAUTO with their anchor written; one that fails takes no effect and leaves
a command trap, such as the window that lies outside its tile. One that reads exponents that cannot be corrected ends the
context (R285). -/
def Sys2Proof.Claims.MatrixCommandsStart : Prop :=
  ∀ (s : State) (c : MxCmd) (rest : List MxCmd), s.mxQueue = c :: rest → s.mxRun = none → cmdOp c ≠ opDrrel →
    (∀ x ∈ rest, x.num ≠ c.num) → s.lateCrws = [] →
    (writesAcc (cmdOp c) = true → lockedAcc s (tcwAcc c.w0) = false) →
    (∀ h ∈ runRanges (sample s c) 0, copyBefore s c h = false ∧
      (h.2.2 = false → sbMustWait s c.ctx (scratchVa s h.1) h.2.1 = false)) →
    let reads := exponentRanges (sample s c) (runRanges (sample s c) 0)
    let good := ∀ h ∈ reads, ∀ w ∈ wordsOf h.1 h.2.1, wordHealth s.cx w = .good
    (startChecks s (sample s c) = none →
      let r := withExponents s (sample s c)
      (good →
        exec .matrixCommandStart s = .next { s with mxQueue := rest, mxRun := some r, cx := startAnchor s.cx (sample s c) }) ∧
      ((∃ h ∈ reads, badWord s.cx h.1 h.2.1 = true) → exec .matrixCommandStart s = .next (lostScratch s c))) ∧
    (∀ cause d, startChecks s (sample s c) = some (cause, d) →
      exec .matrixCommandStart s = .next (postTrap { s with mxQueue := rest } c cause d)) ∧
    (cmdOp c = opTzero → ¬ Within c (shapeOf (vget s.cx.tshape (tcwDst c.w0) 0)) →
      exec .matrixCommandStart s = .next (postTrap { s with mxQueue := rest } c .illegalOp 0x0B)) ∧
    (cmdOp c = opMma → shapeOf (vget s.cx.tshape (tcwSrca c.w0) 0) = ⟨0, 0, 0⟩ →
      exec .matrixCommandStart s = .next (postTrap { s with mxQueue := rest } c .illegalOp 0x0B)) ∧
    (∀ v : Int, cmdOp c = opWanch → tcwAnchor c.w3 = v → good → startChecks s (sample s c) = none →
      ∃ s', exec .matrixCommandStart s = .next s' ∧
        signedOf 16 (field (vget s'.cx.wctl (tcwAcc c.w0).toNat 0) 0 16) = v)

/-- R185, R187, R265 to R269, R279: commands pushed by MQ, and the start of the oldest. -/
def Obligations.MatrixCommandsIssued : Prop := TileCommandsPushed ∧ MatrixCommandsStart

/-- R271, R272: TLD, TZERO, TCOPY and TXP write their window of the destination tile, from the scratchpad or the source
tile, and nothing else of any tile; TST writes the rows of its window to the scratchpad. A TLD of bytes that cannot be
corrected, and a command that reads an element of a tile that cannot be, end the context (R285). -/
def Obligations.TileCommandResults : Prop :=
  ∀ (s : State) (r : MxRun),
    let c := r.cmd
    let d := runShape r (tcwDst c.w0)
    let a := runShape r (tcwSrca c.w0)
    let old := tileAt s (tcwDst c.w0)
    let off := field c.w1 0 22
    let src := fun i j => tileElem a (tileAt s (tcwSrca c.w0)) (tcwRow0 c.w3 + i) (tcwCol0 c.w3 + j)
    (Runs s opTzero r → TileFits d → Within c d →
      ∃ t e, exec .tzero s = .next (tileDone s r t e) ∧ e ⊆ s.cx.tileErr ∧ WindowSet c d old t (fun _ _ => 0)) ∧
    (Runs s opTcopy r → lostOperands s r = false → TileFits d → Within c d → Within c a → a.fmt = d.fmt →
      ∃ t e, exec .tcopy s = .next (tileDone s r t e) ∧ e ⊆ s.cx.tileErr ∧ WindowSet c d old t src) ∧
    (Runs s opTxp r → lostOperands s r = false → TileFits d → cmdCols c ≤ d.rows → cmdRows c ≤ d.cols → Within c a →
      a.fmt = d.fmt → ∃ t e, exec .txp s = .next (tileDone s r t e) ∧ e ⊆ s.cx.tileErr ∧ ∀ i j, i < d.rows → j < d.cols →
        (i < cmdCols c → j < cmdRows c → tileElem d t i j = src j i) ∧
        (¬ (i < cmdCols c ∧ j < cmdRows c) → tileElem d t i j = tileElem d old i j)) ∧
    (Runs s opTld r → TileFits d → Within c d → d.fmt = tcwFa c.w0 →
      sbMustWait s c.ctx (scratchVa s off) (windowBytes c.w0 c.w3) = false →
      let n := windowBytes c.w0 c.w3
      let bs := readScratch s c.ctx off n
      let rb := rowBytes d.fmt (cmdCols c)
      (badWord s.cx off n = false → ∃ t e, exec .tld s = .next (tileDone (correctWords s off n) r t e) ∧
        e ⊆ s.cx.tileErr ∧ WindowSet c d old t (fun i j => leAt bs (i * rb) rb / 2 ^ (tileWidth d.fmt * j))) ∧
      (badWord s.cx off n = true → exec .tld s = .next (lostScratch s c))) ∧
    (Runs s opTst r → lostOperands s r = false → TileFits a → Within c a → cmdCols c * tileWidth a.fmt % 8 = 0 →
      (∀ h ∈ c.holds, bufferedIn s c.ctx h = false) →
      let rb := rowBytes a.fmt (cmdCols c)
      ∃ bs, exec .tst s = .next (completeRun (depositScratch s off bs) r) ∧ bs.length = cmdRows c * rb ∧
        ∀ i j, i < cmdRows c → j < cmdCols c →
          leAt bs (i * rb) rb / 2 ^ (tileWidth a.fmt * j) % 2 ^ tileWidth a.fmt = src i j) ∧
    (∀ i j, inWindow c i j → lostTile s r (tcwSrca c.w0) [(i, j)] = true →
      (Runs s opTcopy r → exec .tcopy s = .next (lostScratch s c)) ∧ (Runs s opTxp r → exec .txp s = .next (lostScratch s c)) ∧
      (Runs s opTst r → exec .tst s = .next (lostScratch s c)) ∧ (Runs s opTcvt r → exec .tcvt s = .next (lostScratch s c)))

/-- R160, R163, R273: TCVT converts each element of its window exactly and encodes it in the output format, row by row,
with the flags of R169; block formats deposit an exponent byte for each block. -/
def Sys2Proof.Claims.TileConversionResults : Prop :=
  ∀ (s : State) (r : MxRun), Runs s opTcvt r →
    let c := r.cmd
    let d := runShape r (tcwDst c.w0)
    let a := tcwSrca c.w0
    let fo := tcwFo c.w0
    let val := fun i j => tileNum (runShape r a) (tileAt s a) r.expsA (tcwRow0 c.w3 + i) (tcwCol0 c.w3 + j)
    let rows := (List.range (cmdRows c)).map (fun i => encRow fo flInvalid ((List.range (cmdCols c)).map (val i)))
    let rep := noteRows (runFlagen r) (tcwRow0 c.w3) (tcwCol0 c.w3) 0 rows r.report
    lostOperands s r = false → TileFits d → Within c d → d.fmt = fo → (∀ h ∈ c.holds, bufferedIn s c.ctx h = false) →
    (isBlockFmt fo = false → ∃ t e, exec .tcvt s = .next (tileDone s { r with report := rep } t e) ∧
      e ⊆ s.cx.tileErr ∧
      WindowSet c d (tileAt s (tcwDst c.w0)) t (fun i j => (encElem fo flInvalid (val i j)).bits)) ∧
    (isBlockFmt fo = true → cmdCols c % 32 = 0 → ∃ t e, e ⊆ s.cx.tileErr ∧
      exec .tcvt s = .next (tileDone (depositScratch s (field c.w1 0 22) (rows.flatMap (fun x => x.2.map (BitVec.ofNat 8))))
        { r with report := rep } t e) ∧
      WindowSet c d (tileAt s (tcwDst c.w0)) t (fun i j =>
        (((encBlock fo ((List.range 32).map (fun q => val i (j / 32 * 32 + q)))).1).map (·.bits)).getD (j % 32) 0))

/-- R159, R161, R167, R273: the encodings of TCVT and of the drains at boundary values: the drains of the elements of Table 6 of
R166, ties and both limits of the integer formats, overflow of f16, infinities and NaNs, and the block of Table 5 of R161
with what its elements decode to. -/
def Sys2Proof.Claims.TileEncodings : Prop :=
  (let a := accNum 60 ⟨70, false⟩
   let b := accNum 60 ⟨BitVec.ofInt 128 (2 ^ 127 - 1), false⟩
   let p := accNum 60 ⟨0, true⟩
   encElem 5 0 a = ⟨0x408C0000, 0, 0, false⟩ ∧ encElem 3 0 a = ⟨0x408C, 0, 0, false⟩ ∧ encElem 6 0 a = ⟨4, 8, 0, false⟩ ∧
   encElem 5 0 b = ⟨0x7D000000, 8, 0, false⟩ ∧ encElem 3 0 b = ⟨0x7D00, 8, 0, false⟩ ∧
   encElem 6 0 b = ⟨0x7FFFFFFF, 8 + 16, 1, false⟩ ∧ encElem 5 0 p = ⟨0x7FC00000, 0, 0, true⟩ ∧
   encElem 6 0 p = ⟨0x80000000, 0, 0, true⟩) ∧
  (let v := fun (fo x : Nat) => encElem fo flInvalid (decodeFloat f32Fmt x)
   v 1 0x42FF0000 = ⟨127, 8 + 16, 1, false⟩ ∧ v 1 0xC3000000 = ⟨0x81, 16, 1, false⟩ ∧ v 1 0x40200000 = ⟨2, 8, 0, false⟩ ∧
   v 1 0x7FC00000 = ⟨0x80, 1, 0, true⟩ ∧ v 2 0xBF800000 = ⟨0, 16, 1, false⟩ ∧ v 2 0x437F8000 = ⟨255, 8 + 16, 1, false⟩ ∧
   v 2 0x7FC00000 = ⟨0, 1, 0, true⟩ ∧ v 6 0x7F800000 = ⟨0x7FFFFFFF, 16, 1, false⟩ ∧ v 4 0x477FF000 = ⟨0x7C00, 2 + 8, 0, false⟩ ∧
   v 4 0xFF800000 = ⟨0xFC00, 0, 0, false⟩ ∧ v 3 0x7F800001 = ⟨0x7FC0, 1, 0, true⟩ ∧ v 4 0x33800000 = ⟨1, 0, 0, false⟩ ∧
   v 4 0x33000000 = ⟨0, 4 + 8, 0, false⟩) ∧
  (let b := encBlock 10 (([0x40400000, 0xBFA00000, 0x3E99999A, 0x40733333] : List Nat).map (decodeFloat f32Fmt) ++
     List.replicate 28 (.fin false 0 0))
   b.2 = 0x80 ∧ b.1.take 5 =
     [⟨6, 0, 0, false⟩, ⟨0xE, 8, 0, false⟩, ⟨1, 8, 0, false⟩, ⟨7, 8 + 16, 1, false⟩, ⟨0, 0, 0, false⟩]) ∧
  (let w := fun (m : Nat) => (encElem 5 0 (elemNum 10 m 0x80)).bits
   w 6 = 0x40400000 ∧ w 0xE = 0xBF800000 ∧ w 1 = 0x3F000000 ∧ w 7 = 0x40600000 ∧ elemNum 10 6 255 = .nan false)

/-- R159 to R161, R163, R167, R273: TCVT, and the encodings at boundary values. -/
def Obligations.TileConversions : Prop := TileConversionResults ∧ TileEncodings

/-- R162, R164, R165, R274, R278, R279: MMA adds to each element of its window the aligned exact products and clamps once;
the write-backs of Table 6 of R166; WZERO clears its window; WANCH and WAUTO re-align every element of the accumulator. Other
elements keep their value. One that reads an element that cannot be corrected ends the context (R285). -/
def Obligations.AccumulatorCommands : Prop :=
  (∀ (a : Int) (x : Acc) (ps : List (Int × Int)) (bad : Bool),
    let z := x.w.toInt + (ps.map (fun p => (clampProduct (floorAlign p.1 p.2 a).1).1)).sum
    (writeBack a x ps bad).1 = { w := BitVec.ofInt 128 (max (-(2 ^ 127 - 1)) (min (2 ^ 127 - 1) z)), p := x.p || bad } ∧
    (writeBack a x ps bad).2.2 = if z = max (-(2 ^ 127 - 1)) (min (2 ^ 127 - 1) z) then 0 else 1) ∧
  (let f := decodeFloat f32Fmt
   writeBack 60 ⟨5, false⟩ [product (f 0x40400000) (f 0x3F000000), product (f 0xBF800000) (f 0x3D000000),
     product (f 0x40600000) (f 0x3F400000)] false = (⟨0x46, false⟩, 8, 0) ∧
   writeBack 60 ⟨0x7FFFFFFFFFFFFFFFFFFFFFFFFFFFFF9C, false⟩ [(100, -4), (50, -4)] false =
     (⟨0x7FFFFFFFFFFFFFFFFFFFFFFFFFFFFFFF, false⟩, 16, 1) ∧
   writeBack 60 ⟨5, false⟩ [(0, 0)] true = (⟨5, true⟩, 1, 0)) ∧
  ∀ (s : State) (r : MxRun), accsWf s.cx →
    let c := r.cmd
    let n := tcwAcc c.w0
    let pair : Slabs := ⟨runShape r (tcwSrca c.w0), runShape r (tcwSrcb c.w0), tileAt s (tcwSrca c.w0), tileAt s (tcwSrcb c.w0),
      r.expsA, r.expsB⟩
    let old := fun m i j => accElem s.cx m i j
    let start := fun i j => if tcwZacc c.w0 then ⟨0, false⟩ else old n i j
    (Runs s opMma r → lostOperands s r = false → AccWindow c → ∃ l e rep, exec .mma s = .next (accDone s r l e rep) ∧
      e ⊆ s.cx.accErr ∧
      (∀ m i j, i < 128 → j < 64 →
        (m = n ∧ inWindow c i j → accElem { s.cx with accs := l } m i j =
          (slabInto (runAnchor r) pair (i - tcwRow0 c.w3) (j - tcwCol0 c.w3) (start i j)).1) ∧
        (¬ (m = n ∧ inWindow c i j) → accElem { s.cx with accs := l } m i j = old m i j))) ∧
    (Runs s opWzero r → AccWindow c → ∃ l e, exec .wzero s = .next (accDone s r l e r.report) ∧ e ⊆ s.cx.accErr ∧
      (∀ m i j, i < 128 → j < 64 →
        (m = n ∧ inWindow c i j → accElem { s.cx with accs := l } m i j = ⟨0, false⟩) ∧
        (¬ (m = n ∧ inWindow c i j) → accElem { s.cx with accs := l } m i j = old m i j))) ∧
    (Runs s opWanch r → lostOperands s r = false → ∃ l e rep, exec .wanch s = .next (accDone s r l e rep) ∧ e ⊆ s.cx.accErr ∧
      AccsAre s.cx l (fun m i j => if m = n then (realign (runAnchor r) (tcwAnchor c.w3) (old m i j)).1 else old m i j)) ∧
    (Runs s opWauto r → lostOperands s r = false → ∃ l e rep, exec .wauto s = .next (accDone s r l e rep) ∧ e ⊆ s.cx.accErr ∧
      AccsAre s.cx l (fun m i j => if m = n then (realign (runAnchor r) (newAnchor s.cx r) (old m i j)).1 else old m i j)) ∧
    (∀ i j, inWindow c i j → tcwZacc c.w0 = false → lostAcc s n (fun k => decide (k = accNo n (i, j))) = true →
      Runs s opMma r → exec .mma s = .next (lostScratch s c)) ∧
    (lostAcc s n (fun _ => true) = true → (Runs s opWanch r → exec .wanch s = .next (lostScratch s c)) ∧
      (Runs s opWauto r → exec .wauto s = .next (lostScratch s c)))

/-- R275 to R277: MMAG arrives at the barrier of its context; a differing side or signature resets the barrier and traps
GANG_SHAPE; with every member there the join adds the slab pairs in ascending order; a timeout traps with the number of
arrivals, and never takes a join that has every member. An arrival never meets those of another context
or of a gang that this core is not in, and one for the next join waits until a complete one has been performed. -/
def Obligations.GangsJoin : Prop :=
  (∀ (s : State) (r : MxRun), Runs s opMmag r → r.arrived = false → r.cmd.ctx = s.cx.num → s.cx.num ≠ 0 →
    lostOperands s r = false → gangFull s.cx = false →
    let x := ownArrival s r
    let s1 := emit { s with mxRun := some { r with arrived := true } } (.gang x)
    (x.side = x.gang → (∀ y ∈ s.cx.gang, sameSignature x y = true) →
      exec (.mmag none) s = .next { s1 with cx := { s.cx with gang := s.cx.gang ++ [x] } }) ∧
    ((x.side ≠ x.gang ∨ ∃ y ∈ s.cx.gang, sameSignature x y = false) →
      exec (.mmag none) s = .next (postTrap { s1 with cx := { s.cx with gang := [] }, mxRun := none } r.cmd .illegalOp 0x0C))) ∧
  (∀ (s : State) (x : GangArrival), x.ctx = s.cx.num → s.cx.num ≠ 0 → (∀ y ∈ s.cx.gang, y.member ≠ x.member) →
    x.base.toNat + x.member ≠ s.core.toNat →
    (gangHere s x = true → gangFull s.cx = false → x.side = x.gang → (∀ y ∈ s.cx.gang, sameSignature x y = true) →
      exec (.mmag (some x)) s = .next { s with cx := { s.cx with gang := s.cx.gang ++ [x] } }) ∧
    (gangHere s x = true → gangFull s.cx = true → exec (.mmag (some x)) s = .next { s with hold := .other }) ∧
    (gangHere s x = false → exec (.mmag (some x)) s = .next { s with hold := .absent })) ∧
  (∀ (s s' : State) (x : GangArrival), x.ctx ≠ s.cx.num → exec (.mmag (some x)) s = .next s' → s'.cx.gang = s.cx.gang) ∧
  (∀ (s : State) (r : MxRun), Runs s opMmag r → r.arrived = true → s.cx.gang.length = gangSize r → accsWf s.cx →
    AccWindow r.cmd → lostOperands s r = false →
    let g := field r.gangcfg 0 4 + 1
    let me := s.core.toNat - field r.gangcfg 8 10
    let n := tcwAcc r.cmd.w0
    ∃ l e rep, exec .gangJoin s = .next (accDone { s with cx := { s.cx with gang := [] } } r l e rep) ∧ e ⊆ s.cx.accErr ∧
      (∀ m i j, i < 128 → j < 64 →
        (m = n ∧ inWindow r.cmd i j → accElem { s.cx with accs := l } m i j =
          (slabsInto (runAnchor r) (i - tcwRow0 r.cmd.w3) (j - tcwCol0 r.cmd.w3) (gangSlabs r s.cx.gang g (me / g) (me % g))
            (if tcwZacc r.cmd.w0 then ⟨0, false⟩ else accElem s.cx n i j)).1) ∧
        (¬ (m = n ∧ inWindow r.cmd i j) → accElem { s.cx with accs := l } m i j = accElem s.cx m i j))) ∧
  (∀ (s : State) (r : MxRun), Runs s opMmag r → r.arrived = true → r.cmd.ctx = s.cx.num → s.cx.num ≠ 0 →
    gangOpen s.cx = true → exec .gangTimeout s = .next (postTrap { s with cx := { s.cx with gang := [] }, mxRun := none } r.cmd .gangTimeout
      s.cx.gang.length)) ∧
  (∀ (s : State), s.mxRun = none → s.cx.num ≠ 0 → gangOpen s.cx = true →
    exec .gangTimeout s = .next { s with cx := { s.cx with gang := [] } }) ∧
  (∀ (s : State), (∀ c ∈ s.cx :: s.others, gangOpen c = false) → exec .gangTimeout s = .next { s with hold := .absent })

/-- R280 to R283: a plain drain writes its window to the scratchpad, row by row; a row-handler drain deposits and holds one
row at a time, with a ROWDRAIN message, and ends when every row has been released by DRREL; an amax drain sends its value
and ends with the answer. That a plain drain deposits its whole window in one act is the model's choice (log entry 73), as is
that an enabled flag of the command is trapped before a CHAIN_ABSENT of its answer (log entry 77). -/
def Obligations.DrainsAndRows : Prop :=
  (∀ (s : State) (r : MxRun), DrainGoes s r 0 → isBlockFmt (tcwFo r.cmd.w0) = false → memWf s.cx.sram = true →
    field r.cmd.w1 0 22 + cmdRows r.cmd * drainRowBytes r.cmd ≤ sramBytes →
    ∃ m e rep, exec .drain s = .next (completeRun { s with cx := { s.cx with sram := m, sramErr := e } } { r with report := rep }) ∧
      (∀ i k, i < cmdRows r.cmd → k < drainRowBytes r.cmd →
        memByte m (drainRowOff r.cmd i + k) = (drainedRow s r i).getD k 0) ∧
      (∀ a, (a < drainRowOff r.cmd 0 ∨ drainRowOff r.cmd (cmdRows r.cmd) ≤ a) → memByte m a = memByte s.cx.sram a)) ∧
  (∀ (s : State) (r : MxRun), DrainGoes s r 1 → r.row = cmdRows r.cmd → r.heldRows = [] →
    exec .drain s = .next (completeRun s r)) ∧
  (∀ (s : State) (r : MxRun), DrainGoes s r 2 → ∃ s', exec .drain s = .next s' ∧
    s'.inputs = s.inputs ++ [⟨.accumulateFlit (amaxFlit s r), Access.none⟩] ∧
    ∃ q, s'.mxRun = some q ∧ q.awaiting = true ∧ q.cmd.holds = [] ∧ s'.cx.accs = s.cx.accs ∧ s'.slots = s.slots) ∧
  (∀ (s : State) (r : MxRun), Runs s opDrain r → lostOperands s r = false → drainMode r = 1 → r.row < cmdRows r.cmd → r.heldRows.length < 4 →
    (∀ h ∈ drainRowRanges r.cmd r.row, bufferedIn s r.cmd.ctx h = false) →
    let u := drainRow s r r.row
    let c := { r.cmd with holds := runRanges r (r.row + 1) }
    let held := r.heldRows ++ [BitVec.ofNat 9 (tcwRow0 r.cmd.w3 + r.row)]
    let msgs := r.rowMsgs ++ [(BitVec.ofNat 9 (tcwRow0 r.cmd.w3 + r.row), s.cx.msgCounter)]
    let q := { u.2 with row := r.row + 1, heldRows := held, rowMsgs := msgs, cmd := c }
    exec .rowdrainDeposit s = .next (sendFrom { u.1 with mxRun := some q } u.1.cx s.core s.pkg (tcwHchan r.cmd.w3) kindRowDrain
      (rowPayload r.cmd r.row) r.cmd.ctx none)) ∧
  (∀ (s : State) (r : MxRun) (c : MxCmd) (rest : List MxCmd), Runs s opDrain r → drainMode r = 1 → s.mxQueue = c :: rest →
    (∀ x ∈ rest, x.num ≠ c.num) → s.lateCrws = [] → cmdOp c = opDrrel →
    (tcwAcc c.w0 = tcwAcc r.cmd.w0 →
      let held := r.heldRows.filter (fun x => decide (x ≠ c.w1.extractLsb' 0 9))
      exec .drrel s = .next { s with mxQueue := rest, mxRun := some { r with heldRows := held } }) ∧
    (tcwAcc c.w0 ≠ tcwAcc r.cmd.w0 → exec .drrel s = .next { s with mxQueue := rest })) ∧
  (∀ (s : State) (r : MxRun) (ans : AmaxAnswer), Runs s opDrain r → r.awaiting = true →
    exec (.amaxAnswer ans) s = .next (if ans = .refused then
      postTrap (completeRun s r) r.cmd .chainAbsent (tcwChain r.cmd.w0).toNat else completeRun s r)) ∧
  (∀ (s : State) (r : MxRun) (i j : Nat), Runs s opDrain r → r.awaiting = false → drainMode r ≠ 1 → inWindow r.cmd i j →
    lostAcc s (tcwAcc r.cmd.w0) (fun k => decide (k = accNo (tcwAcc r.cmd.w0) (i, j))) = true →
    exec .drain s = .next (lostScratch s r.cmd))

/-- R169, R172, R269, R351: a command that completes adds its flags to NUMSUM and its saturations to WCTLn; an enabled
flag it raised becomes a command trap of its task, and the task takes it at an instruction at issue. -/
def Sys2Proof.Claims.CommandTrapsTaken : Prop :=
  (∀ (s : State) (r : MxRun), r.report.nanAt = none →
    (r.report.flagAt = none → (completeRun s r).mxRun = none ∧ (completeRun s r).slots = s.slots ∧
      (r.report.cvts = 0 → (completeRun s r).cx.numsum = s.cx.numsum ||| BitVec.ofNat 64 (r.report.flags % 32))) ∧
    (∀ p, r.report.flagAt = some p → ∃ s1, s1.slots = s.slots ∧
      completeRun s r = postTrap s1 r.cmd .numFlag (numDetail r.cmd p r.report.flags))) ∧
  (∀ (s : State) (t : Task) (k : BitVec 2) (c : MxCmd) (cause : Cause) (d : Nat), taskIn s k.toNat = some t → t.tid = c.tid →
    t.cmdTrap = none → t.ending ≠ .departing →
    taskIn (postTrap s c cause d) k.toNat =
      some { t with cmdTrap := some ⟨⟨cause, BitVec.ofNat 32 d, 0⟩, c.pc, c.stream⟩ }) ∧
  (∀ (s : State) (t : Task) (k : BitVec 2) (c : CmdTrap), taskIn s k.toNat = some t → t.cmdTrap = some c →
    exec (.commandTrap k) s = .next (takeTrapAt s k.toNat c.stream true c.info c.pc))

/-! ### The accumulate network (R287 to R303) -/

/-- R289, R300 to R302: ACHAIN arms an idle chain over the landing range of its capability once every check has passed, of
which the first that fails traps, and replays the flits that were parked for it; ADISARM counts its flags, discards its parked flits and leaves it idle; ATEST reads its
status word. -/
def Obligations.ChainInstructions : Prop :=
  ∀ (s : State) (t u : Task) (c b d n : BitVec 5) (m : BitVec 1) (o : BitVec 3) (y : Word), Issues s t →
    (operandOf t s.cur.2 b (m.getLsbD 0) = some (y, u) →
      let a := armDesc y
      let x := capVal t c.toNat
      let va := capAddr x
      let len := capTop x - va.toNat
      let esize := if o = 0 then 16 else 4
      let range : Access44 := ⟨x, va, len, [permST], esize, false, false⟩
      let space := if ownSram s va then none else some dtlNotScratchpad
      let sized := len % esize = 0 ∧ 1 ≤ len / esize ∧ len / esize ≤ 16384
      let traps := TrapsWith (.achain c b m n o) s
      (a.ok = false → traps .illegalOp 9 0) ∧
      (a.ok = true → foreignStore s t.ctx va len = true → traps .foreignStore 0 va) ∧
      (a.ok = true → foreignStore s t.ctx va len = false →
        (x.tag = false → traps .capTag 0 va) ∧ (x.tag = true → capSealed x = true → traps .capSealed 0 va) ∧
        (x.tag = true → capSealed x = false → hasPerm x permST = false → traps .capPerm 0 va) ∧
        (∀ cause d, accessCheck s t.ctx range space = some (cause, d) → traps cause d (faultByte s range cause d))) ∧
      (a.ok = true → foreignStore s t.ctx va len = false → accessCheck s t.ctx range space = none → ¬ sized →
        traps .illegalOp 9 0) ∧
      (a.ok = true → foreignStore s t.ctx va len = false → accessCheck s t.ctx range space = none → sized →
        a.akind.getLsbD 1 = true → scratchEnd s.cx < a.boff + 32 →
        traps .pagePerm dtlNotScratchpad (mkVa 1 s.pkg s.core a.boff)) ∧
      (a.ok = true → foreignStore s t.ctx va len = false → accessCheck s t.ctx range space = none → sized →
        (a.akind.getLsbD 1 = true → a.boff + 32 ≤ scratchEnd s.cx) →
        ((chainAt s.cx n.toNat).armed = true → traps .chainConflict 1 0) ∧
        ((chainAt s.cx n.toNat).armed = false →
          (armOverlap s (vaOff va) len = true ∨ (a.akind.getLsbD 1 = true ∧ armOverlap s a.boff 32 = true) →
            traps .chainConflict 2 0) ∧
          (armOverlap s (vaOff va) len = false → (a.akind.getLsbD 1 = true → armOverlap s a.boff 32 = false) →
            (onScoreboard s va len = true ∨ s.sb ≠ [] → exec (.achain c b m n o) s = .next { s with hold := .other }) ∧
            (onScoreboard s va len = false → s.sb = [] →
              let k : Chain := ⟨true, o, BitVec.ofNat 22 (vaOff va), BitVec.ofNat 15 (len / esize), a.achan, a.akind,
                BitVec.ofNat 22 a.boff, none, BitVec.ofNat 64 (a.expected * 2 ^ 16 + o.toNat * 2 ^ 32), none⟩
              let s1 := { s with cx := putChain s.cx n.toNat k }
              (badWord s.cx (vaOff va) len = false →
                exec (.achain c b m n o) s = .next (goesOn (replayFlits s1 n.toNat s.ovf.length) u) ∧
                ((∀ e ∈ s.ovf, flitFor s.cx.num n.toNat e = false) →
                  exec (.achain c b m n o) s = .next (goesOn s1 u))) ∧
              (badWord s.cx (vaOff va) len = true → exec (.achain c b m n o) s =
                .next (goesOn (queueEvent (countUncorr s1) (.fatalContext s.cx.num false)) u))))))) ∧
    (let k := chainAt s.cx n.toNat
     (k.armed = false → TrapsWith (.adisarm n) s .chainNotArmed n.toNat 0) ∧
     (k.armed = true →
       let cx := putChain (orNumsum s.cx (statusFlags k.status)) n.toNat { k with armed := false, closing := none }
       let rest := s.ovf.filter (fun e => !flitFor s.cx.num n.toNat e)
       exec (.adisarm n) s = .next (goesOn { s with cx := cx, ovf := rest } t))) ∧
    (HasRoom t d (m.getLsbD 0) →
      exec (.atest d m n) s = .next (goesOn s (withResult t s.cur.2 d (m.getLsbD 0) (chainStatus s s.cx n.toNat))))

/-- R293 to R295, R297, R298, R354: ASEND and AVSEND stage a contribution of the task once the checks of R294 have passed, of
which the first that fails traps; the engine sends its flits, at most 64
without an acknowledgement, and an answer of the head acknowledges, asks again or refuses, which the
sending context hears of by a CHAIN_ABSENT report; an answer about a contribution that is no longer being sent has no effect.
An element that cannot be corrected ends the context (R285). -/
def Obligations.ContributionsTravel : Prop :=
  (∀ (s : State) (t u : Task) (a v : BitVec 5) (m w : BitVec 1) (x : Word) (dctx : BitVec 12), Issues s t →
    operandOf t s.cur.2 a (m.getLsbD 0) = some (x, u) →
    let d := chainDesc x
    let c := chainAt s.cx d.chain.toNat
    let own := d.pkg = s.pkg ∧ d.core = s.core
    let k := fun rows lanes => Contrib.mk s.nextId t.tid t.ctx d.chain d.pkg d.core dctx d.eidx rows lanes s.mxPushed
    let staged := fun k => goesOn { s with nextId := s.nextId + 1 } { u with staged := u.staged ++ [.contrib k] }
    let rowsFit := d.row0.toNat + d.nrm1.toNat < 128
    (d.ok = false ∨ ¬ rowsFit → TrapsWith (.asend a m w) s .illegalOp 9 0) ∧
    (d.ok = false ∨ d.row0 ≠ 0 ∨ d.nrm1 ≠ 0 → TrapsWith (.avsend a v m) s .illegalOp 9 0) ∧
    (∀ i, (i = .asend a m w ∧ rowsFit) ∨ (i = .avsend a v m ∧ d.row0 = 0 ∧ d.nrm1 = 0) → d.ok = true →
      (headContext s s.cx d.pkg d.core = none → TrapsWith i s .endpoint 0 0) ∧
      (own → c.armed = false → TrapsWith i s .chainNotArmed d.chain.toNat 0) ∧
      (own → c.armed = true → c.mode ≠ 0 → i = .asend a m w → TrapsWith i s .chainConflict 3 0) ∧
      (headContext s s.cx d.pkg d.core = some dctx → (own → c.armed = true) → (own → c.mode = 0 ∨ i = .avsend a v m) →
        8 ≤ t.staged.length → TrapsWith i s .stageFull 0 0)) ∧
    (d.ok = true → headContext s s.cx d.pkg d.core = some dctx → t.staged.length < 8 →
    (own → c.armed = true) →
    (d.row0.toNat + d.nrm1.toNat < 128 → (own → c.mode = 0) →
      exec (.asend a m w) s = .next (staged (k (some (decide (w = 1), d.row0, d.nrm1)) []))) ∧
    (d.row0 = 0 → d.nrm1 = 0 → exec (.avsend a v m) s = .next (staged (k none ((List.range 64).map (lane (vecVal t v)))))))) ∧
  (∀ (s : State) (c : Contrib), ∃ bs, refuseContrib s c = reportIn s c.ctx bs ∧ bs.length = 48 ∧ leAt bs 0 1 = 0x10 ∧
    leAt bs 1 1 = 4 ∧ leAt bs 2 6 = 0 ∧ leAt bs 8 4 = c.chain.toNat ∧ leAt bs 12 20 = 0 ∧ leAt bs 32 1 = c.chain.toNat ∧
    leAt bs 33 1 = 0 ∧ leAt bs 34 2 = c.eidx.toNat ∧ leAt bs 36 4 = c.hcore.toNat + c.hpkg.toNat * 2 ^ 10 ∧
    leAt bs 40 8 = 0) ∧
  (∀ (s : State) (n : BitVec 12) (bs : List Byte) (cx : CtxState), findCtx s n = some cx →
    (∀ k, supChannel cx = some k → reportIn s n bs = sendFrom s cx s.core s.pkg (BitVec.ofNat 6 k) kindFault bs n none) ∧
    (supChannel cx = none → s.regs.runqlost ≠ 0xFFFF →
      reportIn s n bs = { s with regs := { s.regs with runqlost := s.regs.runqlost + 1 } })) ∧
  (∀ (s : State) (c : Contrib) (r : List Contrib), s.sendQueue = c :: r → s.sending = [] →
    (c.rows.isSome = true → commandsDone s c.after = true) → lostRows s c = true →
    exec .accumulateSendStart s = .next (queueEvent (countUncorr s) (.fatalContext c.ctx false))) ∧
  (∀ (s : State) (c : Contrib) (r : List Contrib), s.sendQueue = c :: r → s.sending = [] →
    (c.rows.isSome = true → commandsDone s c.after = true) → lostRows s c = false →
    let fs := flitsOf s c
    (packagePresent s c.hpkg = true → ¬ (c.hpkg = s.pkg ∧ c.hcore = s.core) →
      let out := s.outbox ++ (fs.take 64).map (fun f => Packet.flit f c.hpkg c.hcore)
      let x : Sending := ⟨c, fs, min 64 fs.length⟩
      exec .accumulateSendStart s = .next { s with sendQueue := r, sending := [x], outbox := out }) ∧
    (packagePresent s c.hpkg = false →
      exec .accumulateSendStart s = .next (refuseContrib { s with sendQueue := r } c))) ∧
  (∀ (s : State) (x : Sending) (seq : Nat), s.sending = [x] → ¬ (x.contrib.hpkg = s.pkg ∧ x.contrib.hcore = s.core) →
    let rest := x.flits.filter (fun f => decide (f.seq ≠ seq))
    let packet := fun f => Packet.flit f x.contrib.hpkg x.contrib.hcore
    (rest = [] → exec (.flitAck x.contrib.num seq) s = .next { s with sending := [] }) ∧
    (∀ f, rest.head? = some f →
      let new := rest.filter (fun g => decide (x.next ≤ g.seq ∧ g.seq < f.seq + 64))
      let y : Sending := ⟨x.contrib, rest, x.next + new.length⟩
      exec (.flitAck x.contrib.num seq) s = .next { s with sending := [y], outbox := s.outbox ++ new.map packet }) ∧
    (let again := x.flits.filter (fun f => decide (seq ≤ f.seq ∧ f.seq < x.next))
     exec (.flitResendRequest x.contrib.num seq) s = .next { s with outbox := s.outbox ++ again.map packet }) ∧
    exec (.flitRefusal x.contrib.num) s = .next (refuseContrib { s with sending := [] } x.contrib)) ∧
  (∀ (s : State) (num seq : Nat), (∀ x ∈ s.sending, x.contrib.num ≠ num) →
    exec (.flitAck num seq) s = .next { s with hold := .absent } ∧
    exec (.flitResendRequest num seq) s = .next { s with hold := .absent } ∧
    exec (.flitRefusal num) s = .next { s with hold := .absent })

/-- R291, R296 to R299: a flit that comes out of sequence is asked for again or acknowledged again; one in sequence is
added to its armed chain, is parked while the chain is not armed, in the entry of R296, or is refused, and then what else
comes of its contribution is discarded; each mode of Table 2 of R291 adds as its row says, with poison, RANGE, KIND and MIXED,
and a landing element that cannot be corrected ends the context (R302); a chain that is complete is released once the stores
in the store buffer have been performed, and announces itself by a message or an arrival. -/
def Obligations.FlitsArrive : Prop :=
  (∀ (s : State) (f : Flit), f.contrib ∈ s.flitRefused → exec (.accumulateFlit f) s = .next s) ∧
  (∀ (s : State) (f : Flit), fencedOff s f.contrib.pkg = false → f.contrib ∉ s.flitRefused →
    let want := expectedFlit s f.contrib
    let s1 := noteFlit s f.contrib (want + 1)
    let refused := { s1 with flitRefused := s1.flitRefused ++ [f.contrib] }
    let n := f.chain.toNat
    (want < f.seq → exec (.accumulateFlit f) s = .next (answerFlit s f want .resend)) ∧
    (f.seq < want → exec (.accumulateFlit f) s = .next (answerFlit s f f.seq (.ack false))) ∧
    (f.seq = want → f.dctx ∉ s.pk.fatals → f.dctx = s.cx.num → s.cx.residency = .resident → findCtx s f.dctx = some s.cx →
      ((chainAt s.cx n).armed = true → (∀ e ∈ s.ovf, flitFor s.cx.num n e = false) →
        exec (.accumulateFlit f) s = .next (answerFlit (addFlit s1 f) f f.seq (.ack false))) ∧
      ((chainAt s.cx n).armed = false → s.ovf.length < ovfCapacity s → ∃ s2,
        park s1 s.cx.num (.flit f) = some s2 ∧ s2.ovf = s.ovf ++ [⟨nextPlace s, s.cx.num, .flit f⟩] ∧
        s2.home.mem = memWrite s.home.mem (ovfFirst s * frameBytes + 64 * nextPlace s) (flitEntry f) ∧
        exec (.accumulateFlit f) s = .next (answerFlit s2 f f.seq (.ack true))) ∧
      ((chainAt s.cx n).armed = false → ovfCapacity s ≤ s.ovf.length →
        exec (.accumulateFlit f) s = .next (answerFlit refused f f.seq .refuse))) ∧
    (f.seq = want → findCtx s f.dctx = none → f.dctx ∉ s.pk.fatals →
      exec (.accumulateFlit f) s = .next (answerFlit refused f f.seq .refuse)) ∧
    (f.seq = want → f.dctx ∈ s.pk.fatals → exec (.accumulateFlit f) s = .next (answerFlit s1 f f.seq (.ack false)))) ∧
  (∀ (s : State) (f : Flit) (x : BitVec 128), memWf s.cx.sram = true →
    let c := chainAt s.cx f.chain.toNat
    let a := c.base.toNat + 16 * f.eidx.toNat
    let old := leNat (memBytes s.cx.sram a 16)
    c.mode = 0 → f.wide = true → f.elems = [x] → f.poison = [false] → f.last = false → f.eidx.toNat < c.count.toNat →
    old ≠ 2 ^ 127 → lostLanding s f = false →
    let z := signedOf 128 old + x.toInt
    let w := max (-(2 ^ 127 - 1)) (min (2 ^ 127 - 1) z)
    leNat (memBytes (addFlit s f).cx.sram a 16) = wrapInt 128 w ∧
    (∀ i, i < a ∨ a + 16 ≤ i → memByte (addFlit s f).cx.sram i = memByte s.cx.sram i) ∧
    (let st := (chainAt (addFlit s f).cx f.chain.toNat).status
     st.getLsbD 36 = (c.status.getLsbD 36 || decide (z ≠ w)) ∧
     field st 48 16 = if z = w then field c.status 48 16 else min 0xFFFF (field c.status 48 16 + 1))) ∧
  (∀ (s : State) (f : Flit) (x : BitVec 128) (p : Bool), memWf s.cx.sram = true →
    let n := f.chain.toNat
    let c := chainAt s.cx n
    let size := if c.mode = 0 then 16 else 4
    let a := c.base.toNat + size * f.eidx.toNat
    let old := leNat (memBytes s.cx.sram a size)
    let y := x.toNat % 2 ^ 32
    let s' := addFlit s f
    let now := leNat (memBytes s'.cx.sram a size)
    let st := (chainAt s'.cx n).status
    let flagged := fun (g : Nat) => (∀ i, i < 5 → st.getLsbD (42 + i) = (c.status.getLsbD (42 + i) || g.testBit i))
    let others := ∀ i, i < a ∨ a + size ≤ i → memByte s'.cx.sram i = memByte s.cx.sram i
    let fits := f.eidx.toNat < c.count.toNat
    f.elems = [x] → f.poison = [p] → f.last = false →
    (lostLanding s f = true → s' = queueEvent (countUncorr s) (.fatalContext s.cx.num false)) ∧
    (lostLanding s f = false →
      -- WIDE: poison, which a 32-bit element never brings
      (c.mode = 0 → fits → old = 2 ^ 127 ∨ (f.wide = true ∧ p = true) → now = 2 ^ 127 ∧ st.getLsbD 37 = true ∧ others) ∧
      (c.mode = 0 → fits → old ≠ 2 ^ 127 → f.wide = false →
        now = wrapInt 128 (max (-(2 ^ 127 - 1)) (min (2 ^ 127 - 1) (signedOf 128 old + signedOf 32 y))) ∧
        st.getLsbD 37 = c.status.getLsbD 37 ∧ others) ∧
      -- FADD, IADD, FMAX, OR
      (f.wide = false → fits →
        (c.mode = 1 → let r := addNum f32Fmt 0 (decodeFloat f32Fmt old) (decodeFloat f32Fmt y)
          now = r.1 ∧ flagged r.2 ∧ others) ∧
        (c.mode = 2 → now = (old + y) % 2 ^ 32 ∧ st = c.status ∧ others) ∧
        (c.mode = 3 → now = (minMaxFloat f32Fmt 0 true old y).1 ∧ flagged (minMaxFloat f32Fmt 0 true old y).2 ∧ others) ∧
        (c.mode = 4 → now = old ||| y ∧ st = c.status ∧ others)) ∧
      -- KIND and RANGE
      (f.wide = true → c.mode ≠ 0 → s'.cx.sram = s.cx.sram ∧ st.getLsbD 39 = true) ∧
      (¬ (f.wide = true ∧ c.mode ≠ 0) → ¬ fits → s'.cx.sram = s.cx.sram ∧ st.getLsbD 40 = true) ∧
      -- MIXED
      (f.wide = true → c.anchor = none → (chainAt s'.cx n).anchor = some f.anchor ∧ st.getLsbD 38 = c.status.getLsbD 38) ∧
      (∀ b, f.wide = true → c.anchor = some b → (chainAt s'.cx n).anchor = some b ∧
        st.getLsbD 38 = (c.status.getLsbD 38 || decide (b ≠ f.anchor))))) ∧
  (∀ (s : State) (f : Flit),
    let n := f.chain.toNat
    let k := chainAt s.cx n
    f.last = true → field k.status 0 16 + 1 = field k.status 16 16 → k.armed = true → lostLanding s f = false →
    let z := chainAt (addFlit s f).cx n
    (s.sb ≠ [] → z.armed = true ∧ z.closing = some s.sb.length ∧ (addFlit s f).cx.pub = s.cx.pub ∧
      (addFlit s f).outbox = s.outbox) ∧
    (s.sb = [] → z.armed = false ∧ (addFlit s f).cx.pub = s.cx.pub + 1)) ∧
  (∀ (s : State) (f : Flit),
    let k := chainAt s.cx f.chain.toNat
    let count := field k.status 0 16
    count + 1 < 2 ^ 16 → count + (if f.last then 1 else 0) ≠ field k.status 16 16 → lostLanding s f = false →
    field (chainAt (addFlit s f).cx f.chain.toNat).status 0 16 = count + (if f.last then 1 else 0) ∧
      (chainAt (addFlit s f).cx f.chain.toNat).armed = k.armed ∧ (addFlit s f).cx.pub = s.cx.pub) ∧
  (∀ (s : State) (n : Nat), n < 32 →
    let k := chainAt s.cx n
    let s1 := { s with fresh := s.fresh + 1, cx := { putChain s.cx n { k with armed := false, closing := none } with
      pub := s.cx.pub + 1 } }
    let r : Record := { owner := ownId s, pub := s.cx.pub + 1, x := Config.choice s.fresh }
    let told := sendFrom s1 s1.cx s.core s.pkg k.achan kindAnnounce (announcePayload s1 s1.cx n) s.cx.num (some r)
    let arrives := fun (u : State) => { u with cx := { u.cx with sram := arriveAt u.cx.sram k.boff.toNat Arrival.plain } }
    (k.akind = 0 → closeChain s n = s1) ∧ (k.akind = 1 → closeChain s n = told) ∧ (k.akind = 2 → closeChain s n = arrives s1) ∧
    (k.akind = 3 → closeChain s n = arrives told) ∧
    (let bs := announcePayload s1 s1.cx n
     bs.length = 48 ∧ leAt bs 0 8 = (mkVa 1 s.pkg s.core k.base.toNat).toNat ∧
     leAt bs 8 8 = (chainStatus s1 s1.cx n).toNat ∧ leAt bs 16 1 = n ∧ leAt bs 17 1 = 0 ∧
     leAt bs 18 2 = (k.anchor.getD 0).toNat ∧ leAt bs 20 28 = 0) ∧
    (∀ i, i ≠ 35 → i ≠ 41 → (chainStatus s1 s1.cx n).getLsbD i = k.status.getLsbD i)) ∧
  (∀ (s : State) (n k : Nat), n < 32 → (chainAt s.cx n).closing = some k → (∀ j, j ≠ n → (chainAt s.cx j).closing = none) →
    (k ≤ 1 → chainsAfterStore s = closeChain s n ∧ (chainAt (closeChain s n).cx n).armed = false ∧
      (closeChain s n).cx.pub = s.cx.pub + 1) ∧
    (1 < k → chainsAfterStore s = { s with cx := putChain s.cx n { chainAt s.cx n with closing := some (k - 1) } }))

/-! ### Messages, ports, channel bits, endpoints, SPAWN (R304 to R318) -/

namespace Sys2Proof.Claims

/-- The message that SEND and SENDC stage (R304, R311): header from the descriptor and the task, payload slots from pairs
of registers or, where the descriptor marks them, capabilities, cut at the length. -/
def stagedMessage (s : State) (t : Task) (d : SendDesc) (b : BitVec 5) (k : Nat) (dctx : BitVec 12) : Message :=
  let r := fun (j : Nat) => regVal t s.cur.2 (b + BitVec.ofNat 5 j)
  let slot := fun (j : Nat) =>
    cutSlot d.len j (if d.cslots.testBit j then capVal t (k + j) else pairSlot (r (2 * j)) (r (2 * j + 1)))
  ⟨mkHdr0 d.core d.pkg d.chan s.core s.pkg, mkHdr1 s.cx.msgCounter d.len 0 t.ctx t.sup dctx, slot 0, slot 1, slot 2, none⟩

/-- The message of a SPAWN (R313): its first two slots hold four registers. -/
def spawnMessage (s : State) (t : Task) (d : SendDesc) (b : BitVec 5) (dctx : BitVec 12) : Message :=
  let r := fun (j : Nat) => regVal t s.cur.2 (b + BitVec.ofNat 5 j)
  ⟨mkHdr0 d.core d.pkg d.chan s.core s.pkg, mkHdr1 s.cx.msgCounter 32 1 t.ctx t.sup dctx, pairSlot (r 0) (r 1),
    pairSlot (r 2) (r 3), Cap.null, none⟩

/-- The counter of the context has given an id (R306). -/
def counted (s : State) : State := { s with cx := { s.cx with msgCounter := s.cx.msgCounter + 1 } }

/-- The record of a release by a task (R85). -/
def recordOf (s : State) (t : Task) : Record := { owner := ownId s, pub := s.cx.pub + 1, x := recordX t }

/-- A packet of the pair with a core has taken its number (R364). -/
def numbered (s : State) (pkg : BitVec 9) (core : BitVec 10) : State :=
  { s with packetSent := setPairNo s.packetSent (pkg, core) (pairNo s.packetSent (pkg, core) + 1) }

/-- An answered SPAWN writes its register, or the entry that it reserved behind `q` (R136, R313). -/
def answered (t : Task) (st : Stream) (d : BitVec 5) (m : Bool) (q : Queue Word) (v : Word) : Task :=
  if m then setPortQueue t d.toNat (q ++ [some v]) else setReg t st d v

/-- A descriptor whose other fields are zero (R310). -/
def Plain (d : SendDesc) : Prop := d.ok = true ∧ d.len = 0 ∧ d.cslots = 0

end Sys2Proof.Claims

/-- R306, R308, R310, R311, R314, R317: SEND and SENDC stage a message with an id of the context's counter, after the checks
of R311 in order; SOPEN opens the task's port as a release, SPUT sends a word through it once the stream has its route (R369),
SCLOSE closes it. -/
def Obligations.MessagesStaged : Prop :=
  (∀ (s : State) (t u : Task) (a b : BitVec 5) (m : BitVec 1) (k : BitVec 4) (x : Word), Issues s t →
    operandOf t s.cur.2 a (m.getLsbD 0) = some (x, u) →
    let d := sendDesc x
    let id := some s.cx.msgCounter
    let staged := fun msg => goesOn (counted s) { u with staged := u.staged ++ [.message msg], lastMsgid := id }
    (48 < d.len ∨ d.ok = false → TrapsWith (.send a b m) s .illegalOp 9 0 ∧ TrapsWith (.sendc a b m k) s .illegalOp 9 0) ∧
    (d.len ≤ 48 → d.ok = true →
      (d.cslots ≠ 0 → TrapsWith (.send a b m) s .illegalOp 9 0 ∧ (k = 0 → TrapsWith (.sendc a b m k) s .illegalOp 9 0)) ∧
      (destCtx s s.cx d.pkg d.core d.chan.toNat = none →
        (d.cslots = 0 → TrapsWith (.send a b m) s .endpoint 0 0) ∧
        (k ≠ 0 ∨ d.cslots = 0 → TrapsWith (.sendc a b m k) s .endpoint 0 0)) ∧
      (∀ dctx, destCtx s s.cx d.pkg d.core d.chan.toNat = some dctx →
        (8 ≤ t.staged.length → (d.cslots = 0 → TrapsWith (.send a b m) s .stageFull 0 0) ∧
          (k ≠ 0 ∨ d.cslots = 0 → TrapsWith (.sendc a b m k) s .stageFull 0 0)) ∧
        (t.staged.length < 8 →
          (d.cslots = 0 → exec (.send a b m) s = .next (staged (stagedMessage s t d b 0 dctx))) ∧
          (k ≠ 0 ∨ d.cslots = 0 → exec (.sendc a b m k) s = .next (staged (stagedMessage s t d b k.toNat dctx))))))) ∧
  (∀ d m, encode (.msgid d m) = [opWord 0x1A 5 ||| put d 21 ||| put m 8]) ∧
  (∀ (st : Stream) (w : InstrWord), (w >>> 26).toNat = 0x1A → w.toNat % 256 = 5 → w.toNat / 2 ^ 11 % 2 ^ 10 ≠ 0 →
    decode st w = .error .reservedField) ∧
  (∀ (s : State) (t : Task) (d : BitVec 5) (m : BitVec 1), Issues s t → HasRoom t d (m.getLsbD 0) →
    (t.lastMsgid = none → exec (.msgid d m) s = .next (goesOn s (withResult t s.cur.2 d (m.getLsbD 0) 0))) ∧
    (∀ i, t.lastMsgid = some i → exec (.msgid d m) s =
      .next (goesOn s (withResult t s.cur.2 d (m.getLsbD 0) (BitVec.ofNat 64 (i.toNat + 2 ^ 16)))))) ∧
  (∀ (s : State) (t : Task) (a : BitVec 5), Issues s t →
    let d := sendDesc (regVal t s.cur.2 a)
    (t.port.isSome = true → TrapsWith (.sopen a) s .illegalOp 13 0) ∧
    (t.port = none → ¬ Plain d → TrapsWith (.sopen a) s .illegalOp 9 0) ∧
    (t.port = none → Plain d → destCtx s s.cx d.pkg d.core d.chan.toNat = none → TrapsWith (.sopen a) s .endpoint 0 0) ∧
    (∀ dctx, t.port = none → Plain d → destCtx s s.cx d.pkg d.core d.chan.toNat = some dctx → s.sb = [] →
      let p : Port := ⟨d.chan, d.core, d.pkg, dctx, 0, s.nextId, recordOf s t, false, []⟩
      exec (.sopen a) s = .next (goesOn { published s with nextId := s.nextId + 1 } { t with port := some p }))) ∧
  (∀ (s : State) (t u : Task) (a : BitVec 5) (m : BitVec 1) (x : Word), Issues s t →
    operandOf t s.cur.2 a (m.getLsbD 0) = some (x, u) →
    (t.port = none → TrapsWith (.sput a m) s .illegalOp 13 0) ∧
    (∀ p, t.port = some p → packagePresent s p.dpkg = false → TrapsWith (.sput a m) s .endpoint 0 0) ∧
    (∀ p, t.port = some p → packagePresent s p.dpkg = true →
      (p.routed = false → exec (.sput a m) s = .next (putTask s (curK s) (setWait t s.cur.2 .route))) ∧
      (p.routed = true → exec (.sput a m) s = .next (goesOn (sendStream s p t.ctx t.sup (.word x))
        { setWait u s.cur.2 .ready with port := some { p with words := p.words + 1 } })))) ∧
  (∀ (s : State) (t : Task), Issues s t →
    (t.port = none → TrapsWith .sclose s .illegalOp 13 0) ∧
    (∀ p, t.port = some p → packagePresent s p.dpkg = false → TrapsWith .sclose s .endpoint 0 0) ∧
    (∀ p, t.port = some p → packagePresent s p.dpkg = true → s.sb = [] → exec .sclose s =
      .next (goesOn (sendStream (published s) p t.ctx t.sup (.close (recordOf s t))) { t with port := none })))

/-- R316, R318: a channel-bit instruction acts on an entry of this core at once, where a supervisor channel asks for a
supervisor task, or leaves as a packet; EPBIND clears an endpoint entry, or installs one with the context that the grant
record gives. That an operation on an entry that is absent changes its bytes as it does those of any other (log entry 63), and
how the security core's answer comes (log entry 126), are the model's choices. -/
def Obligations.ChannelBitsAndEndpoints : Prop :=
  (∀ (s : State) (t u u2 : Task) (a b : BitVec 5) (m n : BitVec 1) (x y : Word), Issues s t →
    operandOf t s.cur.2 a (m.getLsbD 0) = some (x, u) → operandOf u s.cur.2 b (n.getLsbD 0) = some (y, u2) →
    let d := sendDesc x
    let here := fun op => reevaluate { s with cx := applyChanOp s.cx d.chan.toNat op } d.chan.toNat
    let away := fun op dctx => emit (numbered s d.pkg d.core)
      (.chanop ⟨op, d.chan, dctx, t.ctx, s.pkg, s.core, t.sup⟩ d.pkg d.core (pairNo s.packetSent (d.pkg, d.core)))
    (¬ Plain d → TrapsWith (.chen a m) s .illegalOp 9 0 ∧ TrapsWith (.chdis a m) s .illegalOp 9 0 ∧
      TrapsWith (.chhold a m) s .illegalOp 9 0 ∧ TrapsWith (.chrel a m) s .illegalOp 9 0 ∧
      TrapsWith (.chpend a b n m) s .illegalOp 9 0) ∧
    (Plain d → d.pkg = s.pkg → d.core = s.core →
      (chanSup s.cx d.chan.toNat = false ∨ t.sup = true →
        exec (.chen a m) s = .next (goesOn (here .enable) u) ∧ exec (.chdis a m) s = .next (goesOn (here .disable) u) ∧
        exec (.chhold a m) s = .next (goesOn (here .hold) u) ∧ exec (.chrel a m) s = .next (goesOn (here .release) u) ∧
        exec (.chpend a b n m) s = .next (goesOn (here (.pend y)) u2)) ∧
      (chanSup s.cx d.chan.toNat = true → t.sup = false → TrapsWith (.chen a m) s .priv 0 0 ∧
        TrapsWith (.chdis a m) s .priv 0 0 ∧ TrapsWith (.chhold a m) s .priv 0 0 ∧ TrapsWith (.chrel a m) s .priv 0 0 ∧
        TrapsWith (.chpend a b n m) s .priv 0 0)) ∧
    (Plain d → ¬ (d.pkg = s.pkg ∧ d.core = s.core) →
      (destCtx s s.cx d.pkg d.core d.chan.toNat = none → TrapsWith (.chen a m) s .endpoint 0 0 ∧
        TrapsWith (.chdis a m) s .endpoint 0 0 ∧ TrapsWith (.chhold a m) s .endpoint 0 0 ∧
        TrapsWith (.chrel a m) s .endpoint 0 0 ∧ TrapsWith (.chpend a b n m) s .endpoint 0 0) ∧
      (∀ dctx, destCtx s s.cx d.pkg d.core d.chan.toNat = some dctx →
        exec (.chen a m) s = .next (goesOn (away .enable dctx) u) ∧ exec (.chdis a m) s = .next (goesOn (away .disable dctx) u) ∧
        exec (.chhold a m) s = .next (goesOn (away .hold dctx) u) ∧ exec (.chrel a m) s = .next (goesOn (away .release dctx) u) ∧
        exec (.chpend a b n m) s = .next (goesOn (away (.pend y) dctx) u2)))) ∧
  (∀ (cx : CtxState) (n : Nat) (y : Word), memWf cx.sram = true → n < 64 →
    chanEn (applyChanOp cx n .enable) n = true ∧ chanEn (applyChanOp cx n .disable) n = false ∧
    chanHold (applyChanOp cx n .hold) n = true ∧ chanHold (applyChanOp cx n .release) n = false ∧
    chanHold (applyChanOp cx n .enable) n = chanHold cx n ∧ chanEn (applyChanOp cx n .hold) n = chanEn cx n ∧
    (chanPending (applyChanOp cx n (.pend y)) n : Int) = min (max (chanPending cx n + y.toInt) 0) 65535) ∧
  (∀ (s : State) (t : Task) (d c : BitVec 5), Issues s t →
    let i := (regVal t s.cur.2 d).toNat
    let k := capVal t c.toNat
    let bound := fun e => { s with cx := { s.cx with endpoints := vset s.cx.endpoints i e } }
    (32 ≤ i → TrapsWith (.epbind d c) s .illegalOp 9 0) ∧
    (i < 32 → c = 0 → exec (.epbind d c) s = .next (goesOn (bound none) t)) ∧
    (i < 32 → c ≠ 0 → k.tag = false → TrapsWith (.epbind d c) s .capTag 0 0) ∧
    (i < 32 → c ≠ 0 → k.tag = true → capType k ≠ 2 → TrapsWith (.epbind d c) s .capPerm 1 0) ∧
    (i < 32 → c ≠ 0 → k.tag = true → capType k = 2 →
      ((streamOf t s.cur.2).wait = .ready → exec (.epbind d c) s =
        .next (emit (putTask s (curK s) (setWait t s.cur.2 (.epbind k none))) (.epbind s.cur.1 k))) ∧
      (∀ j dctx, (streamOf t s.cur.2).wait = .epbind j (some dctx) → exec (.epbind d c) s =
        .next (goesOn (bound (some (endpointOf k dctx))) (setWait t s.cur.2 .ready))))) ∧
  (∀ (s : State) (t : Task) (k : BitVec 2) (c : Cap), slotHolds s k t → t.sa.wait = .epbind c none →
    let e := endpointOf c t.ctx
    let answers := fun dctx => exec (.epbindAnswer k dctx) s = .next (putTask s k.toNat (setWait t .A (.epbind c (some dctx))))
    (∀ g r, s.pk.grants = g :: r → g.grantee = t.ctx → g.pkg = e.pkg → g.core = e.core → g.lo.toNat ≤ e.lo →
      e.top ≤ g.hi.toNat + 1 → answers g.grantor) ∧
    ((∀ g ∈ s.pk.grants, g.grantee ≠ t.ctx ∨ g.pkg ≠ e.pkg ∨ g.core ≠ e.core ∨ e.lo < g.lo.toNat ∨ g.hi.toNat + 1 < e.top) →
      answers t.ctx))

/-- R312, R313, R370: SPAWN takes its operands, asks the target for a slot and waits; granted, it stages its message for the
context that it asked and writes 1, refused it writes 0, and to a package that is fenced off meanwhile it traps; the target reserves its lowest free slot for an OPEN enabled channel, and frees it when the
reservation is given back; the message starts the task there. -/
def Obligations.SpawnHandshake : Prop :=
  (∀ (s : State) (t u : Task) (d a b : BitVec 5) (n m : BitVec 1) (x : Word) (dctx : BitVec 12), Issues s t →
    (streamOf t s.cur.2).wait = .ready → operandOf t s.cur.2 a (n.getLsbD 0) = some (x, u) → HasRoom u d (m.getLsbD 0) →
    let q := sendDesc x
    (Plain q → destCtx s s.cx q.pkg q.core q.chan.toNat = some dctx →
      let v := if m = 1 then setPortQueue u d.toNat (portQueue u d.toNat ++ [none]) else u
      let s1 := { putTask s (curK s) (setWait v s.cur.2 (.spawn s.nextId q.pkg q.core x dctx none)) with nextId := s.nextId + 1 }
      let r : SpawnReq := ⟨false, s.nextId, s.pkg, s.core, dctx, q.chan⟩
      exec (.spawn d a b n m) s = .next (if q.pkg = s.pkg ∧ q.core = s.core then queueEvent s1 (.spawnRequest r)
        else emit s1 (.spawnReq r q.pkg q.core))) ∧
    (Plain q → destCtx s s.cx q.pkg q.core q.chan.toNat = none → TrapsWith (.spawn d a b n m) s .endpoint 0 0) ∧
    (¬ Plain q → TrapsWith (.spawn d a b n m) s .illegalOp 9 0)) ∧
  (∀ (s : State) (t : Task) (d a b : BitVec 5) (n m : BitVec 1) (x : Word) (dctx : BitVec 12) (id : Nat) (p : BitVec 9)
      (c : BitVec 10) (q : Queue Word), Issues s t →
    (m = 1 → portQueue t d.toNat = q ++ [none] ∧ NoneReserved q) →
    ((streamOf t s.cur.2).wait = .unreachable → TrapsWith (.spawn d a b n m) s .endpoint 0 0) ∧
    ((streamOf t s.cur.2).wait = .spawn id p c x dctx (some false) → exec (.spawn d a b n m) s =
      .next (goesOn s (answered (setWait t s.cur.2 .ready) s.cur.2 d (m.getLsbD 0) q 0))) ∧
    ((streamOf t s.cur.2).wait = .spawn id p c x dctx (some true) →
      (t.staged.length < 8 →
        let msg := Staged.spawn (spawnMessage s t (sendDesc x) b dctx) id
        let v := { setWait t s.cur.2 .ready with staged := t.staged ++ [msg], lastMsgid := some s.cx.msgCounter }
        exec (.spawn d a b n m) s = .next (goesOn (counted s) (answered v s.cur.2 d (m.getLsbD 0) q 1))) ∧
      (8 ≤ t.staged.length → TrapsWith (.spawn d a b n m) s .stageFull 0 0))) ∧
  (∀ (s : State) (q : SpawnReq),
    let takes := fencedOff s q.spkg = false ∧ q.dctx ≠ 0 ∧ s.cx.num = q.dctx ∧ s.switchReq = false ∧
      chanPresent s.cx q.chan.toNat = true ∧ chanEn s.cx q.chan.toNat = true ∧ chanHold s.cx q.chan.toNat = false
    (q.release = false →
      (¬ takes → exec (.spawnRequest q) s = .next (answerSpawn s q false)) ∧
      ((∀ k, k < 4 → slotAt s k ≠ .free) → exec (.spawnRequest q) s = .next (answerSpawn s q false)) ∧
      (∀ k, takes → k < 4 → slotAt s k = .free → (∀ j, j < k → slotAt s j ≠ .free) → exec (.spawnRequest q) s =
        .next (answerSpawn (setSlot s k (.reserved q.id q.spkg q.score q.chan)) q true))) ∧
    (q.release = true → ∃ s1, exec (.spawnRequest q) s = .next (giveSlots s1) ∧ s1 = { s with slots := s1.slots } ∧
      (∀ k, k < 4 → (∀ n, slotAt s k ≠ .reserved q.id q.spkg q.score n) → slotAt s1 k = slotAt s k) ∧
      (∀ k n, k < 4 → slotAt s k = .reserved q.id q.spkg q.score n → slotAt s1 k = .free))) ∧
  (∀ (s : State) (id : Nat) (g : Bool) (k : BitVec 2) (t : Task) (p : BitVec 9) (c : BitVec 10) (x : Word)
      (dctx : BitVec 12), id < s.nextId → slotHolds s k t → t.sa.wait = .spawn id p c x dctx none →
    ∃ s' u, exec (.spawnResponse id g) s = .next s' ∧ slotHolds s' k u ∧ u.sa = { t.sa with wait := .spawn id p c x dctx (some g) } ∧
      u = { t with sa := u.sa, se := u.se } ∧ s' = { s with slots := s'.slots, cx := s'.cx, others := s'.others }) ∧
  (∀ (s : State) (m : Message) (k : Nat) (id : Nat), isHere s m = true → msgKind m = kindSpawn →
    silenced s (msgDctx m) (msgSrcPkg m) = false → s.cx.num = msgDctx m → k < 4 →
    slotAt s k = .reserved id (msgSrcPkg m) (msgSrcCore m) (msgChan m) →
    (∀ j i, j < k → slotAt s j ≠ .reserved i (msgSrcPkg m) (msgSrcCore m) (msgChan m)) →
    exec (.spawnArrival m) s = .next (startTask s k (activate s s.cx (msgChan m).toNat m none) m.record) ∧
    (m.record = none → ∃ u, slotAt (startTask s k (activate s s.cx (msgChan m).toNat m none) m.record) k = .running u ∧
      u.spawned = true ∧ u.chan = msgChan m ∧ vget u.a 1 0 = m.slot0.bits.extractLsb' 0 64 ∧ vget u.a 7 0 = m.hdr0 ∧
      vget u.c 8 Cap.null = m.slot0))

/-- R314 to R316, R331 to R337, R413: a message is written into the free end of its channel's ring as R334 gives, with a pad
marker where the end of the ring has no room, or is held while there is none; held messages go to the overflow store in time;
waiting raises a run-queue entry; channel bits and stream words from other cores are applied at the destination, five words to a
message, with close and abort markers; the packets of a source are accepted in sequence (R364). That the report of a discarded
arrival carries that message's msgid (log entry 53), that a channel-bit operation changes an absent entry (log entry 63), and
that the route is reserved over the first minimal link with a channel free (log entry 64) are the model's choices. -/
def Obligations.ArrivalsDelivered : Prop :=
  (∀ (s : State) (m : Message),
    let n := (msgChan m).toNat
    isHere s m = true → msgKind m = kindData → silenced s (msgDctx m) (msgSrcPkg m) = false →
    (findCtx s (msgDctx m) = none → exec (.messageArrival m) s = .next
      (tellSource s (msgSrcPkg m) (msgSrcCore m) (msgSctx m) (msgId m).toNat (headerBytes m))) ∧
    (findCtx s (msgDctx m) = some s.cx → s.cx.residency = .resident → chanPresent s.cx n = true →
      (∀ e ∈ s.ovf, parkedFor s.cx.num n e = false) →
      ((∀ x ∈ s.cx.held, parkedChan x ≠ some n) →
        (∀ c, ringDeposit s s.cx n m = some c → exec (.messageArrival m) s = .next (reevaluate { s with cx := c } n)) ∧
        (ringDeposit s s.cx n m = none → exec (.messageArrival m) s =
          .next { s with cx := { s.cx with held := s.cx.held ++ [.message m] } })) ∧
      ((∃ x ∈ s.cx.held, parkedChan x = some n) → exec (.messageArrival m) s =
        .next { s with cx := { s.cx with held := s.cx.held ++ [.message m] } })) ∧
    (findCtx s (msgDctx m) = some s.cx → s.cx.residency = .resident → chanPresent s.cx n = true →
      (∃ e ∈ s.ovf, parkedFor s.cx.num n e = true) → exec (.messageArrival m) s = .next (parkMessage s s.cx.num m)) ∧
    (findCtx s (msgDctx m) = some s.cx → s.cx.residency = .resident → chanPresent s.cx n = false →
      exec (.messageArrival m) s =
        .next (reportIn s s.cx.num (reportPayload 0x16 4 0 0 (msgId m).toNat 0 0 0 (headerBytes m))))) ∧
  (∀ (s : State) (cx : CtxState) (n : Nat) (m : Message), memWf cx.sram = true → n < 64 →
    let base := chanRbase cx n
    let size := chanRsize cx n
    let used := chanUsed cx n
    let head := if used = 0 then 0 else chanHead cx n
    let tail := (head + used) % size
    let record : Message := ⟨m.hdr0, m.hdr1, arriveSlot s cx.num m.slot0, arriveSlot s cx.num m.slot1,
      arriveSlot s cx.num m.slot2, m.record⟩
    let goesTo := fun (off now : Nat) => ∃ c, ringDeposit s cx n m = some c ∧ chanUsed c n = now ∧ chanHead c n = head ∧
      recordAt c (base + off) = record
    64 ≤ size → used ≤ size → head < size → base % 16 = 0 → head % 16 = 0 → used % 16 = 0 →
    (base + size ≤ chanAddr cx n ∨ chanAddr cx n + 64 ≤ base) →
    (used = 0 → goesTo 0 64) ∧ (used = size → ringDeposit s cx n m = none) ∧
    (0 < used → used < size → head < tail →
      (64 ≤ size - tail → goesTo tail (used + 64)) ∧
      (size - tail < 64 → head < 64 → ringDeposit s cx n m = none) ∧
      (size - tail < 64 → 64 ≤ head → goesTo 0 (used + (size - tail) + 64) ∧ ∀ c, ringDeposit s cx n m = some c →
        ∀ i, i < size - tail → memByte c.sram (base + tail + i) = if i < 8 then 0xFF else 0)) ∧
    (0 < used → used < size → tail ≤ head →
      (64 ≤ head - tail → goesTo tail (used + 64)) ∧ (head - tail < 64 → ringDeposit s cx n m = none))) ∧
  (∀ (s : State) (m : Message), findCtx s s.cx.num = some s.cx → s.cx.held = [.message m] → s.ovf.length < ovfCapacity s →
    ∃ s', exec (.ringHoldTimeout s.cx.num (msgChan m)) s = .next s' ∧ s'.cx = { s.cx with held := [] } ∧
      s'.ovf = s.ovf ++ [⟨nextPlace s, s.cx.num, .message (epochFilter s s.cx.num m)⟩] ∧ s'.slots = s.slots) ∧
  (∀ (s : State) (n : BitVec 6) (r : BitVec 2) (q i : Nat), s.cx.runq[i]? = some (.chan n r q) →
    exec (.priorityAgeing i) s =
      .next { s with cx := { s.cx with runq := s.cx.runq.set i (.chan n (if r = 3 then 3 else r + 1) q) } }) ∧
  (∀ (s : State) (p : ChanPacket), silenced s p.dctx p.spkg = false →
    let n := p.chan.toNat
    (findCtx s p.dctx = some s.cx → p.dctx = s.cx.num → s.cx.residency = .resident →
      (chanSup s.cx n = false ∨ p.sup = true → exec (.channelBitArrival p) s =
        .next (reevaluate { s with cx := applyChanOp s.cx n p.op } n)) ∧
      (chanSup s.cx n = true → p.sup = false → exec (.channelBitArrival p) s = .next (reevaluate s n))) ∧
    (∀ cx, findCtx s p.dctx = some cx → cx.num ≠ s.cx.num → cx.residency = .out →
      ((∃ e ∈ s.ovf, parkedFor cx.num n e = true) → exec (.channelBitArrival p) s = .next (parkChanop s cx.num p)) ∧
      ((∀ e ∈ s.ovf, parkedFor cx.num n e = false) →
        ((∃ x ∈ cx.held, parkedChan x = some n) →
          exec (.channelBitArrival p) s = .next (putCtx s { cx with held := cx.held ++ [.chanop p] })) ∧
        ((∀ x ∈ cx.held, parkedChan x ≠ some n) → exec (.channelBitArrival p) s = .next (putCtx s
          (if chanSup cx n = true ∧ p.sup = false then cx else applyChanOp cx n p.op))))) ∧
    (∀ cx, findCtx s p.dctx = some cx → cx.residency = .absent → s.ovf.length < ovfCapacity s →
      ∃ s', exec (.channelBitArrival p) s = .next s' ∧ s'.ovf = s.ovf ++ [⟨nextPlace s, cx.num, .chanop p⟩])) ∧
  (∀ (s : State) (f : StreamFlit) (i : InStream) (w : Word), silenced s f.dctx f.spkg = false →
    findCtx s f.dctx = some s.cx → s.cx.inStreams = [i] → i.chan = f.chan →
    (ofStream f i = false → f.item = .word w → exec (.streamWordArrival f) s = .next { s with hold := .other }) ∧
    (∀ r, ofStream f i = false → f.item = .close r →
      exec (.streamWordArrival f) s = .next (streamMessage s f.dctx (newStream f) 2 r)) ∧
    (ofStream f i = false → f.item = .abort →
      exec (.streamWordArrival f) s = .next (streamMessage s f.dctx (newStream f) 4 f.openRecord)) ∧
    (ofStream f i = true → f.item = .word w → i.words.length < 4 → exec (.streamWordArrival f) s =
      .next { s with cx := { s.cx with inStreams := [{ i with words := i.words ++ [w] }] } }) ∧
    (ofStream f i = true → f.item = .word w → i.words.length = 4 → exec (.streamWordArrival f) s =
      .next (streamMessage { s with cx := { s.cx with inStreams := [{ i with words := [], seq := i.seq + 1 }] } } s.cx.num
        { i with words := i.words ++ [w] } 0 i.record)) ∧
    (∀ r, ofStream f i = true → f.item = .close r → exec (.streamWordArrival f) s =
      .next (streamMessage { s with cx := { s.cx with inStreams := [] } } s.cx.num i 2 r)) ∧
    (ofStream f i = true → f.item = .abort → exec (.streamWordArrival f) s =
      .next (streamMessage { s with cx := { s.cx with inStreams := [] } } s.cx.num i 4 i.record))) ∧
  (∀ (s : State) (f : StreamFlit), silenced s f.dctx f.spkg = false → findCtx s f.dctx = some s.cx → s.cx.inStreams = [] →
    let i := newStream f
    (∀ w, f.item = .word w → exec (.streamWordArrival f) s =
      .next { s with cx := { s.cx with inStreams := [{ i with words := [w] }] } }) ∧
    (∀ r, f.item = .close r → exec (.streamWordArrival f) s = .next (streamMessage s s.cx.num i 2 r)) ∧
    (f.item = .abort → exec (.streamWordArrival f) s = .next (streamMessage s s.cx.num i 4 f.openRecord))) ∧
  (∀ (i : InStream) (flags : Nat), i.words.length ≤ 5 → flags < 256 →
    let bs := streamPayload i flags
    bs.length = 48 ∧ (∀ j, j < 5 → leAt bs (8 * j) 8 = (i.words.getD j 0).toNat) ∧ leAt bs 40 1 = i.words.length ∧
    leAt bs 41 1 = flags ∧ leAt bs 42 2 = 0 ∧ leAt bs 44 4 = i.seq.toNat) ∧
  (∀ (s : State) (i : InStream) (flags : Nat) (r : Record), findCtx s s.cx.num = some s.cx →
    streamMessage s s.cx.num i flags r = deliver { s with cx := { s.cx with msgCounter := s.cx.msgCounter + 1 } }
      (mkMessage (mkHdr0 s.core s.pkg i.chan i.score i.spkg) (mkHdr1 s.cx.msgCounter 48 5 i.sctx false s.cx.num)
        (streamPayload i (flags + if i.seq = 0 then 1 else 0)) (some r))) ∧
  (∀ (s : State) (k : BitVec 2) (t : Task) (p : Port), slotHolds s k t → t.port = some p →
    (p.routed = true ∨ t.se.wait ≠ .route → exec (.streamRouteReserve k) s = .next { s with hold := .absent })) ∧
  (∀ (s : State) (k : BitVec 2) (t : Task) (p : Port), slotHolds s k t → t.port = some p → p.routed = false →
    t.se.wait = .route →
    let s1 := { s with fresh := s.fresh + 1 }
    let takes := fun ls => exec (.streamRouteReserve k) s = .next (if channelFree s p then
      putTask s1 k.toNat { t with port := some { p with routed := true, links := ls } } else s1)
    (p.dpkg = s.pkg → takes []) ∧
    (p.dpkg ≠ s.pkg → (∀ i ∈ minimalLinks s p.dpkg, hasRoute s i = false) → exec (.streamRouteReserve k) s = .next s1) ∧
    (∀ i r, p.dpkg ≠ s.pkg → minimalLinks s p.dpkg = i :: r → hasRoute s i = true → takes [i])) ∧
  (∀ (s : State) (p q : Port), p.dpkg = s.pkg → p.dcore = s.core → q ∈ openPorts s → q.routed = true → q.dpkg = p.dpkg →
    q.dcore = p.dcore → q.dctx = p.dctx → q.chan = p.chan → channelFree s p = false) ∧
  (∀ (s : State) (ev : Event) (c : BitVec 9 × BitVec 10), packetSource s ev.row = some c →
    (ev.access.packet = none → inSequence s ev = false) ∧
    (∀ p, ev.access.packet = some p →
      ((p.pkg, p.core) ≠ c ∨ p.seq ≠ expectedPacket s p → inSequence s ev = false) ∧
      ((p.pkg, p.core) = c → p.seq = expectedPacket s p → inSequence s ev = true ∧
        expectedPacket (accepted s ev) p = p.seq + 1 ∧ ∀ q : PacketNo, (q.pkg, q.core) ≠ c →
          expectedPacket (accepted s ev) q = expectedPacket s q))) ∧
  (∀ (s : State) (ev : Event), packetSource s ev.row = none → inSequence s ev = true ∧ accepted s ev = s) ∧
  (∀ (s : State) (m : Message) (p : ChanPacket) (f : StreamFlit),
    packetSource s (.spawnArrival m) = some (msgSrcPkg m, msgSrcCore m) ∧
    packetSource s (.channelBitArrival p) = some (p.spkg, p.score) ∧
    packetSource s (.streamWordArrival f) = some (f.spkg, f.score) ∧
    (msgKind m = kindData → packetSource s (.messageArrival m) = some (msgSrcPkg m, msgSrcCore m)))

/-- R139, R207, R308, R314, R356: at the end of a task its flags join NUMSUM and its port closes, each staged send leaves in
order as a release, or is discarded with an ENDPOINT report where its endpoint has gone, and then its slot is free; a counter
that has run out takes its trap. That a command trap reports address 0 (log entry 76), and that a staged contribution leaves
without a second check of its head (log entry 69), are the model's choices. -/
def Sys2Proof.Claims.TasksEnd : Prop :=
  ∀ (s : State) (k : BitVec 2) (t : Task), slotHolds s k t →
    (t.ending = .draining → (numtrapNow s = 0 ∨ hasCommands s t.tid = false) → t.cmdTrap = none → t.port = none →
      exec (.taskEnd k) s = .next (putTask { s with cur := (k, .A), cx := orNumsum s.cx t.numflags.toNat } k.toNat
        { t with ending := .departing })) ∧
    (∀ p, t.ending = .draining → (numtrapNow s = 0 ∨ hasCommands s t.tid = false) → t.cmdTrap = none → t.port = some p →
      let s1 := { s with cur := (k, .A), cx := orNumsum s.cx t.numflags.toNat }
      (s.sb = [] → exec (.taskEnd k) s = .next (putTask (sendStream (published s1) p t.ctx t.sup (.close (recordOf s1 t)))
        k.toNat { t with port := none, ending := .departing })) ∧
      (s.sb ≠ [] → exec (.taskEnd k) s = .next { s with hold := .other })) ∧
    (∀ c, t.ending = .draining → (numtrapNow s = 0 ∨ hasCommands s t.tid = false) → t.cmdTrap = some c →
      exec (.taskEnd k) s = .next (takeTrapAt s k.toNat c.stream true c.info c.pc)) ∧
    (t.ending = .departing → t.staged = [] → exec (.taskEnd k) s = .next (endTask s k.toNat t) ∧
      (t.spawned = true → s.cx.runq = [] → s.sweep = .idle → t.names = none →
        exec (.taskEnd k) s = .next { setSlot s k.toNat .free with
          cx := { s.cx with results := s.cx.results.filter (fun r => decide (r.tid ≠ t.tid)), taskEnded := true } })) ∧
    (∀ x r, t.ending = .departing → t.staged = x :: r → s.sb = [] →
      let s1 := published { s with cur := (k, .A) }
      (∀ m c, x = .message m ∨ (∃ id, x = .spawn m id) → destCtx s s.cx (msgPkg m) (msgCore m) (msgChan m).toNat = some c →
        exec (.messageDeparture k) s = .next (putTask (sendMessage s1 { m with record := some (recordOf s t) }) k.toNat
          { t with staged := r })) ∧
      (∀ c, x = .contrib c → s.sendQueue.length < 2 → exec (.messageDeparture k) s =
        .next (putTask { s1 with sendQueue := s.sendQueue ++ [c] } k.toNat { t with staged := r }))) ∧
    (∀ x r m, t.ending = .departing → t.staged = x :: r →
      destCtx s s.cx (msgPkg m) (msgCore m) (msgChan m).toNat = none →
      let s1 := { s with cur := (k, .A) }
      let report := reportPayload 0x16 4 0 0 (msgId m).toNat 0 0 0 (headerBytes m)
      (x = .message m → exec (.messageDeparture k) s =
        .next (putTask (reportIn s1 s.cx.num report) k.toNat { t with staged := r })) ∧
      (∀ id, x = .spawn m id → exec (.messageDeparture k) s =
        .next (putTask (reportIn (releaseSpawn s1 id (msgPkg m) (msgCore m)) s.cx.num report) k.toNat
          { t with staged := r }))) ∧
    (t.deadlock = 65536#17 → t.sa.ended = false → exec (.queueDeadlock k) s = .next (takeTrapAt s k.toNat .A false
      ⟨.queueDeadlock, t.waitCodes.setWidth 32, 0⟩ t.sa.pc)) ∧
    (t.deadlock = 65536#17 → t.sa.ended = true → exec (.queueDeadlock k) s = .next (takeTrapAt s k.toNat .E false
      ⟨.queueDeadlock, t.waitCodes.setWidth 32, 0⟩ t.se.pc)) ∧
    (t.wdbudget = 0 → exec (.watchdog k) s = .next (if t.sa.ended then takeTrapAt s k.toNat .E false ⟨.watchdog, 0, 0⟩ t.se.pc
      else takeTrapAt s k.toNat .A false ⟨.watchdog, 0, 0⟩ t.sa.pc))

/-- R139, R169, R207, R269, R308, R314, R356: the end of a task, which closes its stream port, its staged sends with the report of
one that has nowhere to go, and the traps of its commands. That a command trap has report address 0, and that a staged
contribution leaves without a second check, are the model's choices (log entries 76, 69). -/
def Obligations.TasksEndAndTrap : Prop := TasksEnd ∧ CommandTrapsTaken

/-! ### Revocation, slices, tables (R54 to R75, R326, R327) -/

/-- R54, R57, R58, R326, R327: RVMARK reads and writes one map byte after another and then goes on; an epoch drains,
examines every tagged granule of its areas, waits for the tasks that began before it, and ends. Whether the other cores are
idle, and the epoch number that another core's context reports, are free values (log entry 183). -/
def Obligations.RevocationSweeps : Prop :=
  (∀ (s : State) (t u : Task) (c b : BitVec 5) (m : BitVec 1) (y : Word), Issues s t →
    operandOf t s.cur.2 b (m.getLsbD 0) = some (y, u) →
    let x := capVal t c.toNat
    let va := capAddr x
    let i := match (streamOf t s.cur.2).wait with | .marking k => k | _ => 0
    let a := mapVa s va i
    let admin := t.sup = true ∧ (capVal t 6).tag = true ∧ capSealed (capVal t 6) = false ∧ hasPerm (capVal t 6) permADMIN = true
    (2 ^ 24 < y.toNat → TrapsWith (.rvmark c b m) s .illegalOp 9 0) ∧
    (t.sup = false → TrapsWith (.rvmarkClr c b m) s .priv 0 0) ∧
    (y.toNat ≤ 2 ^ 24 → accessCheck s t.ctx ⟨x, va, y.toNat, [permST], 0, true, false⟩ none = none →
      (markCount (vaOff va) y.toNat ≤ i ∨ vaSpace va = 2 →
        exec (.rvmark c b m) s = .next (goesOn s (setWait u s.cur.2 .ready)) ∧
        (admin → exec (.rvmarkClr c b m) s = .next (goesOn s (setWait u s.cur.2 .ready)))) ∧
      (i < markCount (vaOff va) y.toNat → vaSpace va ≠ 2 → ∀ l, StoreGoes s t a 1 l false → LoadGoes s t a 1 l →
        let old := leNat (loaded s t a l 1)
        let k := granuleMask (vaOff va) y.toNat i
        let marks := fun v => putTask (buffered (afterLoad s t a l 1) (entryOf t a (some l) (.data (leBytes 1 v) false))) (curK s)
          (setWait t s.cur.2 (.marking (i + 1)))
        exec (.rvmark c b m) s = .next (marks (old ||| k)) ∧
        (admin → exec (.rvmarkClr c b m) s = .next (marks (old &&& (255 - k))))))) ∧
  (∀ (s : State) (t : Task) (c : BitVec 5), Issues s t →
    let x := capVal t c.toNat
    (t.sup = false → TrapsWith (.rvsweep c) s .priv 0 0) ∧
    (t.sup = true → x.tag = false → TrapsWith (.rvsweep c) s .capTag 0 0) ∧
    (t.sup = true → x.tag = true → capSealed x = true → TrapsWith (.rvsweep c) s .capSealed 0 0) ∧
    (t.sup = true → x.tag = true → capSealed x = false → hasPerm x permADMIN = false →
      TrapsWith (.rvsweep c) s .capPerm 0 0) ∧
    (t.sup = true → x.tag = true → capSealed x = false → hasPerm x permADMIN = true →
      ∀ cx, findCtx s t.ctx = some cx →
        ((∀ k ∈ cx.cores, s.pkg.toNat ≤ k.1.toNat) → ∃ idle : Bool, ((∀ k ∈ cx.cores, k = (s.pkg, s.core)) → idle = true) ∧
          exec (.rvsweep c) s = .next (goesOn (queueEvent { s with fresh := s.fresh + 1 }
            (.sweepRequest t.ctx s.pkg s.core idle)) t)) ∧
        (¬ (∀ k ∈ cx.cores, s.pkg.toNat ≤ k.1.toNat) →
          exec (.rvsweep c) s = .next (goesOn (emit s (.sweepStart t.ctx)) t)))) ∧
  (∀ (s : State) (n : BitVec 12) (p : BitVec 9) (c : BitVec 10) (idle : Bool), n ≠ 0 →
    (∀ cx, findCtx s n = some cx →
      let leads := ∀ k ∈ cx.cores, s.pkg.toNat ≤ k.1.toNat
      let opens := fun by_ => { s with sweep := .draining, sweepBy := by_, sweepCtx := n }
      (leads → s.sweep = .idle → idle = true →
        ((∀ k ∈ cx.cores, k = (s.pkg, s.core)) → exec (.sweepRequest n p c idle) s = .next (opens (some (p, c)))) ∧
        (¬ (∀ k ∈ cx.cores, k = (s.pkg, s.core)) → exec (.sweepRequest n p c idle) s =
          .next (emit (opens (some (p, c))) (.sweepOpen n)))) ∧
      (leads → (s.sweep ≠ .idle ∨ idle = false) → exec (.sweepRequest n p c idle) s =
        .next (sweepMessage s n (p, c) s.regs.rvepoch 1)) ∧
      (¬ leads → s.sweep = .idle → idle = true → exec (.sweepRequest n p c idle) s = .next (opens none))) ∧
    (findCtx s n = none →
      (idle = true → (∀ x ∈ s.pk.sweeps, x.1 ≠ n) → exec (.sweepRequest n p c idle) s =
        .next (emit { s with pk := { s.pk with sweeps := s.pk.sweeps ++ [(n, (p, c))] } } (.sweepOpen n))) ∧
      ((idle = false ∨ ∃ x ∈ s.pk.sweeps, x.1 = n) → exec (.sweepRequest n p c idle) s =
        .next (sweepMessage { s with fresh := s.fresh + 1 } n (p, c) (Config.otherEpoch s.fresh n) 1)))) ∧
  (∀ s : State, s.sweep = .draining →
    (s.sb = [] → exec .sweepDrainDone s = .next { markPreEpoch s with sweep := .scan, filter := [] }) ∧
    (s.sb ≠ [] → exec .sweepDrainDone s = .next { s with hold := .other })) ∧
  (∀ (s : State) (o : Nat), s.sweep = .scan → scratchEnd s.cx ≤ o →
    exec (.sweeperExamine (.sram o)) s = .next { s with hold := .absent }) ∧
  (∀ (s : State) (b : Nat), s.sweep = .scan → b / 65536 ∉ presentFrames s s.sweepCtx →
    exec (.sweeperExamine (.hbm b)) s = .next { s with hold := .absent }) ∧
  (∀ (s : State) (b : Nat), s.sweep = .scan → s.cx.num = s.sweepCtx → memWf s.home.mem = true →
    b / 65536 ∈ presentFrames s s.sweepCtx →
    let a := b / 16 * 16
    ∃ s', exec (.sweeperExamine (.hbm b)) s = .next s' ∧
      memTag s'.home.mem a = (filterCap s s.sweepCtx (memCap s.home.mem a)).tag ∧
      (∀ i, memByte s'.home.mem i = memByte s.home.mem i) ∧
      (∀ i, i / 16 ≠ b / 16 → memTag s'.home.mem i = memTag s.home.mem i) ∧ s'.cx.sram = s.cx.sram) ∧
  (∀ (s : State) (o : Nat), s.sweep = .scan → s.cx.num = s.sweepCtx → memWf s.cx.sram = true → o < scratchEnd s.cx →
    let a := o / 16 * 16
    let x := memCap s.cx.sram a
    ∃ s', exec (.sweeperExamine (.sram o)) s = .next s' ∧
      memTag s'.cx.sram a = (filterCap s s.sweepCtx x).tag ∧
      (∀ i, memByte s'.cx.sram i = memByte s.cx.sram i) ∧
      (∀ i, i / 16 ≠ o / 16 → memTag s'.cx.sram i = memTag s.cx.sram i) ∧ s'.home.mem = s.home.mem) ∧
  (∀ s : State, s.sweep = .scan → s.cx.num = s.sweepCtx → memWf s.cx.sram = true →
    exec .sweepScanDone s = .next (retireEpoch { sweepRest s with sweep := .wait }) ∧
    (noPreEpoch s = true → (retireEpoch { sweepRest s with sweep := .wait }).sweep = .reported) ∧
    (∀ o, o < scratchEnd s.cx → memTag (sweepRest s).cx.sram o =
      (memTag s.cx.sram o && (filterCap s s.sweepCtx (memCap s.cx.sram (o / 16 * 16))).tag))) ∧
  (∀ (s : State) (ctx : BitVec 12), s.access.request = .sweep ctx →
    ((∀ x ∈ s.pk.sweeps, x.1 ≠ ctx) → exec .sweepEpochEnd s = .next { s with hold := .absent }) ∧
    (∀ by_, s.pk.sweeps = [(ctx, by_)] → exec .sweepEpochEnd s =
      .next (sweepMessage { s with fresh := s.fresh + 1, pk := { s.pk with sweeps := [] } } ctx by_
        (Config.otherEpoch s.fresh ctx) 0))) ∧
  (∀ s : State, s.sweep = .reported → (∀ ctx, s.access.request ≠ .sweep ctx) → ∃ s', exec .sweepEpochEnd s = .next s' ∧ s'.sweep = .idle ∧ s'.lines = [] ∧
    s'.regs = { s.regs with rvepoch := s.regs.rvepoch + 1, runqlost := s'.regs.runqlost } ∧ s'.home = s.home ∧ s'.cx.sram = s.cx.sram)

/-- R45, R65, R66, R68, R83, R356 to R359, R412: the read-only port repeats the checks of a read and answers it; a slice
fills, answers and seals lines under the key of the context; a page's waiters go on when it is there. -/
def Obligations.OwnersAnswer : Prop :=
  (∀ (s : State) (q : PortReq), isOwn s q.va = true →
    (moveHolds s q.ctx q.va = true ∨ filling s q.ctx q.va q.len = true →
      exec (.portRequest q) s = .next { s with hold := .other }) ∧
    (moveHolds s q.ctx q.va = false → filling s q.ctx q.va q.len = false →
      let answers := fun bs ts f => exec (.portRequest q) s =
        .next (emit s (.readAnswer { id := q.id, data := bs, tags := ts, fault := f, pub := pubOf s q.ctx } q.owner))
      let refused := fun c d => answers [] [] (some (c, d))
      let load := decide (q.kind = .load)
      let inside := if load then overlaps q.va.toNat q.len (capBase q.cap) (capTop q.cap - capBase q.cap)
        else inBounds q.cap q.va.toNat q.len
      (fencedOff s q.owner.pkg = true → refused 0x0B 1) ∧
      (fencedOff s q.owner.pkg = false →
        (q.kind ≠ .host →
          (q.cap.tag = false → refused 0x04 0) ∧
          (q.cap.tag = true → capSealed q.cap = true → refused 0x05 0) ∧
          (q.cap.tag = true → capSealed q.cap = false → hasPerm q.cap (if load then permLD else permPULL) = false →
            refused 0x06 0) ∧
          (q.cap.tag = true → capSealed q.cap = false → hasPerm q.cap (if load then permLD else permPULL) = true →
            inside = false → refused 0x07 0)) ∧
        (portRefusal q = none → vaSpace q.va = 1 →
          (findCtx s q.ctx = none → refused 0x0B 1) ∧
          (∀ cx, findCtx s q.ctx = some cx →
            (scratchEnd cx < vaOff q.va + q.len → refused 0x0B 7) ∧
            (vaOff q.va + q.len ≤ scratchEnd cx → cx.residency = .absent → refused 0x0A 0) ∧
            (vaOff q.va + q.len ≤ scratchEnd cx → cx.residency ≠ .absent → anyError s cx = false →
              ∃ ts, answers (memBytes cx.sram (vaOff q.va) q.len) ts none)))))) ∧
  (∀ (s : State) (q : SliceReq), isOwn s q.va = true → vaSpace q.va ≠ 1 → fencedOff s q.owner.pkg = false →
    moveHolds s q.ctx q.va = false →
    (q.kind = .storeData → filling s q.ctx q.va 1 = true → exec (.sliceRequest q) s = .next { s with hold := .other }) ∧
    ((q.kind = .storeData → filling s q.ctx q.va 1 = false) →
    let mine := decide (q.owner = ownId s)
    let found := walk s q.ctx (decide (vaSpace q.va = 3)) mine (vaOff q.va)
    let w : FaultWait := ⟨q.ctx, q.va >>> 16, q.owner, q.slot, q.id⟩
    let n := sliceNo q.ctx q.va
    let z := sliceAt s n
    let kept := keepLeaf (noteWalk s q.ctx (decide (vaSpace q.va = 3)) (vaOff q.va)) q.ctx q.va
    let same := fun (f : SliceReq × List SliceReq) => decide (f.1.ctx = q.ctx ∧ lineOf f.1.va = lineOf q.va)
    (activeKey s q.ctx = none → exec (.sliceRequest q) s = .next (queueEvent s (.fatalContext q.ctx true))) ∧
    (∀ k, activeKey s q.ctx = some k →
      (found = .notPresent → z.waiting.length < 256 → exec (.sliceRequest q) s =
        .next (emit (putSlice s n { z with waiting := z.waiting ++ [w] }) (.sliceAnswer q.id q.va 0x0A none 0))) ∧
      (found = .notPresent → 256 ≤ z.waiting.length →
        exec (.sliceRequest q) s = .next (emit s (.sliceAnswer q.id q.va 0x0A none 0))) ∧
      (found = .refused → exec (.sliceRequest q) s = .next (emit s (.sliceAnswer q.id q.va 0x0B none 0))) ∧
      (found = .broken → exec (.sliceRequest q) s = .next (queueEvent (countUncorr s) (.fatalContext q.ctx false))) ∧
      (∀ b l, found = .ok b l →
        (q.kind = .permit → exec (.sliceRequest q) s =
          .next (emit kept (.sliceAnswer q.id q.va (if l.w then 0 else 0x0B) none 0))) ∧
        (q.kind = .storeData → exec (.sliceRequest q) s =
          .next (emit (markLines kept q.ctx q.va 1) (.sliceAnswer q.id q.va 0 none 0))) ∧
        (q.kind = .fetch → l.x = false → exec (.sliceRequest q) s = .next (emit s (.sliceAnswer q.id q.va 0x0C none 0))) ∧
        (q.kind = .read ∨ q.kind = .fetch ∧ l.x = true →
          ((∀ f ∈ (sliceAt kept n).fills, same f = false) →
            (∀ x, heldLine kept q.ctx (lineOf q.va) = some x →
              (x.bad = true → exec (.sliceRequest q) s = .next (emit (countUncorr kept) (.sliceAnswer q.id q.va 0x1C none 0))) ∧
              (x.bad = false → exec (.sliceRequest q) s = .next (emit kept (.sliceAnswer q.id q.va 0
                (some (sealLine k q.ctx q.va (BitVec.ofNat 512 (leNat (pageBytes kept.home.mem l.tol (b / 64 * 64) 64)))))
                (tagBits ((List.range 4).map (fun i => !l.tol && memTag kept.home.mem (b / 64 * 64 + 16 * i)))))))) ∧
            (heldLine kept q.ctx (lineOf q.va) = none →
              exec (.sliceRequest q) s = .next (putSlice kept n { sliceAt kept n with
                fills := (sliceAt kept n).fills ++ [(q, [q])] }))) ∧
          ((∃ f ∈ (sliceAt kept n).fills, same f = true) →
            exec (.sliceRequest q) s = .next (putSlice kept n { sliceAt kept n with
              fills := (sliceAt kept n).fills.map (fun f => if same f then (f.1, f.2 ++ [q]) else f) }))))))) ∧
  (∀ (s : State) (q : SliceReq) (n : Nat) (z : Slice) (k : KeySlot) (b : Nat) (l : Leaf), n = sliceNo q.ctx q.va →
    s.home.slices = [(n, z)] → z.fills = [(q, [q])] → z.lines = [] → moveHolds s q.ctx q.va = false →
    activeKey s q.ctx = some k → s.home.errors = [] →
    (walk s q.ctx (decide (vaSpace q.va = 3)) (decide (q.owner = ownId s)) (vaOff q.va) = .ok b l →
      (q.kind = .fetch → l.x = true) →
      ∃ s', exec (.sliceFillDone q.id) s = .next s' ∧ s'.home.mem = s.home.mem ∧
        sliceAt s' n = { z with fills := [], lines := [⟨q.ctx, lineOf q.va, false, false, activeSlot s q.ctx⟩] } ∧
        s'.outbox = s.outbox ++ [Packet.sliceAnswer q.id q.va 0
          (some (sealLine k q.ctx q.va (BitVec.ofNat 512 (leNat (pageBytes s.home.mem l.tol (b / 64 * 64) 64)))))
          (tagBits ((List.range 4).map (fun i => !l.tol && memTag s.home.mem (b / 64 * 64 + 16 * i))))]) ∧
    (walk s q.ctx (decide (vaSpace q.va = 3)) (decide (q.owner = ownId s)) (vaOff q.va) = .refused →
      exec (.sliceFillDone q.id) s =
        .next (emit (putSlice s n { z with fills := [] }) (.sliceAnswer q.id q.va 0x0B none 0)))) ∧
  (∀ (s : State) (t : Task) (tid : Nat) (va : Word) (listed : Bool), findSuspended s tid = some (t, .page va listed) →
    exec (.pageWake s.cx.num tid) s = .next (wakeTask s tid) ∧
    ((listed = false ∨ isOwn s va = false) → exec (.faultRetryTimer tid) s = .next (wakeTask s tid))) ∧
  (∀ (s : State) (t : Task) (va : Word) (listed : Bool), s.cx.susp = [(t, .page va listed)] → s.cx.runq = [] →
    (∀ k, k < 4 → slotAt s k ≠ .free) → (∀ k, k < 4 → ∀ u o, slotAt s k ≠ .held u o) → ∃ s', wakeTask s t.tid = s' ∧
      s'.cx.runq = [.resume t.tid 0] ∧ s'.cx.susp = [(t, .woken)] ∧ s'.slots = s.slots) ∧
  (∀ (s : State) (l : CacheLine) (va : Word), s.lines = [l] → l.line = lineOf va →
    exec (.lineAgeDiscard l.ctx va) s = .next { s with lines := [] }) ∧
  (∀ (s : State) (ctx : BitVec 12) (key : Bool), ctx ≠ 0 →
    (ctx ∈ s.pk.fatals → exec (.fatalContext ctx key) s = .next s) ∧
    (ctx ∉ s.pk.fatals → s.cx.num = ctx → s.sweep = .idle → ∃ s', exec (.fatalContext ctx key) s = .next s' ∧
      s'.pk.fatals = s.pk.fatals ++ [ctx] ∧ (∀ k, k < 4 → slotAt s' k = .free) ∧ s'.cx.susp = [] ∧ s'.cx.runq = [] ∧
      (∀ e ∈ s'.sb, e.ctx ≠ ctx) ∧ (∀ p ∈ s'.pending, p.ctx = ctx → p.fate = .dead) ∧ (∀ x ∈ s'.pk.streams, x.ctx = ctx → x.error = true) ∧ s'.cx.sram = s.cx.sram ∧
      s'.home = s.home ∧
      (∃ ps, s'.outbox = s.outbox ++ ps ++ [.hostReport ctx (if key then 0x00 else 0x1C) (if key then 1 else 0)] ∧
        (∀ p ∈ ps, ∃ id pkg core, p = .spawnRelease id pkg core) ∧ (tasksOf s ctx = [] → ps = []))))

/-- R69 to R74: a write to PTWD is lost while an operation is under way, refused with the code of its row of R70 Table 4,
installed at once, or, where it narrows, installed with an invalidation; that an entry which would show another context's
frame is BAD_FRAME, and that frames of another context are cleared first, is the model's reading of R388 (log entries 103,
177); that an entry above with a bad frame is NOPARENT is its choice (log entry 166); a core acts on an invalidation and acknowledges it, and the operation
ends with the last acknowledgement, or by the silence of a package; a move copies the page's frames first. -/
def Obligations.TablesChange : Prop :=
  (∀ s : State, s.access.addr = .control 0x8A2 →
    let v := s.access.value
    let lv := ptwaLevel s
    let lost := { s with regs := { s.regs with ptwlost := true } }
    (s.tableOp.isSome = true → ptwaOp s ≠ 1 → exec .ptwWrite s = .next lost) ∧
    (s.tableOp.isSome = true → ptwaOp s = 1 → exec .ptwMove s = .next lost) ∧
    (s.tableOp = none → (ptwEntries s).any (fun b => badSector s b 8) = true → ptwaOp s ≠ 1 →
      ∃ u, exec .ptwWrite s = .next (queueEvent (countUncorr u) (.fatalContext (ptwaCtx s) false)) ∧
        u.home.mem = s.home.mem ∧ u.slots = s.slots) ∧
    (s.tableOp = none → s.home.errors = [] →
      let refused := fun n => (ptwaOp s ≠ 1 → exec .ptwWrite s = .next (setPtwStatus s n)) ∧
        (ptwaOp s = 1 → exec .ptwMove s = .next (setPtwStatus s n))
      let reserved := (lv = 0 ∧ (v.getLsbD 15 = true ∨ field v 31 33 ≠ 0)) ∨
        ((lv = 1 ∨ lv = 2) ∧ (field v 1 5 ≠ 0 ∨ field v 20 44 ≠ 0)) ∨
        (lv = 3 ∧ (field v 20 44 ≠ 0 ∨ (ptwaSp3 s = true ∧ (v.getLsbD 5 = true ∨ v.getLsbD 3 = true)) ∨
          (v.getLsbD 2 = true ∧ ptwaPage s % 32 ≠ 0)))
      let noTable := fun (f : Nat) => f < tblFirst s ∨ tblFirst s + tblCount s ≤ f ∨ f = tblFirst s ∨
        (saveFirst s ≤ f ∧ f < saveFirst s + saveCount s)
      let noData := fun (f : Nat) => (tblFirst s ≤ f ∧ f < tblFirst s + tblCount s) ∨
        (ovfFirst s ≤ f ∧ f < ovfFirst s + ovfFrames s) ∨ 11444 ≤ f
      let bad := (lv = 0 ∧ ((v.getLsbD 14 = true ∧ noTable (field v 0 14)) ∨ (v.getLsbD 30 = true ∧ noTable (field v 16 14)))) ∨
        ((lv = 1 ∨ lv = 2) ∧ v.getLsbD 0 = true ∧ noTable (field v 6 14)) ∨
        (lv = 3 ∧ v.getLsbD 0 = true ∧ (noData (field v 6 14) ∨ (v.getLsbD 2 = true ∧
          (field v 6 14 % 32 ≠ 0 ∨ ∃ i, i < 32 ∧ noData (field v 6 14 + i)))))
      (2 ≤ ptwaOp s → exec .ptwWrite s = .next (setPtwStatus s 6)) ∧
      (ptwaOp s < 2 → reserved → refused 1) ∧
      (ptwaOp s < 2 → ¬ reserved →
        (tblCount s = 0 → refused 3) ∧
        (lv ≠ 0 → (dirRoot (dirEntry s (ptwaCtx s)) (ptwaSp3 s)).1 = false → refused 3) ∧
        (entryPlace s (ptwaCtx s) (ptwaSp3 s) lv (ptwaPage s) = none → refused 3) ∧
        (0 < tblCount s → lv = 0 → entryPlace s (ptwaCtx s) (ptwaSp3 s) lv (ptwaPage s) = some (tblFirst s, (ptwaCtx s).toNat))) ∧
      (∀ p, ptwaOp s < 2 → ¬ reserved → entryPlace s (ptwaCtx s) (ptwaSp3 s) lv (ptwaPage s) = some p →
        let old := tableEntry s p.1 p.2
        let sameBut := lv = 3 ∧ old.getLsbD 0 = true ∧ putField old 6 14 0 = putField v 6 14 0
        let covered := lv = 3 ∧ v.getLsbD 0 = true ∧ p.2 % 32 ≠ 0 ∧ (tableEntry s p.1 (p.2 / 32 * 32)).getLsbD 0 = true ∧
          (tableEntry s p.1 (p.2 / 32 * 32)).getLsbD 2 = true
        (bad ∨ showsOther s (ptwaCtx s) lv v = true → refused 2) ∧
        (¬ bad → showsOther s (ptwaCtx s) lv v = false →
          (ptwaOp s = 1 → ¬ sameBut → exec .ptwMove s = .next (setPtwStatus s 2)) ∧
          (ptwaOp s = 0 → covered → exec .ptwWrite s = .next (setPtwStatus s 4)) ∧
          ((ptwaOp s = 1 → sameBut) → (ptwaOp s = 0 → ¬ covered) → ptwCheck s v = .ok p)))) ∧
    (∀ p, s.tableOp = none → s.home.errors = [] → ptwCheck s v = .ok p →
      let old := tableEntry s p.1 p.2
      let mine := takeFrames (setPtwStatus s 0) (ptwaCtx s) lv v
      (ptwaOp s ≠ 1 → narrowing lv old v = false → s.sweep = .idle →
        (∀ p ∈ s.home.slices, p.2.waiting = [] ∧ p.2 ≠ Slice.none) → exec .ptwWrite s = .next (putEntry mine p.1 p.2 v)) ∧
      (ptwaOp s ≠ 1 → narrowing lv old v = true → s.sweep = .idle →
        (∀ p ∈ s.home.slices, p.2.waiting = []) → ∃ s', exec .ptwWrite s = .next s' ∧
        s'.tableOp = some ⟨ptwInvalidation s old v false, p, old, v, false, false, false⟩ ∧
        s'.outbox = s.outbox ++ [.invalidate (ptwInvalidation s old v false)] ∧
        s'.inputs = s.inputs ++ [⟨.invalidation (ptwInvalidation s old v false), Access.none⟩] ∧
        s'.home.mem = (putEntry mine p.1 p.2 v).home.mem ∧ s'.slots = s.slots) ∧
      (ptwaOp s = 1 → exec .ptwMove s = .next { setHolders (setPtwStatus s 0) (ptwaCtx s) (leafFrames v) with
        tableOp := some ⟨ptwInvalidation s old v true, p, old, v, true, false, false⟩ }))) ∧
  (∀ (lv : Nat) (old new : Word), narrowing lv old new = true ↔
    (if lv = 0 then (old.getLsbD 14 || old.getLsbD 30) = true else old.getLsbD 0 = true) ∧
    (if lv = 3 then (∃ b ∈ [0, 1, 3, 4], old.getLsbD b = true ∧ new.getLsbD b = false) ∨ old.getLsbD 5 ≠ new.getLsbD 5 ∨
        old.getLsbD 2 ≠ new.getLsbD 2 ∨ field old 6 14 ≠ field new 6 14
      else old ≠ new)) ∧
  (∀ (s : State) (ctx : BitVec 12) (lv : Nat) (e : Word) (f : Nat), f ∈ namedFrames s lv e → memWf s.home.mem = true →
    (heldByOther s ctx f = true → ∀ i, i < 65536 → memByte (takeFrames s ctx lv e).home.mem (f * 65536 + i) = 0 ∧
      memTag (takeFrames s ctx lv e).home.mem (f * 65536 + i) = false) ∧
    (heldByOther s ctx f = false → ∀ i, i < 65536 →
      memByte (takeFrames s ctx lv e).home.mem (f * 65536 + i) = memByte s.home.mem (f * 65536 + i))) ∧
  (∀ (s : State) (f i : Nat) (e : Word), memWf s.home.mem = true → tableEntry (putEntry s f i e) f i = e) ∧
  (∀ (s : State) (inv : Invalidation),
    ((∀ op, s.tableOp = some op → op.inv ≠ inv) →
      exec (.invalidation inv) s = .next (emit (actOnInvalidation s inv) (.invAck inv))) ∧
    (∀ p ∈ (actOnInvalidation s inv).permits, p.ctx = inv.ctx →
      inRange inv (mkVa 0 s.pkg s.core (p.page.toNat * 65536)) = false) ∧
    (inv.move = false → ∀ l ∈ (actOnInvalidation s inv).lines, l.ctx = inv.ctx → inRange inv (lineVa l.line) = false) ∧
    (inv.move = false → ∀ p ∈ (actOnInvalidation s inv).pending, p.ctx = inv.ctx → inRange inv p.va = true →
      isFreshRead p = true → p.fate ≠ .live) ∧
    (inv.dropFetch = true → ∀ l ∈ (actOnInvalidation s inv).fetchLines, l.ctx = inv.ctx →
      inRange inv (lineVa l.line) = false)) ∧
  (∀ (s : State) (op : TableOp), s.tableOp = some op →
    (op.acted = false → exec (.invalidation op.inv) s = .next (queueEvent
      { actOnInvalidation s op.inv with tableOp := some { op with acted := true } } (.invalidation op.inv))) ∧
    (op.acted = true → s.sb ≠ [] → exec (.invalidation op.inv) s = .next { s with hold := .other }) ∧
    (op.acted = true → s.sb = [] → exec (.invalidation op.inv) s =
      .next (emit { s with tableOp := some { op with acked := true } } (.invAck op.inv)))) ∧
  (∀ (s : State) (op : TableOp), s.tableOp = some op → op.copying = false →
    (op.acked = true → exec .invalidationComplete s =
      .next { s with tableOp := none, regs := { s.regs with ptwstatus := 0 } }) ∧
    (∀ ps, ps ≠ [] → (∀ p ∈ ps, fenceable s p = true) → ∃ s', exec (.invalidationTimeout ps) s = .next s' ∧
      s'.tableOp = none ∧ s'.regs.ptwstatus = 5 ∧ ∀ p ∈ ps, p ∈ s'.pk.fenced ∧ p ∉ s'.members)) ∧
  (∀ (s : State) (op : TableOp), s.tableOp = some op → op.copying = true →
    (storesIn s (leafFrames op.oldEntry) = true → exec .pageMoveDone s = .next { s with hold := .other }) ∧
    (storesIn s (leafFrames op.oldEntry) = false → exec .pageMoveDone s = .next
      (installNarrow { copyFrames s (leafFrames op.oldEntry) (leafFrames op.newEntry) with tableOp := none } op.place
        op.oldEntry op.newEntry op.inv))) ∧
  (∀ (s : State) (a b i : Nat), a ≠ b → i < frameBytes → memWf s.home.mem = true →
    memByte (copyFrame s a b).home.mem (b * frameBytes + i) = memByte s.home.mem (a * frameBytes + i) ∧
    memTag (copyFrame s a b).home.mem (b * frameBytes + i) = memTag s.home.mem (a * frameBytes + i) ∧
    (∀ x, x < b * frameBytes ∨ (b + 1) * frameBytes ≤ x →
      memByte (copyFrame s a b).home.mem x = memByte s.home.mem x))

/-! ### Contexts and launches (R339 to R347, R360, R361, R403) -/

namespace Sys2Proof.Claims

/-- The row acts on a trusted access to an offset of a context's private page (R371 to R373). -/
def PageAccess (s : State) (ctx : BitVec 12) (off : Nat) (queue : BitVec 16) : Prop :=
  off < 0x1000 ∧ s.access.addr = .aperture (BitVec.ofNat 32 (0x100000 + 0x1000 * ctx.toNat + off)) true queue

/-- The row acts on an access to a shared offset of the aperture. -/
def SharedAccess (s : State) (off : Nat) : Prop :=
  off < 0x100000 ∧ ∃ trusted queue, s.access.addr = .aperture (BitVec.ofNat 32 off) trusted queue

/-- The row acts on a request of the system's private page, outside minimal mode (R381, R392). -/
def Asked (s : State) (r : Request) : Prop :=
  (∃ off queue, PageAccess s 0 off queue) ∧ inMinimal s = false ∧ s.access.request = r

/-- The package has noted the plan of a launch that it prepared. -/
def noted (s : State) (plan : LaunchPlan) : State :=
  { s with pk := { s.pk with prepared := s.pk.prepared ++ [plan] } }

/-- A launch that the lead refuses before it has asked a package (R343). -/
def refusedAtOnce (s : State) (ctx : BitVec 12) (reason : Nat) : State :=
  emit s (.launchReport (launchReport ctx 1 reason 0 []))

end Sys2Proof.Claims

/-- R341, R344 to R347, R360, R361, R372, R403: a slice that expires with another context's work waiting asks for a switch; the
save takes the resident context's image once nothing of it runs and restores the next one; EVICT gives an image to the host
and RESTORE brings it back; a release leaves nothing of a context. That EVICT of the resident context asks for a switch-out and
is met again, that RESTORE makes a context resident only where none is, which context comes next, what a release takes along,
and which image of the save area is whose are the model's choices (log entries 95, 96, 97, 98, 175). -/
def Obligations.ContextsSwitch : Prop :=
  (∀ s : State, s.cx.num ≠ 0 → s.switchReq = false → s.others.any (hasWork s) = true →
    (s.cx.taskEnded = true ∨ hasTasks s = false → exec .sliceExpiry s = .next (requestSwitch s)) ∧
    (s.cx.taskEnded = false → hasTasks s = true → exec .sliceExpiry s = .next { s with hold := .other })) ∧
  (∀ (s : State) (c : CtxState), nextOut s = some c →
    (s.cx.num = 0 → exec (.contextSave c.num) s = .next (restoreContext s c.num [])) ∧
    (s.cx.num ≠ 0 → s.switchReq = true →
      (savable s = false → exec (.contextSave c.num) s = .next { s with hold := .other }) ∧
      (savable s = true → exec (.contextSave c.num) s = .next (restoreContext (vacate (clearImage s (freeImage s))) c.num [contextImage s])))) ∧
  (∀ (s : State) (c : CtxState), s.others = [c] → s.ovf = [] → c.held = [] → c.susp = [] → s.home.errors = [] →
    ∃ s', restoreContext (vacate s) c.num [contextImage s] = s' ∧ s'.cx.num = c.num ∧ s'.cx.residency = .resident ∧
      s'.others = [contextImage s] ∧ s'.switchReq = false ∧ s'.cx.tiles = c.tiles ∧ s'.cx.accs = c.accs ∧
      (contextImage s).sram = s.cx.sram ∧ s'.home = s.home) ∧
  (∀ (s : State) (c : CtxState) (n : BitVec 12) (q : BitVec 16), PageAccess s n 0x018 q → field s.access.value 0 2 = 1 →
    (findCtx s n = none → exec .ctxctlEvict s = .next s) ∧
    (findCtx s n = some c → c.num = n →
      (s.cx.num ≠ n → c.residency = .absent → exec .ctxctlEvict s = .next s) ∧
      (s.cx.num ≠ n → c.residency = .out → exec .ctxctlEvict s = .next (emit (putCtx s (evicted c)) (.contextImage n))) ∧
      (s.cx.num = n → s.switchReq = false → exec .ctxctlEvict s = .next (retryEvent (requestSwitch s) .ctxctlEvict)) ∧
      (s.cx.num = n → s.switchReq = true → savable s = false → exec .ctxctlEvict s = .next { s with hold := .other }) ∧
      (s.cx.num = n → s.switchReq = true → savable s = true → exec .ctxctlEvict s =
        .next (emit (restoreNext (vacate s) [evicted (contextImage s)]) (.contextImage n))))) ∧
  (∀ (s : State) (c : CtxState) (n : BitVec 12) (q : BitVec 16), PageAccess s n 0x018 q → field s.access.value 0 2 = 2 →
    findCtx s n = some c → c.num = n →
    (c.residency ≠ .absent ∨ n ∈ s.pk.fatals → exec .ctxctlRestore s = .next s) ∧
    (c.residency = .absent → n ∉ s.pk.fatals → s.cx.num ≠ 0 → exec .ctxctlRestore s = .next (putCtx s { c with residency := .out, image := freeImage s })) ∧
    (c.residency = .absent → n ∉ s.pk.fatals → s.cx.num = 0 → exec .ctxctlRestore s =
      .next (restoreContext (putCtx s { c with residency := .out, image := freeImage s }) n []))) ∧
  (∀ (s : State) (c : CtxState) (n : BitVec 12), findCtx s n = some c →
    (s.tableOp.isSome = true → exec (.contextRelease n) s = .next { s with hold := .other }) ∧
    (s.tableOp = none → exec (.contextRelease n) s =
      .next (retireEpoch (clearDirectory (forgetContext (removeContext s n) n) n)))) ∧
  (∀ (s : State) (n : BitVec 12), n ≠ 0 → s.cx.num = n → s.others = [] → s.tableOp = none → s.home.errors = [] →
    memWf s.home.mem = true → ∃ s', exec (.contextRelease n) s = .next s' ∧ findCtx s' n = none ∧ s'.cx = CtxState.fresh 0 ∧
      s'.others = [] ∧ (∀ k, k < 4 → slotAt s' k = .free) ∧ (∀ e ∈ s'.sb, e.ctx ≠ n) ∧ (∀ c ∈ s'.copies, c.ctx ≠ n) ∧
      (∀ c ∈ s'.mxQueue, c.ctx ≠ n) ∧ (∀ r, s'.mxRun = some r → r.cmd.ctx ≠ n) ∧ (∀ c ∈ s'.sendQueue, c.ctx ≠ n) ∧
      (∀ x ∈ s'.sending, x.contrib.ctx ≠ n) ∧ (∀ e ∈ s'.ovf, e.ctx ≠ n) ∧ (∀ p ∈ s'.pending, p.ctx = n → p.fate = .dead) ∧
      (∀ l ∈ s'.lines, l.ctx ≠ n) ∧ (∀ p ∈ s'.permits, p.ctx ≠ n) ∧ (∀ l ∈ s'.fetchLines, l.ctx ≠ n) ∧ s'.filter = [] ∧
      (∀ w ∈ s'.watches, w.ctx ≠ n) ∧ (∀ w ∈ s'.placed, w.ctx ≠ n) ∧ s'.sweepCtx ≠ n ∧ n ∉ s'.pk.fatals ∧
      n ∉ s'.pk.contexts ∧ (∀ w ∈ s'.pk.wins, w.ctx ≠ n) ∧ (∀ w ∈ s'.pk.retired, w.ctx ≠ n) ∧
      (∀ x ∈ s'.pk.streams, x.ctx ≠ n) ∧ (∀ f, holderOf s' f ≠ n.toNat) ∧ (tblCount s ≠ 0 → dirEntry s' n = 0))

/-- R339 to R343: the lead places a launch in two passes over the instances of its levels in ascending order, answers one
that cannot be with its report, asks every package of one that can be, commits
once all are ready and reports once all have committed; a package answers PREPARE, enables channels and starts the context
at COMMIT, and discards what it placed at ABORT. That a launch of a context already here is reported REFUSED, that the reason
of a refusing package is what the lead reports, and that an ABORT waits for the engines are the model's choices (log entries
99, 105, 104). -/
def Obligations.LaunchesRun : Prop :=
  (∀ (s : State) (b : LaunchSubmit) (q : BitVec 16), PageAccess s b.ctx 0 q → b.ctx ≠ 0 →
    ((findLaunch s b.ctx).isSome = true ∨ (∃ p ∈ s.pk.prepared, p.ctx = b.ctx) ∨ isReady s = false →
      exec (.hostLaunch b) s = .next s) ∧
    (findLaunch s b.ctx = none → (∀ p ∈ s.pk.prepared, p.ctx ≠ b.ctx) → isReady s = true →
      (b.packages = [] → exec (.hostLaunch b) s = .next (refusedAtOnce s b.ctx 3)) ∧
      (∀ l, leadOf b.packages = some l →
        (l ≠ s.pkg → exec (.hostLaunch b) s = .next (emit s (.launchMsg 0 b.ctx l))) ∧
        (l = s.pkg →
          (∀ c, findCtx s b.ctx = some c → exec (.hostLaunch b) s = .next (refusedAtOnce s b.ctx 2)) ∧
          (findCtx s b.ctx = none → recordOk b.record = false →
            exec (.hostLaunch b) s = .next (refusedAtOnce s b.ctx 5)) ∧
          (findCtx s b.ctx = none → recordOk b.record = true → placeLevels s b = none →
            exec (.hostLaunch b) s = .next (refusedAtOnce s b.ctx 3)) ∧
          (∀ ls, findCtx s b.ctx = none → recordOk b.record = true → placeLevels s b = some ls →
            let n : Launch := ⟨planOf s b ls, .preparing, []⟩
            exec (.hostLaunch b) s = .next (tellAll (putLaunch s n) n msgPrepare (.prepare n.plan))))))) ∧
  (∀ (s : State) (b : LaunchSubmit) (taken : List Block) (v : Level) (xs : List Instance), placeLevel s b taken v = some xs →
    xs.length = v.count ∧ (∀ x ∈ xs, x ∈ instancesOf s b.packages v.domain) ∧
    (∀ x ∈ xs, ∀ k ∈ x, ∀ c ∈ blockCores k, (∀ z ∈ taken, inBlock c z = false) ∧ (coreUse s b c).isSome = true)) ∧
  (∀ (s : State) (b : LaunchSubmit) (taken : List Block) (v : Level),
    let all := instancesOf s b.packages v.domain
    let whole := fun (shared : Bool) (x : Instance) => x.all (fun k => (blockCores k).all (fun c =>
      !(taken.any (inBlock c)) && (match coreUse s b c with | some u => shared || !u | none => false)))
    let first := (all.filter (whole false)).take v.count
    let second := (all.filter (fun x => !first.contains x && whole true x)).take (v.count - first.length)
    (first.length + second.length < v.count → placeLevel s b taken v = none) ∧
    (v.count ≤ first.length → placeLevel s b taken v = some first) ∧
    (first.length < v.count → v.count ≤ first.length + second.length →
      placeLevel s b taken v = some (all.filter (fun x => (first ++ second).contains x)))) ∧
  (∀ (s : State) (b : LaunchSubmit) (v : Level), domainCores v.domain = none → instancesOf s b.packages v.domain =
    if s.members.all (fun p => b.packages.contains p) then [(inOrder s.members).map (fun p => ⟨p, 0, 1024⟩)] else []) ∧
  (∀ (s : State) (b : LaunchSubmit) (v : Level) (n : Nat), domainCores v.domain = some n →
    instancesOf s b.packages v.domain = (inOrder (b.packages.filter (fun p => s.members.contains p))).flatMap
      (fun p => (List.range (1024 / n)).map (fun k => [⟨p, k * n, n⟩]))) ∧
  (∀ (s : State) (plan : LaunchPlan) (n : BitVec 12), isReady s = false →
    exec (.prepare plan) s = .next { s with hold := .absent } ∧ exec (.commit n) s = .next { s with hold := .absent }) ∧
  (∀ (s : State) (plan : LaunchPlan), isReady s = true → plan.ctx ≠ 0 → findCtx s plan.ctx = none →
    (∀ p ∈ s.pk.prepared, p.ctx ≠ plan.ctx) →
    (recordOk plan.record = false → exec (.prepare plan) s = .next (answerPrepare s plan false 5)) ∧
    (recordOk plan.record = true →
      (plan.level = none → exec (.prepare plan) s = .next (answerPrepare (noted s plan) plan true 0)) ∧
      (∀ l, plan.level = some l → l < leAt plan.record 0 1 →
        (s.tableOp.isSome = true → exec (.prepare plan) s = .next { s with hold := .other }) ∧
        (s.tableOp = none → coreOffers s = false → exec (.prepare plan) s = .next (answerPrepare s plan false 3)) ∧
        (s.tableOp = none → coreOffers s = true → layoutFits plan.record (levelAt plan.record l) = false →
          exec (.prepare plan) s = .next (answerPrepare s plan false 4)) ∧
        (∀ u, s.tableOp = none → prepareCore s plan (levelAt plan.record l) = .ok u →
          exec (.prepare plan) s = .next (answerPrepare (noted u plan) plan true 0))))) ∧
  (∀ (s : State) (l : Launch) (p : BitVec 9) (why : BitVec 8), findLaunch s l.plan.ctx = some l → p ∈ l.plan.packages →
    p ∉ l.answered →
    (l.phase = .preparing →
      exec (.prepareAnswer l.plan.ctx p false why) s = .next (giveUp s l (if why = 0 then 2 else why.toNat) [p]) ∧
      ((∃ x ∈ l.plan.packages, x ≠ p ∧ x ∉ l.answered) → exec (.prepareAnswer l.plan.ctx p true why) s =
        .next (putLaunch s { l with answered := l.answered ++ [p] })) ∧
      ((∀ x ∈ l.plan.packages, x = p ∨ x ∈ l.answered) →
        let n := { l with phase := .committing, answered := [] }
        exec (.prepareAnswer l.plan.ctx p true why) s = .next (tellAll (putLaunch s n) n msgCommit (.commit l.plan.ctx)))) ∧
    (l.phase = .committing →
      ((∃ x ∈ l.plan.packages, x ≠ p ∧ x ∉ l.answered) → exec (.committed l.plan.ctx p) s =
        .next (putLaunch s { l with answered := l.answered ++ [p] })) ∧
      ((∀ x ∈ l.plan.packages, x = p ∨ x ∈ l.answered) → exec (.committed l.plan.ctx p) s =
        .next (emit (putLaunch s { l with phase := .launched, answered := l.answered ++ [p] })
          (.launchReport (launchReport l.plan.ctx 0 0 l.plan.cores.toNat [])))))) ∧
  (∀ (s : State) (n : BitVec 12) (p : BitVec 9) (ready : Bool) (why : BitVec 8), findLaunch s n = none →
    exec (.prepareAnswer n p ready why) s = .next { s with hold := .absent } ∧
    exec (.committed n p) s = .next { s with hold := .absent }) ∧
  (∀ (s : State) (l : Launch) (n : BitVec 12), s.access.request = .launch n → findLaunch s n = some l → exec .launchTimeout s =
    .next (giveUp s l 1 (l.plan.packages.filter (fun p => !l.answered.contains p)))) ∧
  (∀ (s : State) (plan : LaunchPlan), s.pk.prepared = [plan] →
    let s1 := { s with pk := { s.pk with prepared := [] } }
    (∀ l cx v, isReady s = true → plan.level = some l → findCtx s plan.ctx = some cx → leadOf plan.packages = some v →
      let on := putCtx s1 (setEnables cx true)
      let opened := if s.cx.num = cx.num then (List.range 64).foldl reevaluate on else on
      let s2 := agentMessage opened plan.ctx s.core 0 kindSystem (slotsOf (startPayload plan l)) none
      exec (.commit plan.ctx) s = .next (tellAgent s2 v msgCommitted plan.ctx (.committed plan.ctx s.pkg))) ∧
    (∀ v, isReady s = true → plan.level = none → leadOf plan.packages = some v →
      exec (.commit plan.ctx) s = .next (tellAgent s1 v msgCommitted plan.ctx (.committed plan.ctx s.pkg))) ∧
    (findCtx s plan.ctx = none → exec (.launchAbort plan.ctx) s = .next s1) ∧
    (∀ cx, findCtx s plan.ctx = some cx →
      (isDiscarded s1 plan.ctx cx = false →
        exec (.launchAbort plan.ctx) s = .next (queueEvent (discardLaunch s1 plan.ctx cx) (.launchAbort plan.ctx))) ∧
      (isDiscarded s1 plan.ctx cx = true → enginesBusy s1 plan.ctx = true →
        exec (.launchAbort plan.ctx) s = .next { s with hold := .other }) ∧
      (isDiscarded s1 plan.ctx cx = true → enginesBusy s1 plan.ctx = false → s.tableOp = none →
        exec (.launchAbort plan.ctx) s =
          .next (retireEpoch (clearDirectory (removeContext s1 plan.ctx) plan.ctx))))) ∧
  (∀ (cx : CtxState) (n : Nat), memWf cx.sram = true → n < 64 → chanPresent cx n = true →
    chanEn (setEnables cx true) n = true ∧ chanEn (setEnables cx false) n = false)

/-! ### Host, security core, fabric, start-up (R365 to R397) -/

/-- R372 to R377, R386: a request for a private page without the trusted bit is logged and refused; a doorbell is a
message from the host; a window becomes valid where it is accepted, and its root is put in its slot; a secure stream is
bound; a host acquire reads a sequence word at the memory point. -/
def Obligations.HostAperture : Prop :=
  (∀ (s : State) (ctx : BitVec 12) (off : Nat) (q : BitVec 16), off < 0x1000 →
    s.access.addr = .aperture (BitVec.ofNat 32 (0x100000 + 0x1000 * ctx.toNat + off)) false q →
    exec .accessDenied s = .next (if s.access.write then denyLog s off ctx true q
      else emit (denyLog s off ctx false q) (.registerRead (BitVec.allOnes 64)))) ∧
  (∀ (s : State) (ctx : BitVec 12) (off : Nat) (w : Bool) (q : BitVec 16), off < 2 ^ 64 →
    let s' := denyLog s off ctx w q
    let r := vget s'.pk.denylog (s.pk.denyhead.toNat % 64) 0
    s'.pk.denyhead = s.pk.denyhead + 1 ∧ r.extractLsb' 0 64 = BitVec.ofNat 64 off ∧ r.extractLsb' 64 16 = ctx.setWidth 16 ∧
      r.extractLsb' 80 8 = BitVec.ofNat 8 w.toNat ∧ r.extractLsb' 96 16 = q) ∧
  (∀ (s : State) (ctx : BitVec 12) (q : BitVec 16), PageAccess s ctx 0x010 q → ctx ≠ 0 →
    (queueRefused s ctx q = true → exec .doorbell s = .next (denyLog s 0x010 ctx true q)) ∧
    (queueRefused s ctx q = false →
      let v := s.access.value
      exec .doorbell s = .next (agentMessage s ctx (v.extractLsb' 0 10) (v.extractLsb' 10 6) kindSystem
        (slotsOf (doorbellPayload v)) (some ⟨⟨s.pkg, 0, true⟩, 0, true⟩)))) ∧
  (∀ (s : State) (ctx : BitVec 12) (n : BitVec 4) (q : BitVec 16), PageAccess s ctx (0x108 + 16 * n.toNat) q →
    let old := winAt s ctx n
    let w := { old with regB := s.access.value &&& winMask }
    ctx ≠ 0 →
    (s.access.value.getLsbD 63 = true → winValid old = false → field s.access.value 32 22 % 16 ≠ 0 →
      exec .hwinRegister s = .next s) ∧
    (s.access.value.getLsbD 63 = true → winValid old = false → field s.access.value 32 22 % 16 = 0 →
      (winAccepted s w = true → exec .hwinRegister s = .next (depositRoot (putWin s w) w)) ∧
      (winAccepted s w = false → exec .hwinRegister s = .next (putWin s { w with regB := putField w.regB 63 1 0 }))) ∧
    (s.access.value.getLsbD 63 = false → winValid old = true →
      (winBusy s old = true → exec .hwinUnregister s = .next { s with hold := .other }) ∧
      (winBusy s old = false →
        let off := putWin s { old with regB := putField old.regB 63 1 0 }
        exec .hwinUnregister s = .next { off with pk := { off.pk with
          retired := s.pk.retired.filter (fun w => decide (w ≠ old)) ++ [old] } }))) ∧
  (∀ (s : State) (ctx : BitVec 12) (m : BitVec 4) (q : BitVec 16) (x : SecureStream), PageAccess s ctx (0x200 + 8 * m.toNat) q →
    findStream s ctx m = some x → ctx ≠ 0 →
    let queue := s.access.value.extractLsb' 0 8
    let kept := x.error && (activeKey s ctx).isNone
    (s.access.value.getLsbD 8 = true → exec .ssbindWrite s =
      .next (putSecure s { x with queue := queue, bound := true, unitsIn := 0, unitsOut := 0, error := kept })) ∧
    (s.access.value.getLsbD 8 = false → exec .ssbindWrite s =
      .next (putSecure s { x with queue := queue, bound := false, error := true }))) ∧
  (∀ (s : State) (id : Nat) (va : Word), isOwn s va = true → va.toNat % 8 = 0 → s.cx.num ≠ 0 → vaSpace va = 1 →
    s.cx.residency = .resident → vaOff va + 8 ≤ scratchEnd s.cx → anyError s s.cx = false →
    moveHolds s s.cx.num va = false → ∃ ts, exec (.hostAcquireRead id s.cx.num va) s = .next (emit s
      (.readAnswer { id := id, data := memBytes s.cx.sram (vaOff va) 8, tags := ts, fault := none, pub := s.cx.pub }
        ⟨s.pkg, 0, true⟩)))

/-- R381 to R387: the security core gives numbers and keys, moves key slots through their states, makes a grant that both
contexts asked for, withdraws it, and seals or checks each unit of a secure stream. -/
def Obligations.SecurityCore : Prop :=
  (∀ (s : State) (ctx : BitVec 12) (n : BitVec 10) (x : BitVec 768), Asked s (.create ctx n x) → lowestMember s = true →
    numberFree s ctx = true → (keySlotAt s n.toNat).state = .empty →
    let s1 := putKey s n ⟨.provisioned, ctx, x⟩
    exec .contextCreate s = .next { s1 with pk := { s1.pk with contexts := s.pk.contexts ++ [ctx], agentMsg := s.pk.agentMsg.filter (fun p => decide (p.1 ≠ ctx)) } }) ∧
  (∀ (s : State) (ctx : BitVec 12) (n : BitVec 10) (x : BitVec 768) (good : Bool), Asked s (.provision n ctx x good) →
    (good = true → (keySlotAt s n.toNat).state = .empty → exec .provision s = .next (putKey s n ⟨.provisioned, ctx, x⟩)) ∧
    (good = false ∨ (keySlotAt s n.toNat).state ≠ .empty → exec .provision s = .next s)) ∧
  (∀ (s : State) (n : BitVec 10), Asked s (.activate n) →
    let k := keySlotAt s n.toNat
    (k.state = .provisioned → slotIn s k.ctx .retiring = false →
      exec .activate s = .next (resealLines (putKey (retireActive s k.ctx) n { k with state := .active }) k.ctx n.toNat)) ∧
    (k.state ≠ .provisioned ∨ slotIn s k.ctx .retiring = true → exec .activate s = .next s)) ∧
  (∀ (s : State) (n : BitVec 10),
    let k := keySlotAt s n.toNat
    (Asked s (.revoke n) →
      (k.state = .active → exec .revoke s =
        .next (queueEvent (errorStreams (putKey s n { k with state := .revoked }) k.ctx) (.fatalContext k.ctx true))) ∧
      (k.state = .provisioned → exec .revoke s = .next (putKey s n { k with state := .revoked })) ∧
      (k.state = .retiring → exec .revoke s = .next (dropSealed (putKey s n { k with state := .revoked }) n.toNat)) ∧
      (k.state = .empty ∨ k.state = .revoked → exec .revoke s = .next s)) ∧
    (∀ t, s.access.addr = .control 0xA02 → slotHolds s s.access.slot t → t.keysel = n → t.late = [] →
      (s.access.value.getLsbD 0 = true → k.ctx = t.ctx → k.state = .active → exec .keycmdRevoke s =
        .next (queueEvent (errorStreams (putKey s n { k with state := .revoked }) k.ctx) (.fatalContext k.ctx true))) ∧
      (s.access.value.getLsbD 0 = false ∨ k.ctx ≠ t.ctx → exec .keycmdRevoke s = .next s)) ∧
    (∀ z ∈ s.home.slices, ∀ l ∈ z.2.lines, l.key = n.toNat → exec (.resealDone n) s = .next { s with hold := .other }) ∧
    (k.state = .retiring → (∀ z ∈ s.home.slices, ∀ l ∈ z.2.lines, l.key ≠ n.toNat) →
      exec (.resealDone n) s = .next (putKey s n { k with state := .revoked })) ∧
    (k.state = .revoked → exec (.scrubDone n) s = .next (putKey s n KeySlot.none))) ∧
  (∀ (s : State) (q : GrantReq),
    let g := grantOf q
    (q.told = true → ∃ s', exec (.grant q) s = .next s' ∧ g ∈ s'.pk.grants) ∧
    (q.told = true → s.cx.num = g.grantee → s.cx.num ≠ 0 → ∃ s', exec (.grantWithdraw q) s = .next s' ∧ g ∉ s'.pk.grants ∧
      (∀ i e, i < 32 → vget s'.cx.endpoints i none = some e → holdsGrant g e = false)) ∧
    (q.told = false → grantOk s q = false → exec (.grant q) s = .next s) ∧
    (q.told = false → grantOk s q = true → otherAsked s q = false → ∃ s', exec (.grant q) s = .next s' ∧ (q.page, g) ∈ s'.pk.grantAsks ∧
      s'.pk.grants = s.pk.grants) ∧
    (q.told = false → grantOk s q = true → otherAsked s q = true → ∃ s', exec (.grant q) s = .next s' ∧ g ∈ s'.pk.grants ∧
      (∀ a ∈ s'.pk.grantAsks, a.2 ≠ g) ∧ (∀ p ∈ s.members, p ≠ s.pkg → .grantTold true g p ∈ s'.outbox)) ∧
    (q.told = false → (q.page = q.grantee ∨ q.page = q.grantor) → g ∈ s.pk.grants → s.cx.num = g.grantee → s.cx.num ≠ 0 →
      ∃ s', exec (.grantWithdraw q) s = .next s' ∧ g ∉ s'.pk.grants ∧
        (∀ p ∈ s.members, p ≠ s.pkg → .grantTold false g p ∈ s'.outbox) ∧
        (∀ i e, i < 32 → vget s'.cx.endpoints i none = some e → holdsGrant g e = false))) ∧
  (∀ (s : State) (x : SecureStream) (k : KeySlot) (u : SecureUnit), findStream s u.ctx u.m = some x →
    (x.error = true ∨ x.bound = false → exec (.secureStreamUnit u) s = .next s) ∧
    (x.error = false → x.bound = true → u.dir = true → (∃ y ∈ s.pk.streams, y.ctx = u.ctx ∧ y.bound = true ∧ y.error = false ∧
      y.m.toNat < u.m.toNat) → exec (.secureStreamUnit u) s = .next { s with hold := .absent }) ∧
    (x.error = false → x.bound = true → (u.dir = true → ∀ y ∈ s.pk.streams, y.ctx = u.ctx → y.bound = true → y.error = false →
        u.m.toNat ≤ y.m.toNat) →
      (activeKey s u.ctx = none → exec (.secureStreamUnit u) s = .next (putSecure s { x with error := true })) ∧
      (activeKey s u.ctx = some k →
        let pair := k.material.extractLsb' 0 512
        let mac := k.material.extractLsb' 512 256
        let tin := unitTweak x.unitsIn u.ctx u.m false
        let tout := unitTweak x.unitsOut u.ctx u.m true
        (u.dir = true → exec (.secureStreamUnit u) s = .next (emit (putSecure s { x with unitsOut := x.unitsOut + 1 })
          (.streamUnit u.ctx u.m (xtsSeal pair tout u.body) (kmac64 mac tout (xtsSeal pair tout u.body))))) ∧
        (u.dir = false → kmac64 mac tin u.body = u.tag → exec (.secureStreamUnit u) s =
          .next (emit (putSecure s { x with unitsIn := x.unitsIn + 1 }) (.streamUnit u.ctx u.m (xtsOpen pair tin u.body) u.tag))) ∧
        (u.dir = false → kmac64 mac tin u.body ≠ u.tag →
          exec (.secureStreamUnit u) s = .next (putSecure s { x with error := true })))))

/-- R365, R367, R368, R370, R394: the fabric registers take their writes, a routing window chooses the mode of the next,
a link accepts flits in order and sends again from a NAK, and a lane that fails is left out; a package that is fenced off is
no member, a load, a copy, a contribution and a watch under way to it fail, the contexts that have cores there are told, and
ADMIT takes it back. That a SPAWN under way fails with ENDPOINT and a FENCEH under way is made again is the model's reading
(log entry 82). -/
def Obligations.FabricAndFencing : Prop :=
  (∀ s : State, SharedAccess s 0x1000 →
    let v := s.access.value
    (field v 0 8 < field v 8 8 ∨ field v 16 2 = 3 → exec .routecfgWrite s = .next s) ∧
    (field v 8 8 ≤ field v 0 8 → field v 16 2 ≠ 3 →
      exec .routecfgWrite s = .next { s with pk := { s.pk with routecfg := v &&& 0x3FFFF } })) ∧
  (∀ s : State, SharedAccess s 0x1008 → ∃ w, exec .routestatRead s =
    .next (emit { s with pk := { s.pk with routestat := w } } (.registerRead s.pk.routestat)) ∧
    w.extractLsb' 32 32 = 0 ∧ w.extractLsb' 0 32 = s.pk.routestat.extractLsb' 0 32) ∧
  (∀ s : State, SharedAccess s 0x1010 →
    let v := s.access.value &&& 0xFFFF
    exec .lnkcfgWrite s = .next (if v = 0 then s else { s with pk := { s.pk with lnkcfg := v } })) ∧
  (∀ s : State, SharedAccess s 0x1018 →
    let v := s.access.value &&& 0xFFFFFFFF
    exec .lnkfenceWrite s = .next (if v = 0 then s else { s with pk := { s.pk with lnkfence := v } })) ∧
  (∀ (s : State) (i : Nat), i < 72 → SharedAccess s (0x1100 + 8 * i) →
    exec .lnkstatRead s = .next (emit (putLink s i { linkAt s i with crcerr := 0, replays := 0 })
      (.registerRead (lnkstatOf (linkAt s i))))) ∧
  (∀ (s : State) (idle : BitVec 8), ∃ w, exec (.routingWindow idle) s =
      .next { s with pk := { s.pk with routestat := w, links := s.pk.links.map (fun (l : Link) => { l with sent := 0 }) } } ∧
    (field s.pk.routecfg 16 2 = 1 → w.getLsbD 0 = false) ∧ (field s.pk.routecfg 16 2 = 2 → w.getLsbD 0 = true) ∧
    let imb := imbOf (s.pk.links.toList.filter linkUp).length (s.pk.links.toList.map (·.sent))
    (imb = none → field w 8 8 = idle.toNat) ∧
    (∀ i, imb = some i → field w 8 8 = min i 255 ∧
      (field s.pk.routecfg 16 2 = 0 →
        (field s.pk.routecfg 0 8 < i → w.getLsbD 0 = true) ∧
        (i ≤ field s.pk.routecfg 0 8 → i ≤ field s.pk.routecfg 8 8 → w.getLsbD 0 = false) ∧
        (i ≤ field s.pk.routecfg 0 8 → field s.pk.routecfg 8 8 < i → w.getLsbD 0 = s.pk.routestat.getLsbD 0)))) ∧
  (∀ (s : State) (i : BitVec 7) (f : LinkFlit), i.toNat < 72 →
    let l := linkAt s i.toNat
    linkUp l = true →
    (f.outgoing = true → i = 71 → (∀ k, k < 71 → (linkAt s k).state ≠ 2) →
      exec (.linkFlit i f) s = .next { s with hold := .absent }) ∧
    (f.outgoing = true → mayCarry s i.toNat = true → (1024 ≤ l.replay.length ∨ l.due ≠ 0) →
      exec (.linkFlit i f) s = .next { s with hold := .other }) ∧
    (f.outgoing = true → mayCarry s i.toNat = true → l.replay.length < 1024 → l.due = 0 →
      let g := mkLinkFlit l 0 l.txSeq f.payload (f.random.getD (s.pk.routestat.getLsbD 0))
      exec (.linkFlit i f) s = .next (emit (putLink s i.toNat
        { l with txSeq := l.txSeq + 1, replay := l.replay ++ [g], sent := l.sent + 1 }) (.linkFlit i g)) ∧
      g.crc = crcOf (flitBytes g) ∧ g.ack = l.rxSeq) ∧
    (f.outgoing = false → f.crc = crcOf (flitBytes f) →
      let rest := l.replay.filter (fun x => !ackedBy f.ack x)
      (f.type = 0 → f.seq = l.rxSeq → ∃ m, exec (.linkFlit i f) s =
        .next (emit (putLink s i.toNat m) (.delivered i f.payload)) ∧
        m.rxSeq = l.rxSeq + 1 ∧ m.nakSent = false ∧ m.replay = rest) ∧
      (f.type = 3 → 2 ≤ ((List.range 4).filter (fun k => f.payload.getLsbD k)).length → ∃ s', exec (.linkFlit i f) s = .next s' ∧
        (linkAt s' i.toNat).lanes = f.payload.extractLsb' 0 4 ∧ linkUp (linkAt s' i.toNat) = true ∧
        s'.outbox = s.outbox ++ rest.map (fun x => Packet.linkFlit i x)) ∧
      (f.type = 3 → ((List.range 4).filter (fun k => f.payload.getLsbD k)).length < 2 → ∃ s', exec (.linkFlit i f) s = .next s' ∧
        (linkAt s' i.toNat).state = 2 ∧ (linkAt s' i.toNat).replay = [] ∧
        s'.outbox = s.outbox ++ rest.map (fun x => Packet.reroute x.payload (x.random.getD false)))) ∧
    (f.outgoing = false → f.crc ≠ crcOf (flitBytes f) → l.window + 1 ≠ 2 ^ 20 →
      let n := vget l.laneErr f.badLane.toNat 0 + 1
      let exceeds := field s.pk.lnkcfg 0 16 < n ∧ l.lanes.getLsbD f.badLane.toNat = true ∧ l.due.getLsbD f.badLane.toNat = false
      ∃ s', exec (.linkFlit i f) s = .next s' ∧
      let m := linkAt s' i.toNat
      m.nakSent = true ∧ m.rxSeq = l.rxSeq ∧ m.replay = l.replay ∧ vget m.laneErr f.badLane.toNat 0 = n ∧
      (l.crcerr.toNat < 65535 → m.crcerr = l.crcerr + 1) ∧
      s'.outbox = s.outbox ++ [Packet.linkFlit i (mkLinkFlit l 2 l.rxSeq 0 false)] ∧
      (exceeds → m.due.getLsbD f.badLane.toNat = true ∧ s'.inputs = s.inputs ++ [⟨.laneRepair i f.badLane, Access.none⟩]) ∧
      (¬ exceeds → m.due = l.due ∧ s'.inputs = s.inputs)) ∧
    (∀ q, (∀ x ∈ l.replay, (x.seq - q).toNat < 1024) → ∃ m, m.replay = l.replay ∧ exec (.nak i q) s =
      .next { putLink s i.toNat m with outbox := s.outbox ++ l.replay.map (fun x => Packet.linkFlit i x) }) ∧
    (∀ k : BitVec 2, l.due.getLsbD k.toNat = false → exec (.laneRepair i k) s = .next { s with hold := .absent }) ∧
    (∀ k : BitVec 2, l.lanes = 15 → l.due.getLsbD k.toNat = true → ∃ s',
      exec (.laneRepair i k) s = .next s' ∧ (linkAt s' i.toNat).due.getLsbD k.toNat = false ∧ (linkAt s' i.toNat).state = 1 ∧ (linkAt s' i.toNat).lanes.getLsbD k.toNat = false ∧
      ∃ g : LinkFlit, g.type = 3 ∧ g.payload.extractLsb' 0 4 = (linkAt s' i.toNat).lanes ∧
        s'.outbox = s.outbox ++ Packet.linkFlit i g :: l.replay.map (fun x => Packet.linkFlit i x))) ∧
  (∀ (s : State) (p : BitVec 9),
    (fenceable s p = true → exec (.packageFence p) s = .next (fencePackage s p)) ∧
    (p ≠ s.pkg → p ∉ s.members → exec (.packageFence p) s = .next s) ∧
    (Asked s (.fence p) → fenceable s p = true → exec .fenceRequest s = .next (emit (fencePackage s p) (.fenceStart p))) ∧
    (fenceable s p = true → (∀ i ∈ linksTo s p, (linkAt s i).state = 2) →
      exec (.linkFenceTimeout p) s = .next (emit (fencePackage s p) (.fenceStart p))) ∧
    (s.pending = [] → s.sending = [] → s.placed = [] → s.cx.num = 0 → s.others = [] →
      (fencePackage s p).members = s.members.filter (fun x => decide (x ≠ p)) ∧
      (fencePackage s p).pk.fenced = s.pk.fenced ++ [p] ∧ (∀ w ∈ (fencePackage s p).watches, w.spkg ≠ p)) ∧
    (∀ x t k, p ≠ s.pkg → k < 4 → s.pending = [x] → x.owner.pkg = p → x.fate = .live → x.purpose = .load →
      slotAt s k = .running t → t.tid = x.tid → t.sa.wait = .read x.id none → ∃ r u,
        slotAt (fencePackage s p) k = .running u ∧ u.sa = { t.sa with wait := .read x.id (some r) } ∧ r.fault = some (0x0B, 1) ∧
        (fencePackage s p).pending = []) ∧
    (∀ x c q, p ≠ s.pkg → s.pending = [x] → x.owner.pkg = p → x.fate = .live → x.purpose = .copy c.id → s.copies = [c] →
      c.parts = [q] → q.read = x.id → (fencePackage s p).copies = [{ c with
        parts := [], got := c.got ++ [{ part := q, bytes := [], tags := [], fault := some 0x0B }] }]) ∧
    (∀ t k, p ≠ s.pkg → k < 4 → s.pending = [] → slotAt s k = .running t → ∃ u, slotAt (fencePackage s p) k = .running u ∧
      (∀ a c d e, t.sa.wait = .spawn a p c d e none → u.sa.wait = .unreachable) ∧
      (∀ a c d e, t.se.wait = .spawn a p c d e none → u.se.wait = .unreachable) ∧
      (∀ a, t.sa.wait = .fenceh a p none → u.sa.wait = .ready) ∧ (∀ a, t.se.wait = .fenceh a p none → u.se.wait = .ready) ∧
      (∀ y, t.se.wait = .route → t.port = some y → y.dpkg = p → u.se.wait = .ready)) ∧
    (p ≠ s.pkg → s.pending = [] → s.others = [] → (∀ k ∈ s.cx.cores, k.1 ≠ p) →
      (∀ x, s.placed = [] → s.sending = [x] → x.contrib.hpkg = p → (fencePackage s p).sending = [] ∧
        (fencePackage s p).inputs = (refuseContrib s x.contrib).inputs ∧
        (fencePackage s p).outbox = (refuseContrib s x.contrib).outbox) ∧
      (∀ w, s.sending = [] → s.placed = [w] → vaPkg w.va = p → (fencePackage s p).placed = [] ∧
        (fencePackage s p).inputs = (watchReply s w 0 watchRefused 0x0B none).inputs ∧
        (fencePackage s p).outbox = (watchReply s w 0 watchRefused 0x0B none).outbox)) ∧
    (∀ c n, p ≠ s.pkg → s.pending = [] → s.sending = [] → s.placed = [] → s.others = [] → s.cx.num ≠ 0 →
      s.cx.cores = [(s.pkg, s.core), (p, c)] → supChannel s.cx = some n →
      (fencePackage s p).cx.cores = [(s.pkg, s.core)] ∧
      ∃ m, (fencePackage s p).inputs = s.inputs ++ [⟨.messageArrival m, Access.none⟩] ∧ msgKind m = kindSystem ∧
        msgChan m = BitVec.ofNat 6 n ∧ payloadBytes m = takePad 48 ([0x80#8, 0, 0, 0] ++ leBytes 2 p.toNat)) ∧
    (∀ ready out, Asked s (.rejoin p ready out) →
      (lowestMember s = false → exec .admitPackage s = .next { s with hold := .absent }) ∧
      (lowestMember s = true → (ready = false ∨ p ∉ s.pk.fenced) → exec .admitPackage s = .next s) ∧
      (lowestMember s = true → ready = true → p ∈ s.pk.fenced → ∃ s', exec .admitPackage s = .next s' ∧ p ∈ s'.members ∧
        p ∉ s'.pk.fenced ∧ (∀ q, q ≠ p → (q ∈ s'.members ↔ q ∈ s.members)) ∧
        (∀ q ∈ s.members, q ≠ s.pkg → .rejoined p q ∈ s'.outbox) ∧ (∀ x ∈ out, (p, x) ∈ s'.farOut))) ∧
    (∀ r ready out, s.access.addr = .control r → s.access.request = .rejoin p ready out →
      (p ∉ s.pk.fenced → exec .admitPackage s = .next { s with hold := .absent }) ∧
      (p ∈ s.pk.fenced → ∃ s', exec .admitPackage s = .next s' ∧ p ∈ s'.members ∧ p ∉ s'.pk.fenced)))

/-- R28, R389 to R397: a cold boot leaves every unit as after reset and a warm reset keeps main memory; each stage leads to
the next or fails, and the third failure in succession leads to minimal mode; the scrubber corrects and counts; a snapshot
latches once, the PCs at its trigger; a thermal step is counted. How a trigger on its way meets another, what training gives a
channel that the row does not list, and what a reset keeps are the model's choices (log entries 87, 151, 111). -/
def Obligations.StartUpAndHealth : Prop :=
  (∀ s : State, inMinimal s = false →
    (∃ s', exec .coldBoot s = .next s' ∧ s'.slots = Vector.replicate 4 .free ∧ s'.cx = CtxState.fresh 0 ∧ s'.others = [] ∧
      s'.regs = CoreRegs.reset ∧ s'.home = Home.reset ∧ bootStage s' = 1 ∧ bootFails s' = bootFails s ∧ inMinimal s' = false ∧
      s'.pk.starting = true ∧ s'.pkg = s.pkg ∧ s'.core = s.core) ∧
    (∃ s', exec .warmReset s = .next s' ∧ s'.slots = Vector.replicate 4 .free ∧ s'.cx = CtxState.fresh 0 ∧
      s'.regs = CoreRegs.reset ∧ s'.home.mem = s.home.mem ∧ bootStage s' = 1 ∧ bootFails s' = bootFails s)) ∧
  (∀ s : State, s.pk.starting = true →
    (∀ n, bootStage s = n → 1 ≤ n → n ≤ 2 → ∃ s', exec (.bootStageDone .ok) s = .next s' ∧ bootStage s' = n + 1 ∧
      s'.pk.starting = true) ∧
    (∀ found, bootStage s = 3 → exec (.bootStageDone (.okMemory found)) s = .next (takeMemory s found) ∧
      bootStage (takeMemory s found) = 4 ∧
      (∀ st, st < 16 → (BitVec.ofNat 4 st ∈ (takeMemory s found).pk.stacksOut ↔
        Config.spareLanes < (failingLanes (takeMemory s found).pk.training st).length))) ∧
    (∀ (found : List ChannelFound) (i : Nat), bootStage s = 3 → i < 1024 → sparseWf Training.none s.pk.training = true →
      let t := sparseGet Training.none s.pk.training i
      let f := (found.find? (fun f => decide (f.chan.toNat = i))).getD
        ⟨BitVec.ofNat 10 i, none, true, 0, Config.trainResult s.fresh (BitVec.ofNat 10 i)⟩
      let good := s.pk.cold = false ∧ sha3_512 (f.stored.getD t.result) = t.digest ∧ f.pattern = true
      (good → sparseGet Training.none (takeMemory s found).pk.training i = t) ∧
      (¬ good → sparseGet Training.none (takeMemory s found).pk.training i = ⟨f.result, sha3_512 f.result, f.failing⟩)) ∧
    (∀ failed, bootStage s = 4 →
      let oos := coresOut s failed
      (∀ c : BitVec 10, s.pk.stacksOut.contains (c.extractLsb' 6 4) = true → c ∈ oos) ∧
      (∀ c : BitVec 10, s.pk.stacksOut.contains (c.extractLsb' 6 4) = false → c ∉ failed → c ∉ oos) ∧
      (∀ c : BitVec 10, s.pk.stacksOut.contains (c.extractLsb' 6 4) = false →
        (failedOf failed (c.toNat / 128)).length ≤ 4 → c ∉ oos) ∧
      (quadsServed oos = false → exec (.bootStageDone (.okCores failed)) s = .next (failStart s 4)) ∧
      (quadsServed oos = true → s.core ∉ oos → ∃ s', exec (.bootStageDone (.okCores failed)) s = .next s' ∧
        bootStage s' = 5 ∧ s'.outOfService = oos ∧ s'.pk.spares = mapSpares failed ∧
        s'.regs.ovfcfg = 0x102CA4 ∧ s'.regs.tblcfg = 0x40028A4 ∧ s'.regs.ctxsave = 0x328A5 ∧ s'.ovf = [])) ∧
    (∀ lanes far, bootStage s = 5 → ∃ s', exec (.bootStageDone (.okLinks lanes far)) s = .next s' ∧ bootStage s' = 6 ∧
      s'.farOut = far.filter (fun c => decide (c.1 ≠ s.pkg)) ∧ bootFails s' = 0 ∧ s'.pk.starting = false ∧ ∀ i, i < 72 → (linkAt s' i).lanes = lanes.getD i 0 ∧
        let n := ((List.range 4).filter (fun k => (lanes.getD i 0).getLsbD k)).length
        (linkAt s' i).state = (if n = 4 then 0 else if n < 2 then 2 else 1)) ∧
    (∀ r : BitVec 4, r.toNat ∈ stageReasons (bootStage s) → exec (.bootStageDone (.failed r)) s = .next (failStart s r.toNat) ∧
      (failStart s r.toNat).pk.starting = false ∧ field (failStart s r.toNat).pk.bootstat 8 4 = r.toNat ∧
      (bootFails s < 2 → bootFails (failStart s r.toNat) = bootFails s + 1 ∧ inMinimal (failStart s r.toNat) = inMinimal s) ∧
      (2 ≤ bootFails s → inMinimal (failStart s r.toNat) = true)) ∧
    (stageReasons (bootStage s) ≠ [] → ∃ r ∈ stageReasons (bootStage s),
      exec .bootTimeout s = .next (failStart { s with fresh := s.fresh + 1 } r))) ∧
  (∀ s : State, inMinimal s = true →
    (∀ off queue, PageAccess s 0 off queue →
      exec (.firmwareUpdate true) s = .next { s with pk := { s.pk with updated := true } } ∧
      exec (.firmwareUpdate false) s = .next s) ∧
    (∀ off queue, s.access.addr = .aperture off false queue → exec (.firmwareUpdate true) s = .next { s with hold := .absent })) ∧
  (∀ (s : State) (n : Nat) (flips : BitVec 288), n < sectorCount →
    let z := flipBits s n flips
    (sectorHealth z n = .good → exec (.scrubRead (.sector n) (.flips flips)) s = .next z) ∧
    (sectorHealth z n = .correctable → exec (.scrubRead (.sector n) (.flips flips)) s = .next (countCorr (setErrors z n 0))) ∧
    (sectorHealth z n = .uncorrectable →
      ((∀ c ∈ s.others, c.residency = .out → ¬ (imageByte s c.image ≤ 32 * n ∧ 32 * n < imageByte s c.image + imageBytes)) →
        exec (.scrubRead (.sector n) (.flips flips)) s = .next (countUncorr z)) ∧
      (∀ c, s.others = [c] → c.residency = .out → imageByte s c.image ≤ 32 * n → 32 * n < imageByte s c.image + imageBytes →
        exec (.scrubRead (.sector n) (.flips flips)) s = .next (queueEvent (countUncorr z) (.fatalContext c.num false))))) ∧
  (∀ (s : State) (n : Nat) (h : SectorHealth), n < 524288 →
    let old := wordHealth s.cx n
    let set := fun x => { s with cx := setWordHealth s.cx n x }
    (old = .good → h = .good → exec (.scrubRead (.sram n) (.health h)) s = .next s) ∧
    (old ≠ .uncorrectable → h ≠ .uncorrectable → ¬ (old = .good ∧ h = .good) →
      exec (.scrubRead (.sram n) (.health h)) s = .next (countCorr (set .good))) ∧
    (old = .uncorrectable ∨ h = .uncorrectable → exec (.scrubRead (.sram n) (.health h)) s =
      .next (if inSched s.cx (8 * n) 8 || inArmed s.cx (8 * n) 8 then
        queueEvent (countUncorr (set .uncorrectable)) (.fatalContext s.cx.num false) else countUncorr (set .uncorrectable)))) ∧
  (∀ (s : State) (ctx : BitVec 12) (va : Word) (h : SectorHealth) (x : SliceLine), heldLine s ctx (lineOf va) = some x →
    (x.bad = false → h = .good → exec (.scrubRead (.line ctx va) (.health h)) s = .next s) ∧
    (x.bad = false → h = .correctable → exec (.scrubRead (.line ctx va) (.health h)) s = .next (countCorr s)) ∧
    (x.bad = true ∨ h = .uncorrectable → exec (.scrubRead (.line ctx va) (.health h)) s =
      .next (countUncorr (keepLine s { x with bad := true })))) ∧
  (∀ (s : State) (ctx : BitVec 12) (va : Word) (x : CacheLine), s.lines = [x] → x.ctx = ctx → x.line = lineOf va →
    (x.bad = false → exec (.scrubRead (.cached ctx va) (.health .correctable)) s = .next (countCorr s)) ∧
    exec (.scrubRead (.cached ctx va) (.health .uncorrectable)) s =
      .next (countUncorr { s with lines := [{ x with bad := true }] }) ∧
    exec (.scrubRead (.tagArray ctx va) (.health .uncorrectable)) s = .next (countUncorr { s with lines := [] })) ∧
  (∀ (s : State) (k : BitVec 3) (w : BitVec 12),
    let put := fun h => { s with cx := { s.cx with tileErr := sparsePut .good s.cx.tileErr (4096 * k.toNat + w.toNat) h } }
    exec (.scrubRead (.tile k w) (.health .uncorrectable)) s =
      .next (queueEvent (countUncorr (put .uncorrectable)) (.fatalContext s.cx.num false)) ∧
    (sparseGet .good s.cx.tileErr (4096 * k.toNat + w.toNat) = .good →
      exec (.scrubRead (.tile k w) (.health .correctable)) s = .next (countCorr (put .good)))) ∧
  (∀ s : State, SharedAccess s 0x0010 →
    (s.access.value.getLsbD 0 = false → exec .snaptrig s = .next s) ∧
    (s.access.value.getLsbD 0 = true → s.pk.snapArmed = true → exec .snaptrig s = .next s) ∧
    (s.access.value.getLsbD 0 = true → s.pk.snapArmed = false → ∃ s', exec .snaptrig s = .next s' ∧ s'.pk.snapArmed = true ∧
      s'.slots = s.slots ∧ s'.regs = s.regs ∧
      (s.regs.snapstat.getLsbD 0 = true → s'.pk.snapHeld = none) ∧
      (s.regs.snapstat.getLsbD 0 = false → ∃ pcs, s'.pk.snapHeld = some pcs ∧
        ∀ (k : Nat) (t : Task), k < 4 → slotAt s k = .running t →
          vget pcs (2 * k) 0 = t.sa.pc ∧ vget pcs (2 * k + 1) 0 = t.se.pc))) ∧
  (∀ s : State, s.pk.snapArmed = true →
    (s.pk.snapHeld = none → exec .snapshotLatch s = .next { s with pk := { s.pk with snapArmed := false, snapHeld := none } }) ∧
    (∀ pcs, s.pk.snapHeld = some pcs → ∃ s', exec .snapshotLatch s = .next s' ∧ s'.regs.snapstat.getLsbD 0 = true ∧
      s'.pk.snapArmed = false ∧ s'.slots = s.slots ∧ s'.regs.snappc = pcs)) ∧
  (∀ (s : State) (c : BitVec 8), s.access.request = .inlet c → exec .thermalStep s =
    .next { s with pk := { s.pk with pwrstat := putField s.pk.pwrstat 8 8 c.toNat } }) ∧
  (∀ (s : State) (d : BitVec 3), s.access.request = .die d → ∃ s', exec .thermalStep s = .next s' ∧
    vget s'.pk.throttle d.toNat 0 = vget s.pk.throttle d.toNat 0 + 1 ∧ s'.pk.pwrstat.getLsbD d.toNat = true ∧
    s' = { s with pk := { s.pk with throttle := s'.pk.throttle, pwrstat := s'.pk.pwrstat } })

/-! ### Encodings, the step, reset -/

/-- R174 to R182: words written out from the encoding tables decode to the instructions they stand for. -/
def Obligations.DecodeWords : Prop :=
  decode .A 0x04611000#32 = .ok (.add 3 1 2 0) ∧ decode .E 0x0843FFFF#32 = .ok (.addi 2 3 0xFFFF) ∧
  decode .E 0x2CA07FC0#32 = .ok (.lih 5 0 0x7FC0) ∧ decode .A 0x5480FFFE#32 = .ok (.loop 4 0xFFFE) ∧
  decode .A 0x58000000#32 = .ok .endStream ∧ decode .E 0x58000000#32 = .ok .endStream ∧
  decode .A 0xAC043028#32 = .ok (.achain 4 6 0 5 0) ∧ decode .A 0xB060000B#32 = .ok (.atest 3 0 5) ∧
  decode .A 0xB000000A#32 = .ok (.adisarm 5) ∧ decode .E 0xEC050002#32 = .ok (.asend 5 0 1) ∧
  decode .E 0xEC054801#32 = .ok (.avsend 5 9 0) ∧
  decode .A 0#32 = .error .zeroWord ∧ decode .E 0xFC000000#32 = .error .unallocated ∧
  decode .A 0xEC050002#32 = .error .streamMajor ∧ decode .E 0xB000000A#32 = .error .streamMajor ∧
  decode .A 0x040000FF#32 = .error .reservedFn ∧ decode .A 0x58000001#32 = .error .reservedField

/-- R173 to R183: every well-formed instruction is encoded in one word, and that word decodes to it, with every operand at
every value that the encoding admits. -/
def Obligations.DecodeEncode : Prop :=
  ∀ (st : Stream) (i : Instr), WellFormed st i → ∃ w, encode i = [w] ∧ decode st w = .ok i

/-- R173 to R183: a word that decodes stands for a well-formed instruction, whose encoding it is: each word has one
meaning in a stream. -/
def Obligations.EncodeDecode : Prop :=
  ∀ (st : Stream) (w : InstrWord) (i : Instr), decode st w = .ok i → WellFormed st i ∧ encode i = [w]

/-- R9, R129, R205, R337: with no event to take and no unit to act first, the step fetches the word of the first stream that can
issue, decodes it and runs its instruction, and then a cycle passes; a word that is no instruction traps; a pending command trap
is taken before an instruction, and of the traps of both streams of a task the one that ranks higher (R172, R351); an event is
taken before any instruction, and a packet out of sequence waits (R364), as does a message of a launch behind another of it
(R342); with nothing to do, a cycle passes. -/
def Obligations.StepRunsDecoded : Prop :=
  (∀ (s : State),
    let s0 := { s with hold := .none }
    (∀ (c : BitVec 2 × Stream) (rest : List (BitVec 2 × Stream)) (w : InstrWord) (s2 : State), s.inputs = [] →
      autoEvent s0 = none → s.turn = false → candidates s0 = c :: rest →
      fetchWord.run (issuing s0 c) = .ok (w, s2) →
      let d := (c.1, otherStream c.2)
      (∀ i, decode c.2 w = .ok i → takesPlace (orderOut s2 c i (exec i s2)) = true →
        let r := rankOf s0 c (orderOut s2 c i (exec i s2))
        (r = 0 ∨ picked s0 d.2 ≠ some d → step s = afterIssue s0 c (orderOut s2 c i (exec i s2))) ∧
        (r ≠ 0 → picked s0 d.2 = some d →
          let q := rankOf s0 d (attempt s0 d)
          (r < q ∨ (r = q ∧ c.2 = .E) → step s = afterIssue s0 d (attempt s0 d)) ∧
          (q < r ∨ (r = q ∧ c.2 = .A) → step s = afterIssue s0 c (orderOut s2 c i (exec i s2))))) ∧
      (∀ e, decode c.2 w = .error e → (takeTrap s2 (decodeTrap e)).hold = .none → picked s0 d.2 ≠ some d →
        step s = afterIssue s0 c (.next (takeTrap s2 (decodeTrap e))))) ∧
    (∀ t : Task, s.inputs = [] → taskIn s 0 = some t → t.cmdTrap.isSome = true → t.ending = .running →
      t.deadlock ≠ 65536 → t.wdbudget ≠ 0 → t.sa.ended = false → t.sa.wait = .ready →
      step s = afterEvent (exec (.commandTrap 0) s0)) ∧
    (∀ (ev : Event) (rest : List Event), s.inputs = ev :: rest →
      let o := exec ev.row { accepted s0 ev with inputs := rest, access := ev.access }
      (inSequence s0 ev = true → mustWait o = false → step s = afterEvent o) ∧
      (inSequence s0 ev = false ∨ mustWait o = true → rest = [] → step s = stepInside s0) ∧
      (∀ ev2, inSequence s0 ev = false ∨ mustWait o = true → rest = [ev2] → (launchOf ev.row).isSome = true →
        launchOf ev2.row = launchOf ev.row → step s = stepInside s0)) ∧
    (∀ i, s.inputs = [] → autoEvent s0 = some i → step s = afterEvent (exec i s0)) ∧
    (∀ i r, s.inputs = [] → autoEvent s0 = none → s.turn = true → unitActs s0 = i :: r → takesPlace (exec i s0) = true →
      step s = afterEvent (exec i s0)) ∧
    (s.inputs = [] → autoEvent s0 = none → firstIssue s0 (candidates s0) = none → firstAct s0 (unitActs s0) = none →
      step s = .next (tick s0 s0))) ∧
  (∀ (pre : State) (c : BitVec 2 × Stream) (i : Instr) (t : State) (u : Task), taskIn t c.1.toNat = some u → u.late = [] →
    orderOut pre c i (.next t) = .next t) ∧
  (∀ (pre : State) (c : BitVec 2 × Stream) (t : State),
    afterIssue pre c (.next t) = .next (tick pre { noteSelected pre c t with turn := true, hold := .none }))

/-- R9, R349: no step stops the machine: every instruction, trap and event leads to a next state. -/
def Obligations.EveryStepGoesOn : Prop :=
  ∀ s : State, ∃ s', step s = .next s'

/-- The memories of the machine keep their canonical form in every step: the home channel, and the scratchpad of each
context, from any state in which they have it. -/
def Obligations.MemoriesStayCanonical : Prop :=
  ∀ s s' : State, memoriesWf s = true → step s = .next s' → memoriesWf s' = true

/-- Reset (R34, R55, R69, R100, R275, R287, R344, R346, R365, R368, R373, R391, R394, R395): no task runs, no context is
resident, registers hold the values of their tables, and the memories have their canonical form. -/
def Obligations.ResetState : Prop :=
  let s := State.reset
  memoriesWf s = true ∧ (∀ k, slotAt s k = .free) ∧ s.cx.num = 0 ∧ s.others = [] ∧ s.sb = [] ∧ s.copies = [] ∧
  s.mxQueue = [] ∧ s.mxRun = none ∧ s.ovf = [] ∧ s.lines = [] ∧ s.permits = [] ∧ s.fetchLines = [] ∧ s.home.slices = [] ∧
  s.home.errors = [] ∧ s.packetNext = [] ∧ s.packetSent = [] ∧ s.lateCrws = [] ∧ s.sweep = .idle ∧ s.tableOp = none ∧ s.watches = [] ∧ s.pk.launches = [] ∧
  s.regs.ovfcfg = 0 ∧ s.regs.tblcfg = 0 ∧ s.regs.rvcfg = 0 ∧ s.regs.sdtime = 0x100000 ∧ s.regs.scrubcfg = 0x100 ∧
  s.cx.split = 8 ∧ s.cx.slice = 0x100000 ∧ s.cx.gangcfg = 0x10000000000000 ∧ s.cx.numsum = 0 ∧ s.cx.numtrap = 0 ∧
  (∀ n, n < 32 → (chainAt s.cx n).armed = false) ∧ s.pk.routecfg = 0x408 ∧ s.pk.lnkcfg = 0x10 ∧ s.pk.lnkfence = 0x100000 ∧
  (∀ i, i < 72 → (linkAt s i).state = 3) ∧ bootStage s = 1 ∧ inMinimal s = false

/-- R66, R338, R352, R357: PAGE_NOT_PRESENT suspends its task at the faulting instruction, with the trap registers
written and no report, and enters the fault-wait list of an own page while there is room; with the suspend store full the
task stays HELD in its slot. -/
def Sys2Proof.Claims.PageFaultsSuspend : Prop :=
  ∀ (s : State) (k : BitVec 2) (t : Task) (st : Stream) (va pc : Word), slotHolds s k t →
    t.sa.wait = .ready → t.se.wait = .ready →
    let r := takeTrapAt s k.toNat st false ⟨.pageNotPresent, 0, va⟩ pc
    (∀ u on, (slotAt r k.toNat = .held u on ∨ (u, on) ∈ r.cx.susp ∧ (u, on) ∉ s.cx.susp) → u.tid = t.tid →
      u.trapaddr = pc ∧ u.trapcause.extractLsb' 0 8 = 0x0A#8 ∧ u.trapcause.extractLsb' 8 2 = 0#2 ∧
      u.trapcause.getLsbD 10 = decide (st = .E) ∧ u.trapmsg = t.chan ++ t.msgid ∧ u.sa = t.sa ∧ u.se = t.se ∧ u.a = t.a) ∧
    (s.cx.suspCap ≤ s.cx.susp.length → (∃ u on, slotAt r k.toNat = .held u on ∧ u.tid = t.tid) ∧ r.cx = s.cx) ∧
    (s.cx.susp.length < s.cx.suspCap → s.cx.runq = [] → slotAt r k.toNat = .free ∧
      ∃ u on, r.cx.susp = s.cx.susp ++ [(u, on)] ∧ u.tid = t.tid ∧ r.cx.sram =
        memWrite s.cx.sram (suspPlace s.cx) (leBytes 16384 (Config.taskBytes s.cx.susp.length u).toNat)) ∧
    (isOwn s va = true →
      let n := sliceNo t.ctx va
      let z := sliceAt s n
      (z.waiting.length < 256 →
        r.home = (putSlice s n { z with waiting := z.waiting ++ [⟨t.ctx, va >>> 16, ownId s, k, t.tid⟩] }).home) ∧
      (256 ≤ z.waiting.length → r.home = s.home)) ∧
    (isOwn s va = false → r.home = s.home) ∧ r.home.mem = s.home.mem ∧
    (s.cx.suspCap ≤ s.cx.susp.length ∨ s.cx.runq = [] → r.inputs = s.inputs ∧ r.outbox = s.outbox)

/-- R66, R324, R338, R352, R357: BRK and PAGE_NOT_PRESENT suspend their task; ERET wakes one. -/
def Obligations.SuspensionAndReturn : Prop := BreakAndReturn ∧ PageFaultsSuspend
end

