-- ==== Sys2Proof/Laws/Memory.lean ====
section
/-! SUPPORT. Sparse data and memories: a read after a write, the places a write leaves, and the canonical form. -/
namespace Sys2Proof.Machine

/-! ### Sparse data -/

theorem sparseGet_put_same {α : Type} [DecidableEq α] (d : α) (m : Sparse α) (n : Nat) (v : α)
    (h : sparseWf d m = true) : sparseGet d (sparsePut d m n v) n = v := by
  suffices ∀ lo, sparseWfFrom d lo m = true → sparseGet d (sparsePut d m n v) n = v from this none h
  clear h
  have low : ∀ (r : Sparse α) (k : Nat), sparseWfFrom d (some k) r = true → n ≤ k → sparseGet d r n = d := by
    intro r
    induction r with
    | nil => intros; rfl
    | cons q r ih =>
      intro k hk hn
      obtain ⟨a, y⟩ := q
      simp only [sparseWfFrom, Bool.and_eq_true, decide_eq_true_eq] at hk
      have : ¬ n = a := by omega
      simp only [sparseGet, this, if_false]
      exact ih a hk.2 (by omega)
  induction m with
  | nil => intro _ _; by_cases hv : v = d <;> simp [sparsePut, sparseGet, hv]
  | cons p r ih =>
    intro lo hw
    obtain ⟨k, x⟩ := p
    simp only [sparseWfFrom, Bool.and_eq_true, decide_eq_true_eq] at hw
    by_cases h1 : n < k
    · by_cases hv : v = d
      · have : ¬ n = k := by omega
        simp only [sparsePut, h1, hv, if_true, sparseGet, this, if_false]
        exact low r k hw.2 (by omega)
      · simp [sparsePut, h1, hv, sparseGet]
    · by_cases h2 : n = k
      · subst h2
        by_cases hv : v = d
        · simp only [sparsePut, h1, hv, if_true, if_false]
          exact low r n hw.2 (Nat.le_refl n)
        · simp [sparsePut, hv, sparseGet]
      · simp only [sparsePut, h1, h2, if_false, sparseGet]
        exact ih _ hw.2

theorem sparseGet_put_other {α : Type} [DecidableEq α] (d : α) (m : Sparse α) (n k : Nat) (v : α) (h : k ≠ n) :
    sparseGet d (sparsePut d m n v) k = sparseGet d m k := by
  induction m with
  | nil => by_cases hv : v = d <;> simp [sparsePut, sparseGet, hv, h]
  | cons p r ih =>
    obtain ⟨a, x⟩ := p
    simp only [sparsePut]
    split
    · split <;> simp [sparseGet, h]
    · split
      · next h2 => subst h2; split <;> simp [sparseGet, h]
      · simp only [sparseGet, ih]

theorem sparseWfFrom_put {α : Type} [DecidableEq α] (d : α) (m : Sparse α) (n : Nat) (v : α) :
    ∀ lo, sparseWfFrom d lo m = true → (∀ l, lo = some l → l < n) →
      sparseWfFrom d lo (sparsePut d m n v) = true := by
  induction m with
  | nil =>
    intro lo _ hl
    by_cases hv : v = d
    · simp [sparsePut, hv, sparseWfFrom]
    · cases lo <;> simp_all [sparsePut, sparseWfFrom]
  | cons p r ih =>
    intro lo hw hl
    obtain ⟨k, x⟩ := p
    simp only [sparseWfFrom, Bool.and_eq_true, decide_eq_true_eq] at hw
    simp only [sparsePut]
    split
    · next h1 =>
      split
      · simp [sparseWfFrom, hw]
      · next hv =>
        cases lo <;> simp_all [sparseWfFrom]
    · split
      · next h2 =>
        subst h2
        split
        · cases r with
          | nil => rfl
          | cons q r =>
            obtain ⟨b, y⟩ := q
            cases lo with
            | none => simp_all [sparseWfFrom]
            | some l =>
              have h1 := hw.1.1
              simp only [sparseWfFrom, Bool.and_eq_true, decide_eq_true_eq] at hw ⊢
              exact ⟨⟨by have := hl l rfl; omega, hw.2.1.2⟩, hw.2.2⟩
        · next hv => simp_all [sparseWfFrom]
      · next h1 h2 =>
        simp only [sparseWfFrom, Bool.and_eq_true, decide_eq_true_eq]
        refine ⟨hw.1, ih _ hw.2 ?_⟩
        intro l hlk
        cases hlk
        omega

/-- A write keeps the canonical form. -/
theorem sparseWf_put {α : Type} [DecidableEq α] (d : α) (m : Sparse α) (n : Nat) (v : α) (h : sparseWf d m = true) :
    sparseWf d (sparsePut d m n v) = true :=
  sparseWfFrom_put d m n v none h (by intro l hl; cases hl)

/-! ### Memories -/

theorem memWf_setByte (m : Mem) (a : Nat) (b : Byte) (h : memWf m = true) : memWf (setByte m a b) = true := by
  simp only [memWf, Bool.and_eq_true, setByte] at *
  exact ⟨sparseWf_put _ _ _ _ h.1, h.2⟩

theorem memWf_setTag (m : Mem) (a : Nat) (t : Bool) (h : memWf m = true) : memWf (setTag m a t) = true := by
  simp only [memWf, Bool.and_eq_true, setTag] at *
  exact ⟨h.1, sparseWf_put _ _ _ _ h.2⟩

theorem memWf_putBytes (bs : List Byte) : ∀ (m : Mem) (a : Nat), memWf m = true → memWf (putBytes m a bs) = true := by
  induction bs with
  | nil => intro m a h; exact h
  | cons b r ih => intro m a h; exact ih _ _ (memWf_setByte m a b h)

theorem memWf_clearTags (m : Mem) (a n : Nat) (h : memWf m = true) : memWf (clearTags m a n) = true := by
  induction n with
  | zero => exact h
  | succ n ih => exact memWf_setTag _ _ _ ih

/-- A data write keeps the canonical form. -/
theorem memWf_memWrite (m : Mem) (a : Nat) (bs : List Byte) (h : memWf m = true) : memWf (memWrite m a bs) = true :=
  memWf_clearTags _ _ _ (memWf_putBytes bs m a h)

/-- A capability write keeps the canonical form. -/
theorem memWf_memWriteCap (m : Mem) (a : Nat) (c : Cap) (h : memWf m = true) : memWf (memWriteCap m a c) = true :=
  memWf_setTag _ _ _ (memWf_putBytes _ m a h)

theorem memWf_empty : memWf Mem.empty = true := by decide

theorem memByte_setByte_same (m : Mem) (a : Nat) (b : Byte) (h : memWf m = true) : memByte (setByte m a b) a = b := by
  simp only [memWf, Bool.and_eq_true] at h
  exact sparseGet_put_same _ _ _ _ h.1

theorem memByte_setByte_other (m : Mem) (a k : Nat) (b : Byte) (h : k ≠ a) :
    memByte (setByte m a b) k = memByte m k := sparseGet_put_other _ _ _ _ _ h

@[simp] theorem memByte_setTag (m : Mem) (a k : Nat) (t : Bool) : memByte (setTag m a t) k = memByte m k := rfl

@[simp] theorem memByte_clearTags (m : Mem) (a n k : Nat) : memByte (clearTags m a n) k = memByte m k := by
  induction n with
  | zero => rfl
  | succ n ih => simpa [clearTags] using ih

/-- A write leaves every byte outside it. -/
theorem memByte_putBytes_other (bs : List Byte) : ∀ (m : Mem) (a k : Nat), k < a ∨ a + bs.length ≤ k →
    memByte (putBytes m a bs) k = memByte m k := by
  induction bs with
  | nil => intro m a k _; rfl
  | cons b r ih =>
    intro m a k h
    simp only [List.length_cons] at h
    rw [putBytes, ih _ _ _ (by omega), memByte_setByte_other _ _ _ _ (by omega)]

/-- A byte of a write reads back. -/
theorem memByte_putBytes_in (bs : List Byte) : ∀ (m : Mem) (a k : Nat), memWf m = true → a ≤ k → k < a + bs.length →
    memByte (putBytes m a bs) k = bs.getD (k - a) 0 := by
  induction bs with
  | nil => intro m a k _ h1 h2; simp only [List.length_nil] at h2; omega
  | cons b r ih =>
    intro m a k hw h1 h2
    simp only [List.length_cons] at h2
    rw [putBytes]
    by_cases h : k = a
    · subst h
      rw [memByte_putBytes_other _ _ _ _ (by omega), memByte_setByte_same _ _ _ hw]
      simp
    · rw [ih _ _ _ (memWf_setByte _ _ _ hw) (by omega) (by omega)]
      obtain ⟨j, hj⟩ : ∃ j, k - a = j + 1 := ⟨k - a - 1, by omega⟩
      rw [hj, show k - (a + 1) = j by omega]
      rfl

theorem memByte_memWrite_other (m : Mem) (a k : Nat) (bs : List Byte) (h : k < a ∨ a + bs.length ≤ k) :
    memByte (memWrite m a bs) k = memByte m k := by
  rw [memWrite, memByte_clearTags, memByte_putBytes_other _ _ _ _ h]

theorem memByte_memWrite_in (m : Mem) (a k : Nat) (bs : List Byte) (hw : memWf m = true) (h1 : a ≤ k)
    (h2 : k < a + bs.length) : memByte (memWrite m a bs) k = bs.getD (k - a) 0 := by
  rw [memWrite, memByte_clearTags, memByte_putBytes_in _ _ _ _ hw h1 h2]

/-! ### The memories of the machine -/

theorem memoriesWf_setLocMem (s : State) (l : Loc) (m : Mem) (h : memoriesWf s = true) (hm : memWf m = true) :
    memoriesWf (setLocMem s l m) = true := by
  simp only [memoriesWf, Bool.and_eq_true] at *
  cases l with
  | sram a => exact ⟨⟨h.1.1, hm⟩, h.2⟩
  | hbm a => exact ⟨⟨hm, h.1.2⟩, h.2⟩

theorem memWf_locMem (s : State) (l : Loc) (h : memoriesWf s = true) : memWf (locMem s l) = true := by
  simp only [memoriesWf, Bool.and_eq_true] at h
  cases l
  · exact h.1.2
  · exact h.1.1

@[simp] theorem locMem_rewriteCheck (s : State) (l k : Loc) (n : Nat) :
    locMem (rewriteCheck s l n) k = locMem s k := by cases l <;> cases k <;> rfl

@[simp] theorem memoriesWf_rewriteCheck (s : State) (l : Loc) (n : Nat) :
    memoriesWf (rewriteCheck s l n) = memoriesWf s := by cases l <;> rfl

theorem memoriesWf_writeLoc (s : State) (l : Loc) (bs : List Byte) (h : memoriesWf s = true) :
    memoriesWf (writeLoc s l bs) = true := by
  rw [writeLoc, memoriesWf_rewriteCheck]
  exact memoriesWf_setLocMem s l _ h (memWf_memWrite _ _ _ (memWf_locMem s l h))

theorem memoriesWf_writeCapLoc (s : State) (l : Loc) (c : Cap) (h : memoriesWf s = true) :
    memoriesWf (writeCapLoc s l c) = true := by
  rw [writeCapLoc, memoriesWf_rewriteCheck]
  exact memoriesWf_setLocMem s l _ h (memWf_memWriteCap _ _ _ (memWf_locMem s l h))

theorem memoriesWf_sramWrite (s : State) (off : Nat) (bs : List Byte) (h : memoriesWf s = true) :
    memoriesWf (sramWrite s off bs) = true := memoriesWf_writeLoc s _ bs h

/-- What the canonical form is about: the three places that hold memories. -/
theorem memoriesWf_congr (s u : State) (h1 : u.home.mem = s.home.mem) (h2 : u.cx.sram = s.cx.sram)
    (h3 : u.others = s.others) : memoriesWf u = memoriesWf s := by
  simp [memoriesWf, h1, h2, h3]

@[simp] theorem memoriesWf_setSlot (s : State) (k : Nat) (x : Slot) : memoriesWf (setSlot s k x) = memoriesWf s :=
  memoriesWf_congr _ _ rfl rfl rfl
@[simp] theorem memoriesWf_putTask (s : State) (k : Nat) (t : Task) : memoriesWf (putTask s k t) = memoriesWf s :=
  memoriesWf_congr _ _ rfl rfl rfl
@[simp] theorem memoriesWf_emit (s : State) (p : Packet) : memoriesWf (emit s p) = memoriesWf s :=
  memoriesWf_congr _ _ rfl rfl rfl
@[simp] theorem memoriesWf_queueEvent (s : State) (i : Instr) : memoriesWf (queueEvent s i) = memoriesWf s :=
  memoriesWf_congr _ _ rfl rfl rfl
theorem memoriesWf_countCorr (s : State) : memoriesWf (countCorr s) = memoriesWf s := by
  simp only [memoriesWf, countCorr]
theorem memoriesWf_countUncorr (s : State) : memoriesWf (countUncorr s) = memoriesWf s := by
  simp only [memoriesWf, countUncorr]
@[simp] theorem memoriesWf_setErrors (s : State) (k : Nat) (e : BitVec 288) :
    memoriesWf (setErrors s k e) = memoriesWf s := memoriesWf_congr _ _ rfl rfl rfl
@[simp] theorem memoriesWf_putSlice (s : State) (n : Nat) (x : Slice) : memoriesWf (putSlice s n x) = memoriesWf s :=
  memoriesWf_congr _ _ rfl rfl rfl
@[simp] theorem memoriesWf_keepLine (s : State) (x : SliceLine) : memoriesWf (keepLine s x) = memoriesWf s :=
  memoriesWf_putSlice _ _ _

end Sys2Proof.Machine
end

