-- ==== Sys2Proof/Laws/State.lean ====
section
/-! SUPPORT. One lemma per field of each update of the machine and of a task, so that no proof unfolds a record update. -/
namespace Sys2Proof.Machine

/-! ### Updates and the fields they leave -/

@[simp] theorem setSlot_pkg (s : State) (k : Nat) (x : Slot) :
    (setSlot s k x).pkg = s.pkg := rfl
@[simp] theorem setSlot_core (s : State) (k : Nat) (x : Slot) :
    (setSlot s k x).core = s.core := rfl
@[simp] theorem setSlot_members (s : State) (k : Nat) (x : Slot) :
    (setSlot s k x).members = s.members := rfl
@[simp] theorem setSlot_outOfService (s : State) (k : Nat) (x : Slot) :
    (setSlot s k x).outOfService = s.outOfService := rfl
@[simp] theorem setSlot_farOut (s : State) (k : Nat) (x : Slot) :
    (setSlot s k x).farOut = s.farOut := rfl
@[simp] theorem setSlot_cur (s : State) (k : Nat) (x : Slot) :
    (setSlot s k x).cur = s.cur := rfl
@[simp] theorem setSlot_hold (s : State) (k : Nat) (x : Slot) :
    (setSlot s k x).hold = s.hold := rfl
@[simp] theorem setSlot_lastA (s : State) (k : Nat) (x : Slot) :
    (setSlot s k x).lastA = s.lastA := rfl
@[simp] theorem setSlot_lastE (s : State) (k : Nat) (x : Slot) :
    (setSlot s k x).lastE = s.lastE := rfl
@[simp] theorem setSlot_cx (s : State) (k : Nat) (x : Slot) :
    (setSlot s k x).cx = s.cx := rfl
@[simp] theorem setSlot_others (s : State) (k : Nat) (x : Slot) :
    (setSlot s k x).others = s.others := rfl
@[simp] theorem setSlot_regs (s : State) (k : Nat) (x : Slot) :
    (setSlot s k x).regs = s.regs := rfl
@[simp] theorem setSlot_sb (s : State) (k : Nat) (x : Slot) :
    (setSlot s k x).sb = s.sb := rfl
@[simp] theorem setSlot_copies (s : State) (k : Nat) (x : Slot) :
    (setSlot s k x).copies = s.copies := rfl
@[simp] theorem setSlot_mxQueue (s : State) (k : Nat) (x : Slot) :
    (setSlot s k x).mxQueue = s.mxQueue := rfl
@[simp] theorem setSlot_mxRun (s : State) (k : Nat) (x : Slot) :
    (setSlot s k x).mxRun = s.mxRun := rfl
@[simp] theorem setSlot_mxPushed (s : State) (k : Nat) (x : Slot) :
    (setSlot s k x).mxPushed = s.mxPushed := rfl
@[simp] theorem setSlot_lateCrws (s : State) (k : Nat) (x : Slot) :
    (setSlot s k x).lateCrws = s.lateCrws := rfl
@[simp] theorem setSlot_sendQueue (s : State) (k : Nat) (x : Slot) :
    (setSlot s k x).sendQueue = s.sendQueue := rfl
@[simp] theorem setSlot_sending (s : State) (k : Nat) (x : Slot) :
    (setSlot s k x).sending = s.sending := rfl
@[simp] theorem setSlot_flitNext (s : State) (k : Nat) (x : Slot) :
    (setSlot s k x).flitNext = s.flitNext := rfl
@[simp] theorem setSlot_flitRefused (s : State) (k : Nat) (x : Slot) :
    (setSlot s k x).flitRefused = s.flitRefused := rfl
@[simp] theorem setSlot_watches (s : State) (k : Nat) (x : Slot) :
    (setSlot s k x).watches = s.watches := rfl
@[simp] theorem setSlot_packetNext (s : State) (k : Nat) (x : Slot) :
    (setSlot s k x).packetNext = s.packetNext := rfl
@[simp] theorem setSlot_packetSent (s : State) (k : Nat) (x : Slot) :
    (setSlot s k x).packetSent = s.packetSent := rfl
@[simp] theorem setSlot_poolPeers (s : State) (k : Nat) (x : Slot) :
    (setSlot s k x).poolPeers = s.poolPeers := rfl
@[simp] theorem setSlot_placed (s : State) (k : Nat) (x : Slot) :
    (setSlot s k x).placed = s.placed := rfl
@[simp] theorem setSlot_permits (s : State) (k : Nat) (x : Slot) :
    (setSlot s k x).permits = s.permits := rfl
@[simp] theorem setSlot_lines (s : State) (k : Nat) (x : Slot) :
    (setSlot s k x).lines = s.lines := rfl
@[simp] theorem setSlot_fetchLines (s : State) (k : Nat) (x : Slot) :
    (setSlot s k x).fetchLines = s.fetchLines := rfl
@[simp] theorem setSlot_filter (s : State) (k : Nat) (x : Slot) :
    (setSlot s k x).filter = s.filter := rfl
@[simp] theorem setSlot_pending (s : State) (k : Nat) (x : Slot) :
    (setSlot s k x).pending = s.pending := rfl
@[simp] theorem setSlot_ovf (s : State) (k : Nat) (x : Slot) :
    (setSlot s k x).ovf = s.ovf := rfl
@[simp] theorem setSlot_sweep (s : State) (k : Nat) (x : Slot) :
    (setSlot s k x).sweep = s.sweep := rfl
@[simp] theorem setSlot_sweepBy (s : State) (k : Nat) (x : Slot) :
    (setSlot s k x).sweepBy = s.sweepBy := rfl
@[simp] theorem setSlot_sweepCtx (s : State) (k : Nat) (x : Slot) :
    (setSlot s k x).sweepCtx = s.sweepCtx := rfl
@[simp] theorem setSlot_tableOp (s : State) (k : Nat) (x : Slot) :
    (setSlot s k x).tableOp = s.tableOp := rfl
@[simp] theorem setSlot_home (s : State) (k : Nat) (x : Slot) :
    (setSlot s k x).home = s.home := rfl
@[simp] theorem setSlot_pk (s : State) (k : Nat) (x : Slot) :
    (setSlot s k x).pk = s.pk := rfl
@[simp] theorem setSlot_switchReq (s : State) (k : Nat) (x : Slot) :
    (setSlot s k x).switchReq = s.switchReq := rfl
@[simp] theorem setSlot_inputs (s : State) (k : Nat) (x : Slot) :
    (setSlot s k x).inputs = s.inputs := rfl
@[simp] theorem setSlot_access (s : State) (k : Nat) (x : Slot) :
    (setSlot s k x).access = s.access := rfl
@[simp] theorem setSlot_outbox (s : State) (k : Nat) (x : Slot) :
    (setSlot s k x).outbox = s.outbox := rfl
@[simp] theorem setSlot_nextId (s : State) (k : Nat) (x : Slot) :
    (setSlot s k x).nextId = s.nextId := rfl
@[simp] theorem setSlot_turn (s : State) (k : Nat) (x : Slot) :
    (setSlot s k x).turn = s.turn := rfl
@[simp] theorem setSlot_fresh (s : State) (k : Nat) (x : Slot) :
    (setSlot s k x).fresh = s.fresh := rfl
@[simp] theorem putTask_pkg (s : State) (k : Nat) (t : Task) :
    (putTask s k t).pkg = s.pkg := rfl
@[simp] theorem putTask_core (s : State) (k : Nat) (t : Task) :
    (putTask s k t).core = s.core := rfl
@[simp] theorem putTask_members (s : State) (k : Nat) (t : Task) :
    (putTask s k t).members = s.members := rfl
@[simp] theorem putTask_outOfService (s : State) (k : Nat) (t : Task) :
    (putTask s k t).outOfService = s.outOfService := rfl
@[simp] theorem putTask_farOut (s : State) (k : Nat) (t : Task) :
    (putTask s k t).farOut = s.farOut := rfl
@[simp] theorem putTask_cur (s : State) (k : Nat) (t : Task) :
    (putTask s k t).cur = s.cur := rfl
@[simp] theorem putTask_hold (s : State) (k : Nat) (t : Task) :
    (putTask s k t).hold = s.hold := rfl
@[simp] theorem putTask_lastA (s : State) (k : Nat) (t : Task) :
    (putTask s k t).lastA = s.lastA := rfl
@[simp] theorem putTask_lastE (s : State) (k : Nat) (t : Task) :
    (putTask s k t).lastE = s.lastE := rfl
@[simp] theorem putTask_cx (s : State) (k : Nat) (t : Task) :
    (putTask s k t).cx = s.cx := rfl
@[simp] theorem putTask_others (s : State) (k : Nat) (t : Task) :
    (putTask s k t).others = s.others := rfl
@[simp] theorem putTask_regs (s : State) (k : Nat) (t : Task) :
    (putTask s k t).regs = s.regs := rfl
@[simp] theorem putTask_sb (s : State) (k : Nat) (t : Task) :
    (putTask s k t).sb = s.sb := rfl
@[simp] theorem putTask_copies (s : State) (k : Nat) (t : Task) :
    (putTask s k t).copies = s.copies := rfl
@[simp] theorem putTask_mxQueue (s : State) (k : Nat) (t : Task) :
    (putTask s k t).mxQueue = s.mxQueue := rfl
@[simp] theorem putTask_mxRun (s : State) (k : Nat) (t : Task) :
    (putTask s k t).mxRun = s.mxRun := rfl
@[simp] theorem putTask_mxPushed (s : State) (k : Nat) (t : Task) :
    (putTask s k t).mxPushed = s.mxPushed := rfl
@[simp] theorem putTask_lateCrws (s : State) (k : Nat) (t : Task) :
    (putTask s k t).lateCrws = s.lateCrws := rfl
@[simp] theorem putTask_sendQueue (s : State) (k : Nat) (t : Task) :
    (putTask s k t).sendQueue = s.sendQueue := rfl
@[simp] theorem putTask_sending (s : State) (k : Nat) (t : Task) :
    (putTask s k t).sending = s.sending := rfl
@[simp] theorem putTask_flitNext (s : State) (k : Nat) (t : Task) :
    (putTask s k t).flitNext = s.flitNext := rfl
@[simp] theorem putTask_flitRefused (s : State) (k : Nat) (t : Task) :
    (putTask s k t).flitRefused = s.flitRefused := rfl
@[simp] theorem putTask_watches (s : State) (k : Nat) (t : Task) :
    (putTask s k t).watches = s.watches := rfl
@[simp] theorem putTask_packetNext (s : State) (k : Nat) (t : Task) :
    (putTask s k t).packetNext = s.packetNext := rfl
@[simp] theorem putTask_packetSent (s : State) (k : Nat) (t : Task) :
    (putTask s k t).packetSent = s.packetSent := rfl
@[simp] theorem putTask_poolPeers (s : State) (k : Nat) (t : Task) :
    (putTask s k t).poolPeers = s.poolPeers := rfl
@[simp] theorem putTask_placed (s : State) (k : Nat) (t : Task) :
    (putTask s k t).placed = s.placed := rfl
@[simp] theorem putTask_permits (s : State) (k : Nat) (t : Task) :
    (putTask s k t).permits = s.permits := rfl
@[simp] theorem putTask_lines (s : State) (k : Nat) (t : Task) :
    (putTask s k t).lines = s.lines := rfl
@[simp] theorem putTask_fetchLines (s : State) (k : Nat) (t : Task) :
    (putTask s k t).fetchLines = s.fetchLines := rfl
@[simp] theorem putTask_filter (s : State) (k : Nat) (t : Task) :
    (putTask s k t).filter = s.filter := rfl
@[simp] theorem putTask_pending (s : State) (k : Nat) (t : Task) :
    (putTask s k t).pending = s.pending := rfl
@[simp] theorem putTask_ovf (s : State) (k : Nat) (t : Task) :
    (putTask s k t).ovf = s.ovf := rfl
@[simp] theorem putTask_sweep (s : State) (k : Nat) (t : Task) :
    (putTask s k t).sweep = s.sweep := rfl
@[simp] theorem putTask_sweepBy (s : State) (k : Nat) (t : Task) :
    (putTask s k t).sweepBy = s.sweepBy := rfl
@[simp] theorem putTask_sweepCtx (s : State) (k : Nat) (t : Task) :
    (putTask s k t).sweepCtx = s.sweepCtx := rfl
@[simp] theorem putTask_tableOp (s : State) (k : Nat) (t : Task) :
    (putTask s k t).tableOp = s.tableOp := rfl
@[simp] theorem putTask_home (s : State) (k : Nat) (t : Task) :
    (putTask s k t).home = s.home := rfl
@[simp] theorem putTask_pk (s : State) (k : Nat) (t : Task) :
    (putTask s k t).pk = s.pk := rfl
@[simp] theorem putTask_switchReq (s : State) (k : Nat) (t : Task) :
    (putTask s k t).switchReq = s.switchReq := rfl
@[simp] theorem putTask_inputs (s : State) (k : Nat) (t : Task) :
    (putTask s k t).inputs = s.inputs := rfl
@[simp] theorem putTask_access (s : State) (k : Nat) (t : Task) :
    (putTask s k t).access = s.access := rfl
@[simp] theorem putTask_outbox (s : State) (k : Nat) (t : Task) :
    (putTask s k t).outbox = s.outbox := rfl
@[simp] theorem putTask_nextId (s : State) (k : Nat) (t : Task) :
    (putTask s k t).nextId = s.nextId := rfl
@[simp] theorem putTask_turn (s : State) (k : Nat) (t : Task) :
    (putTask s k t).turn = s.turn := rfl
@[simp] theorem putTask_fresh (s : State) (k : Nat) (t : Task) :
    (putTask s k t).fresh = s.fresh := rfl
@[simp] theorem emit_pkg (s : State) (p : Packet) :
    (emit s p).pkg = s.pkg := rfl
@[simp] theorem emit_core (s : State) (p : Packet) :
    (emit s p).core = s.core := rfl
@[simp] theorem emit_members (s : State) (p : Packet) :
    (emit s p).members = s.members := rfl
@[simp] theorem emit_outOfService (s : State) (p : Packet) :
    (emit s p).outOfService = s.outOfService := rfl
@[simp] theorem emit_farOut (s : State) (p : Packet) :
    (emit s p).farOut = s.farOut := rfl
@[simp] theorem emit_slots (s : State) (p : Packet) :
    (emit s p).slots = s.slots := rfl
@[simp] theorem emit_cur (s : State) (p : Packet) :
    (emit s p).cur = s.cur := rfl
@[simp] theorem emit_hold (s : State) (p : Packet) :
    (emit s p).hold = s.hold := rfl
@[simp] theorem emit_lastA (s : State) (p : Packet) :
    (emit s p).lastA = s.lastA := rfl
@[simp] theorem emit_lastE (s : State) (p : Packet) :
    (emit s p).lastE = s.lastE := rfl
@[simp] theorem emit_cx (s : State) (p : Packet) :
    (emit s p).cx = s.cx := rfl
@[simp] theorem emit_others (s : State) (p : Packet) :
    (emit s p).others = s.others := rfl
@[simp] theorem emit_regs (s : State) (p : Packet) :
    (emit s p).regs = s.regs := rfl
@[simp] theorem emit_sb (s : State) (p : Packet) :
    (emit s p).sb = s.sb := rfl
@[simp] theorem emit_copies (s : State) (p : Packet) :
    (emit s p).copies = s.copies := rfl
@[simp] theorem emit_mxQueue (s : State) (p : Packet) :
    (emit s p).mxQueue = s.mxQueue := rfl
@[simp] theorem emit_mxRun (s : State) (p : Packet) :
    (emit s p).mxRun = s.mxRun := rfl
@[simp] theorem emit_mxPushed (s : State) (p : Packet) :
    (emit s p).mxPushed = s.mxPushed := rfl
@[simp] theorem emit_lateCrws (s : State) (p : Packet) :
    (emit s p).lateCrws = s.lateCrws := rfl
@[simp] theorem emit_sendQueue (s : State) (p : Packet) :
    (emit s p).sendQueue = s.sendQueue := rfl
@[simp] theorem emit_sending (s : State) (p : Packet) :
    (emit s p).sending = s.sending := rfl
@[simp] theorem emit_flitNext (s : State) (p : Packet) :
    (emit s p).flitNext = s.flitNext := rfl
@[simp] theorem emit_flitRefused (s : State) (p : Packet) :
    (emit s p).flitRefused = s.flitRefused := rfl
@[simp] theorem emit_watches (s : State) (p : Packet) :
    (emit s p).watches = s.watches := rfl
@[simp] theorem emit_packetNext (s : State) (p : Packet) :
    (emit s p).packetNext = s.packetNext := rfl
@[simp] theorem emit_packetSent (s : State) (p : Packet) :
    (emit s p).packetSent = s.packetSent := rfl
@[simp] theorem emit_poolPeers (s : State) (p : Packet) :
    (emit s p).poolPeers = s.poolPeers := rfl
@[simp] theorem emit_placed (s : State) (p : Packet) :
    (emit s p).placed = s.placed := rfl
@[simp] theorem emit_permits (s : State) (p : Packet) :
    (emit s p).permits = s.permits := rfl
@[simp] theorem emit_lines (s : State) (p : Packet) :
    (emit s p).lines = s.lines := rfl
@[simp] theorem emit_fetchLines (s : State) (p : Packet) :
    (emit s p).fetchLines = s.fetchLines := rfl
@[simp] theorem emit_filter (s : State) (p : Packet) :
    (emit s p).filter = s.filter := rfl
@[simp] theorem emit_pending (s : State) (p : Packet) :
    (emit s p).pending = s.pending := rfl
@[simp] theorem emit_ovf (s : State) (p : Packet) :
    (emit s p).ovf = s.ovf := rfl
@[simp] theorem emit_sweep (s : State) (p : Packet) :
    (emit s p).sweep = s.sweep := rfl
@[simp] theorem emit_sweepBy (s : State) (p : Packet) :
    (emit s p).sweepBy = s.sweepBy := rfl
@[simp] theorem emit_sweepCtx (s : State) (p : Packet) :
    (emit s p).sweepCtx = s.sweepCtx := rfl
@[simp] theorem emit_tableOp (s : State) (p : Packet) :
    (emit s p).tableOp = s.tableOp := rfl
@[simp] theorem emit_home (s : State) (p : Packet) :
    (emit s p).home = s.home := rfl
@[simp] theorem emit_pk (s : State) (p : Packet) :
    (emit s p).pk = s.pk := rfl
@[simp] theorem emit_switchReq (s : State) (p : Packet) :
    (emit s p).switchReq = s.switchReq := rfl
@[simp] theorem emit_inputs (s : State) (p : Packet) :
    (emit s p).inputs = s.inputs := rfl
@[simp] theorem emit_access (s : State) (p : Packet) :
    (emit s p).access = s.access := rfl
@[simp] theorem emit_nextId (s : State) (p : Packet) :
    (emit s p).nextId = s.nextId := rfl
@[simp] theorem emit_turn (s : State) (p : Packet) :
    (emit s p).turn = s.turn := rfl
@[simp] theorem emit_fresh (s : State) (p : Packet) :
    (emit s p).fresh = s.fresh := rfl
@[simp] theorem queueEvent_pkg (s : State) (i : Instr) :
    (queueEvent s i).pkg = s.pkg := rfl
@[simp] theorem queueEvent_core (s : State) (i : Instr) :
    (queueEvent s i).core = s.core := rfl
@[simp] theorem queueEvent_members (s : State) (i : Instr) :
    (queueEvent s i).members = s.members := rfl
@[simp] theorem queueEvent_outOfService (s : State) (i : Instr) :
    (queueEvent s i).outOfService = s.outOfService := rfl
@[simp] theorem queueEvent_farOut (s : State) (i : Instr) :
    (queueEvent s i).farOut = s.farOut := rfl
@[simp] theorem queueEvent_slots (s : State) (i : Instr) :
    (queueEvent s i).slots = s.slots := rfl
@[simp] theorem queueEvent_cur (s : State) (i : Instr) :
    (queueEvent s i).cur = s.cur := rfl
@[simp] theorem queueEvent_hold (s : State) (i : Instr) :
    (queueEvent s i).hold = s.hold := rfl
@[simp] theorem queueEvent_lastA (s : State) (i : Instr) :
    (queueEvent s i).lastA = s.lastA := rfl
@[simp] theorem queueEvent_lastE (s : State) (i : Instr) :
    (queueEvent s i).lastE = s.lastE := rfl
@[simp] theorem queueEvent_cx (s : State) (i : Instr) :
    (queueEvent s i).cx = s.cx := rfl
@[simp] theorem queueEvent_others (s : State) (i : Instr) :
    (queueEvent s i).others = s.others := rfl
@[simp] theorem queueEvent_regs (s : State) (i : Instr) :
    (queueEvent s i).regs = s.regs := rfl
@[simp] theorem queueEvent_sb (s : State) (i : Instr) :
    (queueEvent s i).sb = s.sb := rfl
@[simp] theorem queueEvent_copies (s : State) (i : Instr) :
    (queueEvent s i).copies = s.copies := rfl
@[simp] theorem queueEvent_mxQueue (s : State) (i : Instr) :
    (queueEvent s i).mxQueue = s.mxQueue := rfl
@[simp] theorem queueEvent_mxRun (s : State) (i : Instr) :
    (queueEvent s i).mxRun = s.mxRun := rfl
@[simp] theorem queueEvent_mxPushed (s : State) (i : Instr) :
    (queueEvent s i).mxPushed = s.mxPushed := rfl
@[simp] theorem queueEvent_lateCrws (s : State) (i : Instr) :
    (queueEvent s i).lateCrws = s.lateCrws := rfl
@[simp] theorem queueEvent_sendQueue (s : State) (i : Instr) :
    (queueEvent s i).sendQueue = s.sendQueue := rfl
@[simp] theorem queueEvent_sending (s : State) (i : Instr) :
    (queueEvent s i).sending = s.sending := rfl
@[simp] theorem queueEvent_flitNext (s : State) (i : Instr) :
    (queueEvent s i).flitNext = s.flitNext := rfl
@[simp] theorem queueEvent_flitRefused (s : State) (i : Instr) :
    (queueEvent s i).flitRefused = s.flitRefused := rfl
@[simp] theorem queueEvent_watches (s : State) (i : Instr) :
    (queueEvent s i).watches = s.watches := rfl
@[simp] theorem queueEvent_packetNext (s : State) (i : Instr) :
    (queueEvent s i).packetNext = s.packetNext := rfl
@[simp] theorem queueEvent_packetSent (s : State) (i : Instr) :
    (queueEvent s i).packetSent = s.packetSent := rfl
@[simp] theorem queueEvent_poolPeers (s : State) (i : Instr) :
    (queueEvent s i).poolPeers = s.poolPeers := rfl
@[simp] theorem queueEvent_placed (s : State) (i : Instr) :
    (queueEvent s i).placed = s.placed := rfl
@[simp] theorem queueEvent_permits (s : State) (i : Instr) :
    (queueEvent s i).permits = s.permits := rfl
@[simp] theorem queueEvent_lines (s : State) (i : Instr) :
    (queueEvent s i).lines = s.lines := rfl
@[simp] theorem queueEvent_fetchLines (s : State) (i : Instr) :
    (queueEvent s i).fetchLines = s.fetchLines := rfl
@[simp] theorem queueEvent_filter (s : State) (i : Instr) :
    (queueEvent s i).filter = s.filter := rfl
@[simp] theorem queueEvent_pending (s : State) (i : Instr) :
    (queueEvent s i).pending = s.pending := rfl
@[simp] theorem queueEvent_ovf (s : State) (i : Instr) :
    (queueEvent s i).ovf = s.ovf := rfl
@[simp] theorem queueEvent_sweep (s : State) (i : Instr) :
    (queueEvent s i).sweep = s.sweep := rfl
@[simp] theorem queueEvent_sweepBy (s : State) (i : Instr) :
    (queueEvent s i).sweepBy = s.sweepBy := rfl
@[simp] theorem queueEvent_sweepCtx (s : State) (i : Instr) :
    (queueEvent s i).sweepCtx = s.sweepCtx := rfl
@[simp] theorem queueEvent_tableOp (s : State) (i : Instr) :
    (queueEvent s i).tableOp = s.tableOp := rfl
@[simp] theorem queueEvent_home (s : State) (i : Instr) :
    (queueEvent s i).home = s.home := rfl
@[simp] theorem queueEvent_pk (s : State) (i : Instr) :
    (queueEvent s i).pk = s.pk := rfl
@[simp] theorem queueEvent_switchReq (s : State) (i : Instr) :
    (queueEvent s i).switchReq = s.switchReq := rfl
@[simp] theorem queueEvent_access (s : State) (i : Instr) :
    (queueEvent s i).access = s.access := rfl
@[simp] theorem queueEvent_outbox (s : State) (i : Instr) :
    (queueEvent s i).outbox = s.outbox := rfl
@[simp] theorem queueEvent_nextId (s : State) (i : Instr) :
    (queueEvent s i).nextId = s.nextId := rfl
@[simp] theorem queueEvent_turn (s : State) (i : Instr) :
    (queueEvent s i).turn = s.turn := rfl
@[simp] theorem queueEvent_fresh (s : State) (i : Instr) :
    (queueEvent s i).fresh = s.fresh := rfl
@[simp] theorem setLocMem_pkg (s : State) (l : Loc) (m : Mem) :
    (setLocMem s l m).pkg = s.pkg := by cases l <;> rfl
@[simp] theorem setLocMem_core (s : State) (l : Loc) (m : Mem) :
    (setLocMem s l m).core = s.core := by cases l <;> rfl
@[simp] theorem setLocMem_members (s : State) (l : Loc) (m : Mem) :
    (setLocMem s l m).members = s.members := by cases l <;> rfl
@[simp] theorem setLocMem_outOfService (s : State) (l : Loc) (m : Mem) :
    (setLocMem s l m).outOfService = s.outOfService := by cases l <;> rfl
@[simp] theorem setLocMem_farOut (s : State) (l : Loc) (m : Mem) :
    (setLocMem s l m).farOut = s.farOut := by cases l <;> rfl
@[simp] theorem setLocMem_slots (s : State) (l : Loc) (m : Mem) :
    (setLocMem s l m).slots = s.slots := by cases l <;> rfl
@[simp] theorem setLocMem_cur (s : State) (l : Loc) (m : Mem) :
    (setLocMem s l m).cur = s.cur := by cases l <;> rfl
@[simp] theorem setLocMem_hold (s : State) (l : Loc) (m : Mem) :
    (setLocMem s l m).hold = s.hold := by cases l <;> rfl
@[simp] theorem setLocMem_lastA (s : State) (l : Loc) (m : Mem) :
    (setLocMem s l m).lastA = s.lastA := by cases l <;> rfl
@[simp] theorem setLocMem_lastE (s : State) (l : Loc) (m : Mem) :
    (setLocMem s l m).lastE = s.lastE := by cases l <;> rfl
@[simp] theorem setLocMem_others (s : State) (l : Loc) (m : Mem) :
    (setLocMem s l m).others = s.others := by cases l <;> rfl
@[simp] theorem setLocMem_regs (s : State) (l : Loc) (m : Mem) :
    (setLocMem s l m).regs = s.regs := by cases l <;> rfl
@[simp] theorem setLocMem_sb (s : State) (l : Loc) (m : Mem) :
    (setLocMem s l m).sb = s.sb := by cases l <;> rfl
@[simp] theorem setLocMem_copies (s : State) (l : Loc) (m : Mem) :
    (setLocMem s l m).copies = s.copies := by cases l <;> rfl
@[simp] theorem setLocMem_mxQueue (s : State) (l : Loc) (m : Mem) :
    (setLocMem s l m).mxQueue = s.mxQueue := by cases l <;> rfl
@[simp] theorem setLocMem_mxRun (s : State) (l : Loc) (m : Mem) :
    (setLocMem s l m).mxRun = s.mxRun := by cases l <;> rfl
@[simp] theorem setLocMem_mxPushed (s : State) (l : Loc) (m : Mem) :
    (setLocMem s l m).mxPushed = s.mxPushed := by cases l <;> rfl
@[simp] theorem setLocMem_lateCrws (s : State) (l : Loc) (m : Mem) :
    (setLocMem s l m).lateCrws = s.lateCrws := by cases l <;> rfl
@[simp] theorem setLocMem_sendQueue (s : State) (l : Loc) (m : Mem) :
    (setLocMem s l m).sendQueue = s.sendQueue := by cases l <;> rfl
@[simp] theorem setLocMem_sending (s : State) (l : Loc) (m : Mem) :
    (setLocMem s l m).sending = s.sending := by cases l <;> rfl
@[simp] theorem setLocMem_flitNext (s : State) (l : Loc) (m : Mem) :
    (setLocMem s l m).flitNext = s.flitNext := by cases l <;> rfl
@[simp] theorem setLocMem_flitRefused (s : State) (l : Loc) (m : Mem) :
    (setLocMem s l m).flitRefused = s.flitRefused := by cases l <;> rfl
@[simp] theorem setLocMem_watches (s : State) (l : Loc) (m : Mem) :
    (setLocMem s l m).watches = s.watches := by cases l <;> rfl
@[simp] theorem setLocMem_packetNext (s : State) (l : Loc) (m : Mem) :
    (setLocMem s l m).packetNext = s.packetNext := by cases l <;> rfl
@[simp] theorem setLocMem_packetSent (s : State) (l : Loc) (m : Mem) :
    (setLocMem s l m).packetSent = s.packetSent := by cases l <;> rfl
@[simp] theorem setLocMem_poolPeers (s : State) (l : Loc) (m : Mem) :
    (setLocMem s l m).poolPeers = s.poolPeers := by cases l <;> rfl
@[simp] theorem setLocMem_placed (s : State) (l : Loc) (m : Mem) :
    (setLocMem s l m).placed = s.placed := by cases l <;> rfl
@[simp] theorem setLocMem_permits (s : State) (l : Loc) (m : Mem) :
    (setLocMem s l m).permits = s.permits := by cases l <;> rfl
@[simp] theorem setLocMem_lines (s : State) (l : Loc) (m : Mem) :
    (setLocMem s l m).lines = s.lines := by cases l <;> rfl
@[simp] theorem setLocMem_fetchLines (s : State) (l : Loc) (m : Mem) :
    (setLocMem s l m).fetchLines = s.fetchLines := by cases l <;> rfl
@[simp] theorem setLocMem_filter (s : State) (l : Loc) (m : Mem) :
    (setLocMem s l m).filter = s.filter := by cases l <;> rfl
@[simp] theorem setLocMem_pending (s : State) (l : Loc) (m : Mem) :
    (setLocMem s l m).pending = s.pending := by cases l <;> rfl
@[simp] theorem setLocMem_ovf (s : State) (l : Loc) (m : Mem) :
    (setLocMem s l m).ovf = s.ovf := by cases l <;> rfl
@[simp] theorem setLocMem_sweep (s : State) (l : Loc) (m : Mem) :
    (setLocMem s l m).sweep = s.sweep := by cases l <;> rfl
@[simp] theorem setLocMem_sweepBy (s : State) (l : Loc) (m : Mem) :
    (setLocMem s l m).sweepBy = s.sweepBy := by cases l <;> rfl
@[simp] theorem setLocMem_sweepCtx (s : State) (l : Loc) (m : Mem) :
    (setLocMem s l m).sweepCtx = s.sweepCtx := by cases l <;> rfl
@[simp] theorem setLocMem_tableOp (s : State) (l : Loc) (m : Mem) :
    (setLocMem s l m).tableOp = s.tableOp := by cases l <;> rfl
@[simp] theorem setLocMem_pk (s : State) (l : Loc) (m : Mem) :
    (setLocMem s l m).pk = s.pk := by cases l <;> rfl
@[simp] theorem setLocMem_switchReq (s : State) (l : Loc) (m : Mem) :
    (setLocMem s l m).switchReq = s.switchReq := by cases l <;> rfl
@[simp] theorem setLocMem_inputs (s : State) (l : Loc) (m : Mem) :
    (setLocMem s l m).inputs = s.inputs := by cases l <;> rfl
@[simp] theorem setLocMem_access (s : State) (l : Loc) (m : Mem) :
    (setLocMem s l m).access = s.access := by cases l <;> rfl
@[simp] theorem setLocMem_outbox (s : State) (l : Loc) (m : Mem) :
    (setLocMem s l m).outbox = s.outbox := by cases l <;> rfl
@[simp] theorem setLocMem_nextId (s : State) (l : Loc) (m : Mem) :
    (setLocMem s l m).nextId = s.nextId := by cases l <;> rfl
@[simp] theorem setLocMem_turn (s : State) (l : Loc) (m : Mem) :
    (setLocMem s l m).turn = s.turn := by cases l <;> rfl
@[simp] theorem setLocMem_fresh (s : State) (l : Loc) (m : Mem) :
    (setLocMem s l m).fresh = s.fresh := by cases l <;> rfl
@[simp] theorem setStream_tid (t : Task) (st : Stream) (x : StreamSt) :
    (setStream t st x).tid = t.tid := by cases st <;> rfl
@[simp] theorem setStream_ctx (t : Task) (st : Stream) (x : StreamSt) :
    (setStream t st x).ctx = t.ctx := by cases st <;> rfl
@[simp] theorem setStream_chan (t : Task) (st : Stream) (x : StreamSt) :
    (setStream t st x).chan = t.chan := by cases st <;> rfl
@[simp] theorem setStream_prio (t : Task) (st : Stream) (x : StreamSt) :
    (setStream t st x).prio = t.prio := by cases st <;> rfl
@[simp] theorem setStream_sup (t : Task) (st : Stream) (x : StreamSt) :
    (setStream t st x).sup = t.sup := by cases st <;> rfl
@[simp] theorem setStream_drop (t : Task) (st : Stream) (x : StreamSt) :
    (setStream t st x).drop = t.drop := by cases st <;> rfl
@[simp] theorem setStream_msgid (t : Task) (st : Stream) (x : StreamSt) :
    (setStream t st x).msgid = t.msgid := by cases st <;> rfl
@[simp] theorem setStream_spawned (t : Task) (st : Stream) (x : StreamSt) :
    (setStream t st x).spawned = t.spawned := by cases st <;> rfl
@[simp] theorem setStream_names (t : Task) (st : Stream) (x : StreamSt) :
    (setStream t st x).names = t.names := by cases st <;> rfl
@[simp] theorem setStream_drainRow (t : Task) (st : Stream) (x : StreamSt) :
    (setStream t st x).drainRow = t.drainRow := by cases st <;> rfl
@[simp] theorem setStream_a (t : Task) (st : Stream) (x : StreamSt) :
    (setStream t st x).a = t.a := by cases st <;> rfl
@[simp] theorem setStream_c (t : Task) (st : Stream) (x : StreamSt) :
    (setStream t st x).c = t.c := by cases st <;> rfl
@[simp] theorem setStream_e (t : Task) (st : Stream) (x : StreamSt) :
    (setStream t st x).e = t.e := by cases st <;> rfl
@[simp] theorem setStream_v (t : Task) (st : Stream) (x : StreamSt) :
    (setStream t st x).v = t.v := by cases st <;> rfl
@[simp] theorem setStream_m (t : Task) (st : Stream) (x : StreamSt) :
    (setStream t st x).m = t.m := by cases st <;> rfl
@[simp] theorem setStream_lq (t : Task) (st : Stream) (x : StreamSt) :
    (setStream t st x).lq = t.lq := by cases st <;> rfl
@[simp] theorem setStream_sq (t : Task) (st : Stream) (x : StreamSt) :
    (setStream t st x).sq = t.sq := by cases st <;> rfl
@[simp] theorem setStream_vlq (t : Task) (st : Stream) (x : StreamSt) :
    (setStream t st x).vlq = t.vlq := by cases st <;> rfl
@[simp] theorem setStream_vsq (t : Task) (st : Stream) (x : StreamSt) :
    (setStream t st x).vsq = t.vsq := by cases st <;> rfl
@[simp] theorem setStream_sf (t : Task) (st : Stream) (x : StreamSt) :
    (setStream t st x).sf = t.sf := by cases st <;> rfl
@[simp] theorem setStream_deadlock (t : Task) (st : Stream) (x : StreamSt) :
    (setStream t st x).deadlock = t.deadlock := by cases st <;> rfl
@[simp] theorem setStream_waitCodes (t : Task) (st : Stream) (x : StreamSt) :
    (setStream t st x).waitCodes = t.waitCodes := by cases st <;> rfl
@[simp] theorem setStream_numflags (t : Task) (st : Stream) (x : StreamSt) :
    (setStream t st x).numflags = t.numflags := by cases st <;> rfl
@[simp] theorem setStream_fpmode (t : Task) (st : Stream) (x : StreamSt) :
    (setStream t st x).fpmode = t.fpmode := by cases st <;> rfl
@[simp] theorem setStream_trapcause (t : Task) (st : Stream) (x : StreamSt) :
    (setStream t st x).trapcause = t.trapcause := by cases st <;> rfl
@[simp] theorem setStream_trapaddr (t : Task) (st : Stream) (x : StreamSt) :
    (setStream t st x).trapaddr = t.trapaddr := by cases st <;> rfl
@[simp] theorem setStream_trapmsg (t : Task) (st : Stream) (x : StreamSt) :
    (setStream t st x).trapmsg = t.trapmsg := by cases st <;> rfl
@[simp] theorem setStream_wdbudget (t : Task) (st : Stream) (x : StreamSt) :
    (setStream t st x).wdbudget = t.wdbudget := by cases st <;> rfl
@[simp] theorem setStream_keysel (t : Task) (st : Stream) (x : StreamSt) :
    (setStream t st x).keysel = t.keysel := by cases st <;> rfl
@[simp] theorem setStream_late (t : Task) (st : Stream) (x : StreamSt) :
    (setStream t st x).late = t.late := by cases st <;> rfl
@[simp] theorem setStream_obs (t : Task) (st : Stream) (x : StreamSt) :
    (setStream t st x).obs = t.obs := by cases st <;> rfl
@[simp] theorem setStream_obsOver (t : Task) (st : Stream) (x : StreamSt) :
    (setStream t st x).obsOver = t.obsOver := by cases st <;> rfl
@[simp] theorem setStream_horizons (t : Task) (st : Stream) (x : StreamSt) :
    (setStream t st x).horizons = t.horizons := by cases st <;> rfl
@[simp] theorem setStream_floors (t : Task) (st : Stream) (x : StreamSt) :
    (setStream t st x).floors = t.floors := by cases st <;> rfl
@[simp] theorem setStream_spillDepth (t : Task) (st : Stream) (x : StreamSt) :
    (setStream t st x).spillDepth = t.spillDepth := by cases st <;> rfl
@[simp] theorem setStream_staged (t : Task) (st : Stream) (x : StreamSt) :
    (setStream t st x).staged = t.staged := by cases st <;> rfl
@[simp] theorem setStream_popped (t : Task) (st : Stream) (x : StreamSt) :
    (setStream t st x).popped = t.popped := by cases st <;> rfl
@[simp] theorem setStream_lastMsgid (t : Task) (st : Stream) (x : StreamSt) :
    (setStream t st x).lastMsgid = t.lastMsgid := by cases st <;> rfl
@[simp] theorem setStream_port (t : Task) (st : Stream) (x : StreamSt) :
    (setStream t st x).port = t.port := by cases st <;> rfl
@[simp] theorem setStream_cmdTrap (t : Task) (st : Stream) (x : StreamSt) :
    (setStream t st x).cmdTrap = t.cmdTrap := by cases st <;> rfl
@[simp] theorem setStream_preEpoch (t : Task) (st : Stream) (x : StreamSt) :
    (setStream t st x).preEpoch = t.preEpoch := by cases st <;> rfl
@[simp] theorem setStream_ending (t : Task) (st : Stream) (x : StreamSt) :
    (setStream t st x).ending = t.ending := by cases st <;> rfl
@[simp] theorem setPc_tid (t : Task) (st : Stream) (p : Word) :
    (setPc t st p).tid = t.tid := by cases st <;> rfl
@[simp] theorem setPc_ctx (t : Task) (st : Stream) (p : Word) :
    (setPc t st p).ctx = t.ctx := by cases st <;> rfl
@[simp] theorem setPc_chan (t : Task) (st : Stream) (p : Word) :
    (setPc t st p).chan = t.chan := by cases st <;> rfl
@[simp] theorem setPc_prio (t : Task) (st : Stream) (p : Word) :
    (setPc t st p).prio = t.prio := by cases st <;> rfl
@[simp] theorem setPc_sup (t : Task) (st : Stream) (p : Word) :
    (setPc t st p).sup = t.sup := by cases st <;> rfl
@[simp] theorem setPc_drop (t : Task) (st : Stream) (p : Word) :
    (setPc t st p).drop = t.drop := by cases st <;> rfl
@[simp] theorem setPc_msgid (t : Task) (st : Stream) (p : Word) :
    (setPc t st p).msgid = t.msgid := by cases st <;> rfl
@[simp] theorem setPc_spawned (t : Task) (st : Stream) (p : Word) :
    (setPc t st p).spawned = t.spawned := by cases st <;> rfl
@[simp] theorem setPc_names (t : Task) (st : Stream) (p : Word) :
    (setPc t st p).names = t.names := by cases st <;> rfl
@[simp] theorem setPc_drainRow (t : Task) (st : Stream) (p : Word) :
    (setPc t st p).drainRow = t.drainRow := by cases st <;> rfl
@[simp] theorem setPc_a (t : Task) (st : Stream) (p : Word) :
    (setPc t st p).a = t.a := by cases st <;> rfl
@[simp] theorem setPc_c (t : Task) (st : Stream) (p : Word) :
    (setPc t st p).c = t.c := by cases st <;> rfl
@[simp] theorem setPc_e (t : Task) (st : Stream) (p : Word) :
    (setPc t st p).e = t.e := by cases st <;> rfl
@[simp] theorem setPc_v (t : Task) (st : Stream) (p : Word) :
    (setPc t st p).v = t.v := by cases st <;> rfl
@[simp] theorem setPc_m (t : Task) (st : Stream) (p : Word) :
    (setPc t st p).m = t.m := by cases st <;> rfl
@[simp] theorem setPc_lq (t : Task) (st : Stream) (p : Word) :
    (setPc t st p).lq = t.lq := by cases st <;> rfl
@[simp] theorem setPc_sq (t : Task) (st : Stream) (p : Word) :
    (setPc t st p).sq = t.sq := by cases st <;> rfl
@[simp] theorem setPc_vlq (t : Task) (st : Stream) (p : Word) :
    (setPc t st p).vlq = t.vlq := by cases st <;> rfl
@[simp] theorem setPc_vsq (t : Task) (st : Stream) (p : Word) :
    (setPc t st p).vsq = t.vsq := by cases st <;> rfl
@[simp] theorem setPc_sf (t : Task) (st : Stream) (p : Word) :
    (setPc t st p).sf = t.sf := by cases st <;> rfl
@[simp] theorem setPc_deadlock (t : Task) (st : Stream) (p : Word) :
    (setPc t st p).deadlock = t.deadlock := by cases st <;> rfl
@[simp] theorem setPc_waitCodes (t : Task) (st : Stream) (p : Word) :
    (setPc t st p).waitCodes = t.waitCodes := by cases st <;> rfl
@[simp] theorem setPc_numflags (t : Task) (st : Stream) (p : Word) :
    (setPc t st p).numflags = t.numflags := by cases st <;> rfl
@[simp] theorem setPc_fpmode (t : Task) (st : Stream) (p : Word) :
    (setPc t st p).fpmode = t.fpmode := by cases st <;> rfl
@[simp] theorem setPc_trapcause (t : Task) (st : Stream) (p : Word) :
    (setPc t st p).trapcause = t.trapcause := by cases st <;> rfl
@[simp] theorem setPc_trapaddr (t : Task) (st : Stream) (p : Word) :
    (setPc t st p).trapaddr = t.trapaddr := by cases st <;> rfl
@[simp] theorem setPc_trapmsg (t : Task) (st : Stream) (p : Word) :
    (setPc t st p).trapmsg = t.trapmsg := by cases st <;> rfl
@[simp] theorem setPc_wdbudget (t : Task) (st : Stream) (p : Word) :
    (setPc t st p).wdbudget = t.wdbudget := by cases st <;> rfl
@[simp] theorem setPc_keysel (t : Task) (st : Stream) (p : Word) :
    (setPc t st p).keysel = t.keysel := by cases st <;> rfl
@[simp] theorem setPc_late (t : Task) (st : Stream) (p : Word) :
    (setPc t st p).late = t.late := by cases st <;> rfl
@[simp] theorem setPc_obs (t : Task) (st : Stream) (p : Word) :
    (setPc t st p).obs = t.obs := by cases st <;> rfl
@[simp] theorem setPc_obsOver (t : Task) (st : Stream) (p : Word) :
    (setPc t st p).obsOver = t.obsOver := by cases st <;> rfl
@[simp] theorem setPc_horizons (t : Task) (st : Stream) (p : Word) :
    (setPc t st p).horizons = t.horizons := by cases st <;> rfl
@[simp] theorem setPc_floors (t : Task) (st : Stream) (p : Word) :
    (setPc t st p).floors = t.floors := by cases st <;> rfl
@[simp] theorem setPc_spillDepth (t : Task) (st : Stream) (p : Word) :
    (setPc t st p).spillDepth = t.spillDepth := by cases st <;> rfl
@[simp] theorem setPc_staged (t : Task) (st : Stream) (p : Word) :
    (setPc t st p).staged = t.staged := by cases st <;> rfl
@[simp] theorem setPc_popped (t : Task) (st : Stream) (p : Word) :
    (setPc t st p).popped = t.popped := by cases st <;> rfl
@[simp] theorem setPc_lastMsgid (t : Task) (st : Stream) (p : Word) :
    (setPc t st p).lastMsgid = t.lastMsgid := by cases st <;> rfl
@[simp] theorem setPc_port (t : Task) (st : Stream) (p : Word) :
    (setPc t st p).port = t.port := by cases st <;> rfl
@[simp] theorem setPc_cmdTrap (t : Task) (st : Stream) (p : Word) :
    (setPc t st p).cmdTrap = t.cmdTrap := by cases st <;> rfl
@[simp] theorem setPc_preEpoch (t : Task) (st : Stream) (p : Word) :
    (setPc t st p).preEpoch = t.preEpoch := by cases st <;> rfl
@[simp] theorem setPc_ending (t : Task) (st : Stream) (p : Word) :
    (setPc t st p).ending = t.ending := by cases st <;> rfl
@[simp] theorem setWait_tid (t : Task) (st : Stream) (w : Wait) :
    (setWait t st w).tid = t.tid := by cases st <;> rfl
@[simp] theorem setWait_ctx (t : Task) (st : Stream) (w : Wait) :
    (setWait t st w).ctx = t.ctx := by cases st <;> rfl
@[simp] theorem setWait_chan (t : Task) (st : Stream) (w : Wait) :
    (setWait t st w).chan = t.chan := by cases st <;> rfl
@[simp] theorem setWait_prio (t : Task) (st : Stream) (w : Wait) :
    (setWait t st w).prio = t.prio := by cases st <;> rfl
@[simp] theorem setWait_sup (t : Task) (st : Stream) (w : Wait) :
    (setWait t st w).sup = t.sup := by cases st <;> rfl
@[simp] theorem setWait_drop (t : Task) (st : Stream) (w : Wait) :
    (setWait t st w).drop = t.drop := by cases st <;> rfl
@[simp] theorem setWait_msgid (t : Task) (st : Stream) (w : Wait) :
    (setWait t st w).msgid = t.msgid := by cases st <;> rfl
@[simp] theorem setWait_spawned (t : Task) (st : Stream) (w : Wait) :
    (setWait t st w).spawned = t.spawned := by cases st <;> rfl
@[simp] theorem setWait_names (t : Task) (st : Stream) (w : Wait) :
    (setWait t st w).names = t.names := by cases st <;> rfl
@[simp] theorem setWait_drainRow (t : Task) (st : Stream) (w : Wait) :
    (setWait t st w).drainRow = t.drainRow := by cases st <;> rfl
@[simp] theorem setWait_a (t : Task) (st : Stream) (w : Wait) :
    (setWait t st w).a = t.a := by cases st <;> rfl
@[simp] theorem setWait_c (t : Task) (st : Stream) (w : Wait) :
    (setWait t st w).c = t.c := by cases st <;> rfl
@[simp] theorem setWait_e (t : Task) (st : Stream) (w : Wait) :
    (setWait t st w).e = t.e := by cases st <;> rfl
@[simp] theorem setWait_v (t : Task) (st : Stream) (w : Wait) :
    (setWait t st w).v = t.v := by cases st <;> rfl
@[simp] theorem setWait_m (t : Task) (st : Stream) (w : Wait) :
    (setWait t st w).m = t.m := by cases st <;> rfl
@[simp] theorem setWait_lq (t : Task) (st : Stream) (w : Wait) :
    (setWait t st w).lq = t.lq := by cases st <;> rfl
@[simp] theorem setWait_sq (t : Task) (st : Stream) (w : Wait) :
    (setWait t st w).sq = t.sq := by cases st <;> rfl
@[simp] theorem setWait_vlq (t : Task) (st : Stream) (w : Wait) :
    (setWait t st w).vlq = t.vlq := by cases st <;> rfl
@[simp] theorem setWait_vsq (t : Task) (st : Stream) (w : Wait) :
    (setWait t st w).vsq = t.vsq := by cases st <;> rfl
@[simp] theorem setWait_sf (t : Task) (st : Stream) (w : Wait) :
    (setWait t st w).sf = t.sf := by cases st <;> rfl
@[simp] theorem setWait_deadlock (t : Task) (st : Stream) (w : Wait) :
    (setWait t st w).deadlock = t.deadlock := by cases st <;> rfl
@[simp] theorem setWait_waitCodes (t : Task) (st : Stream) (w : Wait) :
    (setWait t st w).waitCodes = t.waitCodes := by cases st <;> rfl
@[simp] theorem setWait_numflags (t : Task) (st : Stream) (w : Wait) :
    (setWait t st w).numflags = t.numflags := by cases st <;> rfl
@[simp] theorem setWait_fpmode (t : Task) (st : Stream) (w : Wait) :
    (setWait t st w).fpmode = t.fpmode := by cases st <;> rfl
@[simp] theorem setWait_trapcause (t : Task) (st : Stream) (w : Wait) :
    (setWait t st w).trapcause = t.trapcause := by cases st <;> rfl
@[simp] theorem setWait_trapaddr (t : Task) (st : Stream) (w : Wait) :
    (setWait t st w).trapaddr = t.trapaddr := by cases st <;> rfl
@[simp] theorem setWait_trapmsg (t : Task) (st : Stream) (w : Wait) :
    (setWait t st w).trapmsg = t.trapmsg := by cases st <;> rfl
@[simp] theorem setWait_wdbudget (t : Task) (st : Stream) (w : Wait) :
    (setWait t st w).wdbudget = t.wdbudget := by cases st <;> rfl
@[simp] theorem setWait_keysel (t : Task) (st : Stream) (w : Wait) :
    (setWait t st w).keysel = t.keysel := by cases st <;> rfl
@[simp] theorem setWait_late (t : Task) (st : Stream) (w : Wait) :
    (setWait t st w).late = t.late := by cases st <;> rfl
@[simp] theorem setWait_obs (t : Task) (st : Stream) (w : Wait) :
    (setWait t st w).obs = t.obs := by cases st <;> rfl
@[simp] theorem setWait_obsOver (t : Task) (st : Stream) (w : Wait) :
    (setWait t st w).obsOver = t.obsOver := by cases st <;> rfl
@[simp] theorem setWait_horizons (t : Task) (st : Stream) (w : Wait) :
    (setWait t st w).horizons = t.horizons := by cases st <;> rfl
@[simp] theorem setWait_floors (t : Task) (st : Stream) (w : Wait) :
    (setWait t st w).floors = t.floors := by cases st <;> rfl
@[simp] theorem setWait_spillDepth (t : Task) (st : Stream) (w : Wait) :
    (setWait t st w).spillDepth = t.spillDepth := by cases st <;> rfl
@[simp] theorem setWait_staged (t : Task) (st : Stream) (w : Wait) :
    (setWait t st w).staged = t.staged := by cases st <;> rfl
@[simp] theorem setWait_popped (t : Task) (st : Stream) (w : Wait) :
    (setWait t st w).popped = t.popped := by cases st <;> rfl
@[simp] theorem setWait_lastMsgid (t : Task) (st : Stream) (w : Wait) :
    (setWait t st w).lastMsgid = t.lastMsgid := by cases st <;> rfl
@[simp] theorem setWait_port (t : Task) (st : Stream) (w : Wait) :
    (setWait t st w).port = t.port := by cases st <;> rfl
@[simp] theorem setWait_cmdTrap (t : Task) (st : Stream) (w : Wait) :
    (setWait t st w).cmdTrap = t.cmdTrap := by cases st <;> rfl
@[simp] theorem setWait_preEpoch (t : Task) (st : Stream) (w : Wait) :
    (setWait t st w).preEpoch = t.preEpoch := by cases st <;> rfl
@[simp] theorem setWait_ending (t : Task) (st : Stream) (w : Wait) :
    (setWait t st w).ending = t.ending := by cases st <;> rfl
@[simp] theorem setReg_tid (t : Task) (st : Stream) (r : BitVec 5) (v : Word) :
    (setReg t st r v).tid = t.tid := by unfold setReg; split <;> cases st <;> rfl
@[simp] theorem setReg_ctx (t : Task) (st : Stream) (r : BitVec 5) (v : Word) :
    (setReg t st r v).ctx = t.ctx := by unfold setReg; split <;> cases st <;> rfl
@[simp] theorem setReg_chan (t : Task) (st : Stream) (r : BitVec 5) (v : Word) :
    (setReg t st r v).chan = t.chan := by unfold setReg; split <;> cases st <;> rfl
@[simp] theorem setReg_prio (t : Task) (st : Stream) (r : BitVec 5) (v : Word) :
    (setReg t st r v).prio = t.prio := by unfold setReg; split <;> cases st <;> rfl
@[simp] theorem setReg_sup (t : Task) (st : Stream) (r : BitVec 5) (v : Word) :
    (setReg t st r v).sup = t.sup := by unfold setReg; split <;> cases st <;> rfl
@[simp] theorem setReg_drop (t : Task) (st : Stream) (r : BitVec 5) (v : Word) :
    (setReg t st r v).drop = t.drop := by unfold setReg; split <;> cases st <;> rfl
@[simp] theorem setReg_msgid (t : Task) (st : Stream) (r : BitVec 5) (v : Word) :
    (setReg t st r v).msgid = t.msgid := by unfold setReg; split <;> cases st <;> rfl
@[simp] theorem setReg_spawned (t : Task) (st : Stream) (r : BitVec 5) (v : Word) :
    (setReg t st r v).spawned = t.spawned := by unfold setReg; split <;> cases st <;> rfl
@[simp] theorem setReg_names (t : Task) (st : Stream) (r : BitVec 5) (v : Word) :
    (setReg t st r v).names = t.names := by unfold setReg; split <;> cases st <;> rfl
@[simp] theorem setReg_drainRow (t : Task) (st : Stream) (r : BitVec 5) (v : Word) :
    (setReg t st r v).drainRow = t.drainRow := by unfold setReg; split <;> cases st <;> rfl
@[simp] theorem setReg_sa (t : Task) (st : Stream) (r : BitVec 5) (v : Word) :
    (setReg t st r v).sa = t.sa := by unfold setReg; split <;> cases st <;> rfl
@[simp] theorem setReg_se (t : Task) (st : Stream) (r : BitVec 5) (v : Word) :
    (setReg t st r v).se = t.se := by unfold setReg; split <;> cases st <;> rfl
@[simp] theorem setReg_c (t : Task) (st : Stream) (r : BitVec 5) (v : Word) :
    (setReg t st r v).c = t.c := by unfold setReg; split <;> cases st <;> rfl
@[simp] theorem setReg_v (t : Task) (st : Stream) (r : BitVec 5) (v : Word) :
    (setReg t st r v).v = t.v := by unfold setReg; split <;> cases st <;> rfl
@[simp] theorem setReg_m (t : Task) (st : Stream) (r : BitVec 5) (v : Word) :
    (setReg t st r v).m = t.m := by unfold setReg; split <;> cases st <;> rfl
@[simp] theorem setReg_lq (t : Task) (st : Stream) (r : BitVec 5) (v : Word) :
    (setReg t st r v).lq = t.lq := by unfold setReg; split <;> cases st <;> rfl
@[simp] theorem setReg_sq (t : Task) (st : Stream) (r : BitVec 5) (v : Word) :
    (setReg t st r v).sq = t.sq := by unfold setReg; split <;> cases st <;> rfl
@[simp] theorem setReg_vlq (t : Task) (st : Stream) (r : BitVec 5) (v : Word) :
    (setReg t st r v).vlq = t.vlq := by unfold setReg; split <;> cases st <;> rfl
@[simp] theorem setReg_vsq (t : Task) (st : Stream) (r : BitVec 5) (v : Word) :
    (setReg t st r v).vsq = t.vsq := by unfold setReg; split <;> cases st <;> rfl
@[simp] theorem setReg_sf (t : Task) (st : Stream) (r : BitVec 5) (v : Word) :
    (setReg t st r v).sf = t.sf := by unfold setReg; split <;> cases st <;> rfl
@[simp] theorem setReg_deadlock (t : Task) (st : Stream) (r : BitVec 5) (v : Word) :
    (setReg t st r v).deadlock = t.deadlock := by unfold setReg; split <;> cases st <;> rfl
@[simp] theorem setReg_waitCodes (t : Task) (st : Stream) (r : BitVec 5) (v : Word) :
    (setReg t st r v).waitCodes = t.waitCodes := by unfold setReg; split <;> cases st <;> rfl
@[simp] theorem setReg_numflags (t : Task) (st : Stream) (r : BitVec 5) (v : Word) :
    (setReg t st r v).numflags = t.numflags := by unfold setReg; split <;> cases st <;> rfl
@[simp] theorem setReg_fpmode (t : Task) (st : Stream) (r : BitVec 5) (v : Word) :
    (setReg t st r v).fpmode = t.fpmode := by unfold setReg; split <;> cases st <;> rfl
@[simp] theorem setReg_trapcause (t : Task) (st : Stream) (r : BitVec 5) (v : Word) :
    (setReg t st r v).trapcause = t.trapcause := by unfold setReg; split <;> cases st <;> rfl
@[simp] theorem setReg_trapaddr (t : Task) (st : Stream) (r : BitVec 5) (v : Word) :
    (setReg t st r v).trapaddr = t.trapaddr := by unfold setReg; split <;> cases st <;> rfl
@[simp] theorem setReg_trapmsg (t : Task) (st : Stream) (r : BitVec 5) (v : Word) :
    (setReg t st r v).trapmsg = t.trapmsg := by unfold setReg; split <;> cases st <;> rfl
@[simp] theorem setReg_wdbudget (t : Task) (st : Stream) (r : BitVec 5) (v : Word) :
    (setReg t st r v).wdbudget = t.wdbudget := by unfold setReg; split <;> cases st <;> rfl
@[simp] theorem setReg_keysel (t : Task) (st : Stream) (r : BitVec 5) (v : Word) :
    (setReg t st r v).keysel = t.keysel := by unfold setReg; split <;> cases st <;> rfl
@[simp] theorem setReg_late (t : Task) (st : Stream) (r : BitVec 5) (v : Word) :
    (setReg t st r v).late = t.late := by unfold setReg; split <;> cases st <;> rfl
@[simp] theorem setReg_obs (t : Task) (st : Stream) (r : BitVec 5) (v : Word) :
    (setReg t st r v).obs = t.obs := by unfold setReg; split <;> cases st <;> rfl
@[simp] theorem setReg_obsOver (t : Task) (st : Stream) (r : BitVec 5) (v : Word) :
    (setReg t st r v).obsOver = t.obsOver := by unfold setReg; split <;> cases st <;> rfl
@[simp] theorem setReg_horizons (t : Task) (st : Stream) (r : BitVec 5) (v : Word) :
    (setReg t st r v).horizons = t.horizons := by unfold setReg; split <;> cases st <;> rfl
@[simp] theorem setReg_floors (t : Task) (st : Stream) (r : BitVec 5) (v : Word) :
    (setReg t st r v).floors = t.floors := by unfold setReg; split <;> cases st <;> rfl
@[simp] theorem setReg_spillDepth (t : Task) (st : Stream) (r : BitVec 5) (v : Word) :
    (setReg t st r v).spillDepth = t.spillDepth := by unfold setReg; split <;> cases st <;> rfl
@[simp] theorem setReg_staged (t : Task) (st : Stream) (r : BitVec 5) (v : Word) :
    (setReg t st r v).staged = t.staged := by unfold setReg; split <;> cases st <;> rfl
@[simp] theorem setReg_popped (t : Task) (st : Stream) (r : BitVec 5) (v : Word) :
    (setReg t st r v).popped = t.popped := by unfold setReg; split <;> cases st <;> rfl
@[simp] theorem setReg_lastMsgid (t : Task) (st : Stream) (r : BitVec 5) (v : Word) :
    (setReg t st r v).lastMsgid = t.lastMsgid := by unfold setReg; split <;> cases st <;> rfl
@[simp] theorem setReg_port (t : Task) (st : Stream) (r : BitVec 5) (v : Word) :
    (setReg t st r v).port = t.port := by unfold setReg; split <;> cases st <;> rfl
@[simp] theorem setReg_cmdTrap (t : Task) (st : Stream) (r : BitVec 5) (v : Word) :
    (setReg t st r v).cmdTrap = t.cmdTrap := by unfold setReg; split <;> cases st <;> rfl
@[simp] theorem setReg_preEpoch (t : Task) (st : Stream) (r : BitVec 5) (v : Word) :
    (setReg t st r v).preEpoch = t.preEpoch := by unfold setReg; split <;> cases st <;> rfl
@[simp] theorem setReg_ending (t : Task) (st : Stream) (r : BitVec 5) (v : Word) :
    (setReg t st r v).ending = t.ending := by unfold setReg; split <;> cases st <;> rfl
@[simp] theorem setCap_tid (t : Task) (r : Nat) (c : Cap) :
    (setCap t r c).tid = t.tid := by unfold setCap; split <;> rfl
@[simp] theorem setCap_ctx (t : Task) (r : Nat) (c : Cap) :
    (setCap t r c).ctx = t.ctx := by unfold setCap; split <;> rfl
@[simp] theorem setCap_chan (t : Task) (r : Nat) (c : Cap) :
    (setCap t r c).chan = t.chan := by unfold setCap; split <;> rfl
@[simp] theorem setCap_prio (t : Task) (r : Nat) (c : Cap) :
    (setCap t r c).prio = t.prio := by unfold setCap; split <;> rfl
@[simp] theorem setCap_sup (t : Task) (r : Nat) (c : Cap) :
    (setCap t r c).sup = t.sup := by unfold setCap; split <;> rfl
@[simp] theorem setCap_drop (t : Task) (r : Nat) (c : Cap) :
    (setCap t r c).drop = t.drop := by unfold setCap; split <;> rfl
@[simp] theorem setCap_msgid (t : Task) (r : Nat) (c : Cap) :
    (setCap t r c).msgid = t.msgid := by unfold setCap; split <;> rfl
@[simp] theorem setCap_spawned (t : Task) (r : Nat) (c : Cap) :
    (setCap t r c).spawned = t.spawned := by unfold setCap; split <;> rfl
@[simp] theorem setCap_names (t : Task) (r : Nat) (c : Cap) :
    (setCap t r c).names = t.names := by unfold setCap; split <;> rfl
@[simp] theorem setCap_drainRow (t : Task) (r : Nat) (c : Cap) :
    (setCap t r c).drainRow = t.drainRow := by unfold setCap; split <;> rfl
@[simp] theorem setCap_sa (t : Task) (r : Nat) (c : Cap) :
    (setCap t r c).sa = t.sa := by unfold setCap; split <;> rfl
@[simp] theorem setCap_se (t : Task) (r : Nat) (c : Cap) :
    (setCap t r c).se = t.se := by unfold setCap; split <;> rfl
@[simp] theorem setCap_a (t : Task) (r : Nat) (c : Cap) :
    (setCap t r c).a = t.a := by unfold setCap; split <;> rfl
@[simp] theorem setCap_e (t : Task) (r : Nat) (c : Cap) :
    (setCap t r c).e = t.e := by unfold setCap; split <;> rfl
@[simp] theorem setCap_v (t : Task) (r : Nat) (c : Cap) :
    (setCap t r c).v = t.v := by unfold setCap; split <;> rfl
@[simp] theorem setCap_m (t : Task) (r : Nat) (c : Cap) :
    (setCap t r c).m = t.m := by unfold setCap; split <;> rfl
@[simp] theorem setCap_lq (t : Task) (r : Nat) (c : Cap) :
    (setCap t r c).lq = t.lq := by unfold setCap; split <;> rfl
@[simp] theorem setCap_sq (t : Task) (r : Nat) (c : Cap) :
    (setCap t r c).sq = t.sq := by unfold setCap; split <;> rfl
@[simp] theorem setCap_vlq (t : Task) (r : Nat) (c : Cap) :
    (setCap t r c).vlq = t.vlq := by unfold setCap; split <;> rfl
@[simp] theorem setCap_vsq (t : Task) (r : Nat) (c : Cap) :
    (setCap t r c).vsq = t.vsq := by unfold setCap; split <;> rfl
@[simp] theorem setCap_sf (t : Task) (r : Nat) (c : Cap) :
    (setCap t r c).sf = t.sf := by unfold setCap; split <;> rfl
@[simp] theorem setCap_deadlock (t : Task) (r : Nat) (c : Cap) :
    (setCap t r c).deadlock = t.deadlock := by unfold setCap; split <;> rfl
@[simp] theorem setCap_waitCodes (t : Task) (r : Nat) (c : Cap) :
    (setCap t r c).waitCodes = t.waitCodes := by unfold setCap; split <;> rfl
@[simp] theorem setCap_numflags (t : Task) (r : Nat) (c : Cap) :
    (setCap t r c).numflags = t.numflags := by unfold setCap; split <;> rfl
@[simp] theorem setCap_fpmode (t : Task) (r : Nat) (c : Cap) :
    (setCap t r c).fpmode = t.fpmode := by unfold setCap; split <;> rfl
@[simp] theorem setCap_trapcause (t : Task) (r : Nat) (c : Cap) :
    (setCap t r c).trapcause = t.trapcause := by unfold setCap; split <;> rfl
@[simp] theorem setCap_trapaddr (t : Task) (r : Nat) (c : Cap) :
    (setCap t r c).trapaddr = t.trapaddr := by unfold setCap; split <;> rfl
@[simp] theorem setCap_trapmsg (t : Task) (r : Nat) (c : Cap) :
    (setCap t r c).trapmsg = t.trapmsg := by unfold setCap; split <;> rfl
@[simp] theorem setCap_wdbudget (t : Task) (r : Nat) (c : Cap) :
    (setCap t r c).wdbudget = t.wdbudget := by unfold setCap; split <;> rfl
@[simp] theorem setCap_keysel (t : Task) (r : Nat) (c : Cap) :
    (setCap t r c).keysel = t.keysel := by unfold setCap; split <;> rfl
@[simp] theorem setCap_late (t : Task) (r : Nat) (c : Cap) :
    (setCap t r c).late = t.late := by unfold setCap; split <;> rfl
@[simp] theorem setCap_obs (t : Task) (r : Nat) (c : Cap) :
    (setCap t r c).obs = t.obs := by unfold setCap; split <;> rfl
@[simp] theorem setCap_obsOver (t : Task) (r : Nat) (c : Cap) :
    (setCap t r c).obsOver = t.obsOver := by unfold setCap; split <;> rfl
@[simp] theorem setCap_horizons (t : Task) (r : Nat) (c : Cap) :
    (setCap t r c).horizons = t.horizons := by unfold setCap; split <;> rfl
@[simp] theorem setCap_floors (t : Task) (r : Nat) (c : Cap) :
    (setCap t r c).floors = t.floors := by unfold setCap; split <;> rfl
@[simp] theorem setCap_spillDepth (t : Task) (r : Nat) (c : Cap) :
    (setCap t r c).spillDepth = t.spillDepth := by unfold setCap; split <;> rfl
@[simp] theorem setCap_staged (t : Task) (r : Nat) (c : Cap) :
    (setCap t r c).staged = t.staged := by unfold setCap; split <;> rfl
@[simp] theorem setCap_popped (t : Task) (r : Nat) (c : Cap) :
    (setCap t r c).popped = t.popped := by unfold setCap; split <;> rfl
@[simp] theorem setCap_lastMsgid (t : Task) (r : Nat) (c : Cap) :
    (setCap t r c).lastMsgid = t.lastMsgid := by unfold setCap; split <;> rfl
@[simp] theorem setCap_port (t : Task) (r : Nat) (c : Cap) :
    (setCap t r c).port = t.port := by unfold setCap; split <;> rfl
@[simp] theorem setCap_cmdTrap (t : Task) (r : Nat) (c : Cap) :
    (setCap t r c).cmdTrap = t.cmdTrap := by unfold setCap; split <;> rfl
@[simp] theorem setCap_preEpoch (t : Task) (r : Nat) (c : Cap) :
    (setCap t r c).preEpoch = t.preEpoch := by unfold setCap; split <;> rfl
@[simp] theorem setCap_ending (t : Task) (r : Nat) (c : Cap) :
    (setCap t r c).ending = t.ending := by unfold setCap; split <;> rfl
@[simp] theorem setVec_tid (t : Task) (r : BitVec 5) (x : VecWord) :
    (setVec t r x).tid = t.tid := rfl
@[simp] theorem setVec_ctx (t : Task) (r : BitVec 5) (x : VecWord) :
    (setVec t r x).ctx = t.ctx := rfl
@[simp] theorem setVec_chan (t : Task) (r : BitVec 5) (x : VecWord) :
    (setVec t r x).chan = t.chan := rfl
@[simp] theorem setVec_prio (t : Task) (r : BitVec 5) (x : VecWord) :
    (setVec t r x).prio = t.prio := rfl
@[simp] theorem setVec_sup (t : Task) (r : BitVec 5) (x : VecWord) :
    (setVec t r x).sup = t.sup := rfl
@[simp] theorem setVec_drop (t : Task) (r : BitVec 5) (x : VecWord) :
    (setVec t r x).drop = t.drop := rfl
@[simp] theorem setVec_msgid (t : Task) (r : BitVec 5) (x : VecWord) :
    (setVec t r x).msgid = t.msgid := rfl
@[simp] theorem setVec_spawned (t : Task) (r : BitVec 5) (x : VecWord) :
    (setVec t r x).spawned = t.spawned := rfl
@[simp] theorem setVec_names (t : Task) (r : BitVec 5) (x : VecWord) :
    (setVec t r x).names = t.names := rfl
@[simp] theorem setVec_drainRow (t : Task) (r : BitVec 5) (x : VecWord) :
    (setVec t r x).drainRow = t.drainRow := rfl
@[simp] theorem setVec_sa (t : Task) (r : BitVec 5) (x : VecWord) :
    (setVec t r x).sa = t.sa := rfl
@[simp] theorem setVec_se (t : Task) (r : BitVec 5) (x : VecWord) :
    (setVec t r x).se = t.se := rfl
@[simp] theorem setVec_a (t : Task) (r : BitVec 5) (x : VecWord) :
    (setVec t r x).a = t.a := rfl
@[simp] theorem setVec_c (t : Task) (r : BitVec 5) (x : VecWord) :
    (setVec t r x).c = t.c := rfl
@[simp] theorem setVec_e (t : Task) (r : BitVec 5) (x : VecWord) :
    (setVec t r x).e = t.e := rfl
@[simp] theorem setVec_m (t : Task) (r : BitVec 5) (x : VecWord) :
    (setVec t r x).m = t.m := rfl
@[simp] theorem setVec_lq (t : Task) (r : BitVec 5) (x : VecWord) :
    (setVec t r x).lq = t.lq := rfl
@[simp] theorem setVec_sq (t : Task) (r : BitVec 5) (x : VecWord) :
    (setVec t r x).sq = t.sq := rfl
@[simp] theorem setVec_vlq (t : Task) (r : BitVec 5) (x : VecWord) :
    (setVec t r x).vlq = t.vlq := rfl
@[simp] theorem setVec_vsq (t : Task) (r : BitVec 5) (x : VecWord) :
    (setVec t r x).vsq = t.vsq := rfl
@[simp] theorem setVec_sf (t : Task) (r : BitVec 5) (x : VecWord) :
    (setVec t r x).sf = t.sf := rfl
@[simp] theorem setVec_deadlock (t : Task) (r : BitVec 5) (x : VecWord) :
    (setVec t r x).deadlock = t.deadlock := rfl
@[simp] theorem setVec_waitCodes (t : Task) (r : BitVec 5) (x : VecWord) :
    (setVec t r x).waitCodes = t.waitCodes := rfl
@[simp] theorem setVec_numflags (t : Task) (r : BitVec 5) (x : VecWord) :
    (setVec t r x).numflags = t.numflags := rfl
@[simp] theorem setVec_fpmode (t : Task) (r : BitVec 5) (x : VecWord) :
    (setVec t r x).fpmode = t.fpmode := rfl
@[simp] theorem setVec_trapcause (t : Task) (r : BitVec 5) (x : VecWord) :
    (setVec t r x).trapcause = t.trapcause := rfl
@[simp] theorem setVec_trapaddr (t : Task) (r : BitVec 5) (x : VecWord) :
    (setVec t r x).trapaddr = t.trapaddr := rfl
@[simp] theorem setVec_trapmsg (t : Task) (r : BitVec 5) (x : VecWord) :
    (setVec t r x).trapmsg = t.trapmsg := rfl
@[simp] theorem setVec_wdbudget (t : Task) (r : BitVec 5) (x : VecWord) :
    (setVec t r x).wdbudget = t.wdbudget := rfl
@[simp] theorem setVec_keysel (t : Task) (r : BitVec 5) (x : VecWord) :
    (setVec t r x).keysel = t.keysel := rfl
@[simp] theorem setVec_late (t : Task) (r : BitVec 5) (x : VecWord) :
    (setVec t r x).late = t.late := rfl
@[simp] theorem setVec_obs (t : Task) (r : BitVec 5) (x : VecWord) :
    (setVec t r x).obs = t.obs := rfl
@[simp] theorem setVec_obsOver (t : Task) (r : BitVec 5) (x : VecWord) :
    (setVec t r x).obsOver = t.obsOver := rfl
@[simp] theorem setVec_horizons (t : Task) (r : BitVec 5) (x : VecWord) :
    (setVec t r x).horizons = t.horizons := rfl
@[simp] theorem setVec_floors (t : Task) (r : BitVec 5) (x : VecWord) :
    (setVec t r x).floors = t.floors := rfl
@[simp] theorem setVec_spillDepth (t : Task) (r : BitVec 5) (x : VecWord) :
    (setVec t r x).spillDepth = t.spillDepth := rfl
@[simp] theorem setVec_staged (t : Task) (r : BitVec 5) (x : VecWord) :
    (setVec t r x).staged = t.staged := rfl
@[simp] theorem setVec_popped (t : Task) (r : BitVec 5) (x : VecWord) :
    (setVec t r x).popped = t.popped := rfl
@[simp] theorem setVec_lastMsgid (t : Task) (r : BitVec 5) (x : VecWord) :
    (setVec t r x).lastMsgid = t.lastMsgid := rfl
@[simp] theorem setVec_port (t : Task) (r : BitVec 5) (x : VecWord) :
    (setVec t r x).port = t.port := rfl
@[simp] theorem setVec_cmdTrap (t : Task) (r : BitVec 5) (x : VecWord) :
    (setVec t r x).cmdTrap = t.cmdTrap := rfl
@[simp] theorem setVec_preEpoch (t : Task) (r : BitVec 5) (x : VecWord) :
    (setVec t r x).preEpoch = t.preEpoch := rfl
@[simp] theorem setVec_ending (t : Task) (r : BitVec 5) (x : VecWord) :
    (setVec t r x).ending = t.ending := rfl
@[simp] theorem setMask_tid (t : Task) (r : BitVec 3) (x : Word) :
    (setMask t r x).tid = t.tid := by unfold setMask; split <;> rfl
@[simp] theorem setMask_ctx (t : Task) (r : BitVec 3) (x : Word) :
    (setMask t r x).ctx = t.ctx := by unfold setMask; split <;> rfl
@[simp] theorem setMask_chan (t : Task) (r : BitVec 3) (x : Word) :
    (setMask t r x).chan = t.chan := by unfold setMask; split <;> rfl
@[simp] theorem setMask_prio (t : Task) (r : BitVec 3) (x : Word) :
    (setMask t r x).prio = t.prio := by unfold setMask; split <;> rfl
@[simp] theorem setMask_sup (t : Task) (r : BitVec 3) (x : Word) :
    (setMask t r x).sup = t.sup := by unfold setMask; split <;> rfl
@[simp] theorem setMask_drop (t : Task) (r : BitVec 3) (x : Word) :
    (setMask t r x).drop = t.drop := by unfold setMask; split <;> rfl
@[simp] theorem setMask_msgid (t : Task) (r : BitVec 3) (x : Word) :
    (setMask t r x).msgid = t.msgid := by unfold setMask; split <;> rfl
@[simp] theorem setMask_spawned (t : Task) (r : BitVec 3) (x : Word) :
    (setMask t r x).spawned = t.spawned := by unfold setMask; split <;> rfl
@[simp] theorem setMask_names (t : Task) (r : BitVec 3) (x : Word) :
    (setMask t r x).names = t.names := by unfold setMask; split <;> rfl
@[simp] theorem setMask_drainRow (t : Task) (r : BitVec 3) (x : Word) :
    (setMask t r x).drainRow = t.drainRow := by unfold setMask; split <;> rfl
@[simp] theorem setMask_sa (t : Task) (r : BitVec 3) (x : Word) :
    (setMask t r x).sa = t.sa := by unfold setMask; split <;> rfl
@[simp] theorem setMask_se (t : Task) (r : BitVec 3) (x : Word) :
    (setMask t r x).se = t.se := by unfold setMask; split <;> rfl
@[simp] theorem setMask_a (t : Task) (r : BitVec 3) (x : Word) :
    (setMask t r x).a = t.a := by unfold setMask; split <;> rfl
@[simp] theorem setMask_c (t : Task) (r : BitVec 3) (x : Word) :
    (setMask t r x).c = t.c := by unfold setMask; split <;> rfl
@[simp] theorem setMask_e (t : Task) (r : BitVec 3) (x : Word) :
    (setMask t r x).e = t.e := by unfold setMask; split <;> rfl
@[simp] theorem setMask_v (t : Task) (r : BitVec 3) (x : Word) :
    (setMask t r x).v = t.v := by unfold setMask; split <;> rfl
@[simp] theorem setMask_lq (t : Task) (r : BitVec 3) (x : Word) :
    (setMask t r x).lq = t.lq := by unfold setMask; split <;> rfl
@[simp] theorem setMask_sq (t : Task) (r : BitVec 3) (x : Word) :
    (setMask t r x).sq = t.sq := by unfold setMask; split <;> rfl
@[simp] theorem setMask_vlq (t : Task) (r : BitVec 3) (x : Word) :
    (setMask t r x).vlq = t.vlq := by unfold setMask; split <;> rfl
@[simp] theorem setMask_vsq (t : Task) (r : BitVec 3) (x : Word) :
    (setMask t r x).vsq = t.vsq := by unfold setMask; split <;> rfl
@[simp] theorem setMask_sf (t : Task) (r : BitVec 3) (x : Word) :
    (setMask t r x).sf = t.sf := by unfold setMask; split <;> rfl
@[simp] theorem setMask_deadlock (t : Task) (r : BitVec 3) (x : Word) :
    (setMask t r x).deadlock = t.deadlock := by unfold setMask; split <;> rfl
@[simp] theorem setMask_waitCodes (t : Task) (r : BitVec 3) (x : Word) :
    (setMask t r x).waitCodes = t.waitCodes := by unfold setMask; split <;> rfl
@[simp] theorem setMask_numflags (t : Task) (r : BitVec 3) (x : Word) :
    (setMask t r x).numflags = t.numflags := by unfold setMask; split <;> rfl
@[simp] theorem setMask_fpmode (t : Task) (r : BitVec 3) (x : Word) :
    (setMask t r x).fpmode = t.fpmode := by unfold setMask; split <;> rfl
@[simp] theorem setMask_trapcause (t : Task) (r : BitVec 3) (x : Word) :
    (setMask t r x).trapcause = t.trapcause := by unfold setMask; split <;> rfl
@[simp] theorem setMask_trapaddr (t : Task) (r : BitVec 3) (x : Word) :
    (setMask t r x).trapaddr = t.trapaddr := by unfold setMask; split <;> rfl
@[simp] theorem setMask_trapmsg (t : Task) (r : BitVec 3) (x : Word) :
    (setMask t r x).trapmsg = t.trapmsg := by unfold setMask; split <;> rfl
@[simp] theorem setMask_wdbudget (t : Task) (r : BitVec 3) (x : Word) :
    (setMask t r x).wdbudget = t.wdbudget := by unfold setMask; split <;> rfl
@[simp] theorem setMask_keysel (t : Task) (r : BitVec 3) (x : Word) :
    (setMask t r x).keysel = t.keysel := by unfold setMask; split <;> rfl
@[simp] theorem setMask_late (t : Task) (r : BitVec 3) (x : Word) :
    (setMask t r x).late = t.late := by unfold setMask; split <;> rfl
@[simp] theorem setMask_obs (t : Task) (r : BitVec 3) (x : Word) :
    (setMask t r x).obs = t.obs := by unfold setMask; split <;> rfl
@[simp] theorem setMask_obsOver (t : Task) (r : BitVec 3) (x : Word) :
    (setMask t r x).obsOver = t.obsOver := by unfold setMask; split <;> rfl
@[simp] theorem setMask_horizons (t : Task) (r : BitVec 3) (x : Word) :
    (setMask t r x).horizons = t.horizons := by unfold setMask; split <;> rfl
@[simp] theorem setMask_floors (t : Task) (r : BitVec 3) (x : Word) :
    (setMask t r x).floors = t.floors := by unfold setMask; split <;> rfl
@[simp] theorem setMask_spillDepth (t : Task) (r : BitVec 3) (x : Word) :
    (setMask t r x).spillDepth = t.spillDepth := by unfold setMask; split <;> rfl
@[simp] theorem setMask_staged (t : Task) (r : BitVec 3) (x : Word) :
    (setMask t r x).staged = t.staged := by unfold setMask; split <;> rfl
@[simp] theorem setMask_popped (t : Task) (r : BitVec 3) (x : Word) :
    (setMask t r x).popped = t.popped := by unfold setMask; split <;> rfl
@[simp] theorem setMask_lastMsgid (t : Task) (r : BitVec 3) (x : Word) :
    (setMask t r x).lastMsgid = t.lastMsgid := by unfold setMask; split <;> rfl
@[simp] theorem setMask_port (t : Task) (r : BitVec 3) (x : Word) :
    (setMask t r x).port = t.port := by unfold setMask; split <;> rfl
@[simp] theorem setMask_cmdTrap (t : Task) (r : BitVec 3) (x : Word) :
    (setMask t r x).cmdTrap = t.cmdTrap := by unfold setMask; split <;> rfl
@[simp] theorem setMask_preEpoch (t : Task) (r : BitVec 3) (x : Word) :
    (setMask t r x).preEpoch = t.preEpoch := by unfold setMask; split <;> rfl
@[simp] theorem setMask_ending (t : Task) (r : BitVec 3) (x : Word) :
    (setMask t r x).ending = t.ending := by unfold setMask; split <;> rfl
@[simp] theorem setPortQueue_tid (t : Task) (p : Nat) (q : Queue Word) :
    (setPortQueue t p q).tid = t.tid := by unfold setPortQueue; split <;> rfl
@[simp] theorem setPortQueue_ctx (t : Task) (p : Nat) (q : Queue Word) :
    (setPortQueue t p q).ctx = t.ctx := by unfold setPortQueue; split <;> rfl
@[simp] theorem setPortQueue_chan (t : Task) (p : Nat) (q : Queue Word) :
    (setPortQueue t p q).chan = t.chan := by unfold setPortQueue; split <;> rfl
@[simp] theorem setPortQueue_prio (t : Task) (p : Nat) (q : Queue Word) :
    (setPortQueue t p q).prio = t.prio := by unfold setPortQueue; split <;> rfl
@[simp] theorem setPortQueue_sup (t : Task) (p : Nat) (q : Queue Word) :
    (setPortQueue t p q).sup = t.sup := by unfold setPortQueue; split <;> rfl
@[simp] theorem setPortQueue_drop (t : Task) (p : Nat) (q : Queue Word) :
    (setPortQueue t p q).drop = t.drop := by unfold setPortQueue; split <;> rfl
@[simp] theorem setPortQueue_msgid (t : Task) (p : Nat) (q : Queue Word) :
    (setPortQueue t p q).msgid = t.msgid := by unfold setPortQueue; split <;> rfl
@[simp] theorem setPortQueue_spawned (t : Task) (p : Nat) (q : Queue Word) :
    (setPortQueue t p q).spawned = t.spawned := by unfold setPortQueue; split <;> rfl
@[simp] theorem setPortQueue_names (t : Task) (p : Nat) (q : Queue Word) :
    (setPortQueue t p q).names = t.names := by unfold setPortQueue; split <;> rfl
@[simp] theorem setPortQueue_drainRow (t : Task) (p : Nat) (q : Queue Word) :
    (setPortQueue t p q).drainRow = t.drainRow := by unfold setPortQueue; split <;> rfl
@[simp] theorem setPortQueue_sa (t : Task) (p : Nat) (q : Queue Word) :
    (setPortQueue t p q).sa = t.sa := by unfold setPortQueue; split <;> rfl
@[simp] theorem setPortQueue_se (t : Task) (p : Nat) (q : Queue Word) :
    (setPortQueue t p q).se = t.se := by unfold setPortQueue; split <;> rfl
@[simp] theorem setPortQueue_a (t : Task) (p : Nat) (q : Queue Word) :
    (setPortQueue t p q).a = t.a := by unfold setPortQueue; split <;> rfl
@[simp] theorem setPortQueue_c (t : Task) (p : Nat) (q : Queue Word) :
    (setPortQueue t p q).c = t.c := by unfold setPortQueue; split <;> rfl
@[simp] theorem setPortQueue_e (t : Task) (p : Nat) (q : Queue Word) :
    (setPortQueue t p q).e = t.e := by unfold setPortQueue; split <;> rfl
@[simp] theorem setPortQueue_v (t : Task) (p : Nat) (q : Queue Word) :
    (setPortQueue t p q).v = t.v := by unfold setPortQueue; split <;> rfl
@[simp] theorem setPortQueue_m (t : Task) (p : Nat) (q : Queue Word) :
    (setPortQueue t p q).m = t.m := by unfold setPortQueue; split <;> rfl
@[simp] theorem setPortQueue_vlq (t : Task) (p : Nat) (q : Queue Word) :
    (setPortQueue t p q).vlq = t.vlq := by unfold setPortQueue; split <;> rfl
@[simp] theorem setPortQueue_vsq (t : Task) (p : Nat) (q : Queue Word) :
    (setPortQueue t p q).vsq = t.vsq := by unfold setPortQueue; split <;> rfl
@[simp] theorem setPortQueue_sf (t : Task) (p : Nat) (q : Queue Word) :
    (setPortQueue t p q).sf = t.sf := by unfold setPortQueue; split <;> rfl
@[simp] theorem setPortQueue_deadlock (t : Task) (p : Nat) (q : Queue Word) :
    (setPortQueue t p q).deadlock = t.deadlock := by unfold setPortQueue; split <;> rfl
@[simp] theorem setPortQueue_waitCodes (t : Task) (p : Nat) (q : Queue Word) :
    (setPortQueue t p q).waitCodes = t.waitCodes := by unfold setPortQueue; split <;> rfl
@[simp] theorem setPortQueue_numflags (t : Task) (p : Nat) (q : Queue Word) :
    (setPortQueue t p q).numflags = t.numflags := by unfold setPortQueue; split <;> rfl
@[simp] theorem setPortQueue_fpmode (t : Task) (p : Nat) (q : Queue Word) :
    (setPortQueue t p q).fpmode = t.fpmode := by unfold setPortQueue; split <;> rfl
@[simp] theorem setPortQueue_trapcause (t : Task) (p : Nat) (q : Queue Word) :
    (setPortQueue t p q).trapcause = t.trapcause := by unfold setPortQueue; split <;> rfl
@[simp] theorem setPortQueue_trapaddr (t : Task) (p : Nat) (q : Queue Word) :
    (setPortQueue t p q).trapaddr = t.trapaddr := by unfold setPortQueue; split <;> rfl
@[simp] theorem setPortQueue_trapmsg (t : Task) (p : Nat) (q : Queue Word) :
    (setPortQueue t p q).trapmsg = t.trapmsg := by unfold setPortQueue; split <;> rfl
@[simp] theorem setPortQueue_wdbudget (t : Task) (p : Nat) (q : Queue Word) :
    (setPortQueue t p q).wdbudget = t.wdbudget := by unfold setPortQueue; split <;> rfl
@[simp] theorem setPortQueue_keysel (t : Task) (p : Nat) (q : Queue Word) :
    (setPortQueue t p q).keysel = t.keysel := by unfold setPortQueue; split <;> rfl
@[simp] theorem setPortQueue_late (t : Task) (p : Nat) (q : Queue Word) :
    (setPortQueue t p q).late = t.late := by unfold setPortQueue; split <;> rfl
@[simp] theorem setPortQueue_obs (t : Task) (p : Nat) (q : Queue Word) :
    (setPortQueue t p q).obs = t.obs := by unfold setPortQueue; split <;> rfl
@[simp] theorem setPortQueue_obsOver (t : Task) (p : Nat) (q : Queue Word) :
    (setPortQueue t p q).obsOver = t.obsOver := by unfold setPortQueue; split <;> rfl
@[simp] theorem setPortQueue_horizons (t : Task) (p : Nat) (q : Queue Word) :
    (setPortQueue t p q).horizons = t.horizons := by unfold setPortQueue; split <;> rfl
@[simp] theorem setPortQueue_floors (t : Task) (p : Nat) (q : Queue Word) :
    (setPortQueue t p q).floors = t.floors := by unfold setPortQueue; split <;> rfl
@[simp] theorem setPortQueue_spillDepth (t : Task) (p : Nat) (q : Queue Word) :
    (setPortQueue t p q).spillDepth = t.spillDepth := by unfold setPortQueue; split <;> rfl
@[simp] theorem setPortQueue_staged (t : Task) (p : Nat) (q : Queue Word) :
    (setPortQueue t p q).staged = t.staged := by unfold setPortQueue; split <;> rfl
@[simp] theorem setPortQueue_popped (t : Task) (p : Nat) (q : Queue Word) :
    (setPortQueue t p q).popped = t.popped := by unfold setPortQueue; split <;> rfl
@[simp] theorem setPortQueue_lastMsgid (t : Task) (p : Nat) (q : Queue Word) :
    (setPortQueue t p q).lastMsgid = t.lastMsgid := by unfold setPortQueue; split <;> rfl
@[simp] theorem setPortQueue_port (t : Task) (p : Nat) (q : Queue Word) :
    (setPortQueue t p q).port = t.port := by unfold setPortQueue; split <;> rfl
@[simp] theorem setPortQueue_cmdTrap (t : Task) (p : Nat) (q : Queue Word) :
    (setPortQueue t p q).cmdTrap = t.cmdTrap := by unfold setPortQueue; split <;> rfl
@[simp] theorem setPortQueue_preEpoch (t : Task) (p : Nat) (q : Queue Word) :
    (setPortQueue t p q).preEpoch = t.preEpoch := by unfold setPortQueue; split <;> rfl
@[simp] theorem setPortQueue_ending (t : Task) (p : Nat) (q : Queue Word) :
    (setPortQueue t p q).ending = t.ending := by unfold setPortQueue; split <;> rfl

/-! ### The updates and what they write -/

theorem vget_vset_same {α : Type} {n : Nat} (v : Vector α n) (i : Nat) (x d : α) (h : i < n) :
    vget (vset v i x) i d = x := by
  simp [vget, vset, List.getD, h]

theorem vget_vset_other {α : Type} {n : Nat} (v : Vector α n) (i j : Nat) (x d : α) (h : i ≠ j) :
    vget (vset v i x) j d = vget v j d := by
  simp [vget, vset, List.getD, h]

@[simp] theorem vset_vset {α : Type} {n : Nat} (v : Vector α n) (i : Nat) (x y : α) :
    vset (vset v i x) i y = vset v i y := by
  ext j hj
  simp only [vset, Vector.getElem_setIfInBounds]
  split <;> rfl

@[simp] theorem emit_outbox (s : State) (p : Packet) : (emit s p).outbox = s.outbox ++ [p] := rfl
@[simp] theorem queueEvent_inputs (s : State) (i : Instr) :
    (queueEvent s i).inputs = s.inputs ++ [{ row := i, access := Access.none }] := rfl
@[simp] theorem setSlot_setSlot (s : State) (k : Nat) (x y : Slot) : setSlot (setSlot s k x) k y = setSlot s k y := by
  simp [setSlot]
@[simp] theorem putTask_putTask (s : State) (k : Nat) (t u : Task) : putTask (putTask s k t) k u = putTask s k u :=
  setSlot_setSlot s k _ _
theorem slotAt_setSlot (s : State) (k : Nat) (x : Slot) (h : k < 4) : slotAt (setSlot s k x) k = x :=
  vget_vset_same _ _ _ _ h
theorem slotAt_setSlot_other (s : State) (k j : Nat) (x : Slot) (h : k ≠ j) : slotAt (setSlot s k x) j = slotAt s j :=
  vget_vset_other _ _ _ _ _ h
theorem taskIn_putTask (s : State) (k : Nat) (t : Task) (h : k < 4) : taskIn (putTask s k t) k = some t := by
  simp [taskIn, putTask, slotAt_setSlot _ _ _ h]
theorem taskIn_putTask_other (s : State) (k j : Nat) (t : Task) (h : k ≠ j) :
    taskIn (putTask s k t) j = taskIn s j := by
  simp [taskIn, putTask, slotAt_setSlot_other _ _ _ _ h]
@[simp] theorem curK_putTask (s : State) (k : Nat) (t : Task) : curK (putTask s k t) = curK s := rfl
theorem curK_lt (s : State) : curK s < 4 := s.cur.1.isLt
@[simp] theorem taskIn_putTask_cur (s : State) (t : Task) : taskIn (putTask s (curK s) t) (curK s) = some t :=
  taskIn_putTask s (curK s) t (curK_lt s)
@[simp] theorem putTask_self (s : State) (k : Nat) (t : Task) (h : taskIn s k = some t) : putTask s k t = s := by
  have hs : slotAt s k = .running t := by
    revert h; unfold taskIn; cases slotAt s k <;> simp
  have : vset s.slots k (Slot.running t) = s.slots := by
    ext j hj
    simp only [vset, Vector.getElem_setIfInBounds]
    split
    · next h' => subst h'; simpa [slotAt, vget, List.getD, hj] using hs.symm
    · rfl
  simp [putTask, setSlot, this]

@[simp] theorem streamOf_setStream (t : Task) (st : Stream) (x : StreamSt) : streamOf (setStream t st x) st = x := by
  cases st <;> rfl
theorem streamOf_setStream_other (t : Task) (st su : Stream) (x : StreamSt) (h : st ≠ su) :
    streamOf (setStream t st x) su = streamOf t su := by
  cases st <;> cases su <;> simp_all [streamOf, setStream]
@[simp] theorem curPc_setPc (t : Task) (st : Stream) (p : Word) : curPc (setPc t st p) st = p := by cases st <;> rfl
@[simp] theorem setPc_setPc (t : Task) (st : Stream) (p q : Word) : setPc (setPc t st p) st q = setPc t st q := by
  cases st <;> rfl
@[simp] theorem streamOf_setReg (t : Task) (st su : Stream) (r : BitVec 5) (v : Word) :
    streamOf (setReg t st r v) su = streamOf t su := by cases su <;> simp [streamOf]
@[simp] theorem streamOf_setPortQueue (t : Task) (su : Stream) (p : Nat) (q : Queue Word) :
    streamOf (setPortQueue t p q) su = streamOf t su := by cases su <;> simp [streamOf]
@[simp] theorem curPc_setReg (t : Task) (st su : Stream) (r : BitVec 5) (v : Word) :
    curPc (setReg t st r v) su = curPc t su := by simp [curPc]
@[simp] theorem curPc_setPortQueue (t : Task) (su : Stream) (p : Nat) (q : Queue Word) :
    curPc (setPortQueue t p q) su = curPc t su := by simp [curPc]

/-- Register 0 discards what is written to it (R131). -/
@[simp] theorem setReg_zero (t : Task) (st : Stream) (v : Word) : setReg t st 0 v = t := by simp [setReg]
@[simp] theorem regVal_zero (t : Task) (st : Stream) : regVal t st 0 = 0 := by simp [regVal]
theorem regVal_setReg (t : Task) (st : Stream) (r : BitVec 5) (v : Word) (h : r ≠ 0) :
    regVal (setReg t st r v) st r = v := by
  unfold regVal setReg
  rw [if_neg h, if_neg h]
  cases st <;> simp
theorem regVal_setReg_other (t : Task) (st : Stream) (r r' : BitVec 5) (v : Word) (h : r ≠ r') :
    regVal (setReg t st r v) st r' = regVal t st r' := by
  have hn : r.toNat ≠ r'.toNat := fun e => h (BitVec.eq_of_toNat_eq e)
  unfold regVal setReg
  by_cases h0 : r = 0
  · rw [if_pos h0]
  · rw [if_neg h0]
    by_cases h1 : r' = 0
    · rw [if_pos h1, if_pos h1]
    · rw [if_neg h1, if_neg h1]
      cases st <;> simp [hn]
@[simp] theorem regVal_setPortQueue (t : Task) (st : Stream) (r : BitVec 5) (p : Nat) (q : Queue Word) :
    regVal (setPortQueue t p q) st r = regVal t st r := by cases st <;> simp [regVal]
@[simp] theorem regVal_setPc (t : Task) (st su : Stream) (r : BitVec 5) (p : Word) :
    regVal (setPc t su p) st r = regVal t st r := by cases st <;> simp [regVal]
@[simp] theorem capVal_zero (t : Task) : capVal t 0 = Cap.null := rfl

end Sys2Proof.Machine
end

