-- ==== Sys2Proof/Laws/Ops.lean ====
section
/-! SUPPORT. What the shared operations answer, each said once: how a meaning is sequenced, operand forms, checks, traps. -/
namespace Sys2Proof.Machine

/-! ### Sequencing -/

@[simp] theorem run_pure {α : Type} (x : α) (s : State) : (pure x : Eff α).run s = .ok (x, s) := rfl

theorem run_bind {α β : Type} (m : Eff α) (f : α → Eff β) (s : State) :
    (m >>= f).run s = match m.run s with
      | .ok (x, s') => (f x).run s'
      | .error e => .error e := by
  rw [StateT.run_bind]
  cases h : m.run s with
  | ok p => rfl
  | error e => rfl

/-- A part that answers leaves the rest to run from where it stopped. -/
theorem run_bind_ok {α β : Type} {m : Eff α} {f : α → Eff β} {s s' : State} {x : α} (h : m.run s = .ok (x, s')) :
    (m >>= f).run s = (f x).run s' := by rw [run_bind, h]

/-- A part that stops, stops the whole. -/
theorem run_bind_error {α β : Type} {m : Eff α} {f : α → Eff β} {s : State} {e : Stop} (h : m.run s = .error e) :
    (m >>= f).run s = .error e := by rw [run_bind, h]

@[simp] theorem run_get (s : State) : (get : Eff State).run s = .ok (s, s) := rfl
@[simp] theorem run_set (s u : State) : (set u : Eff Unit).run s = .ok ((), u) := rfl
@[simp] theorem run_modify (f : State → State) (s : State) : (modify f : Eff Unit).run s = .ok ((), f s) := rfl
@[simp] theorem run_throw {α : Type} (e : Stop) (s : State) : (throw e : Eff α).run s = .error e := rfl
@[simp] theorem run_trapWith {α : Type} (c : Cause) (d : Nat) (a : Word) (s : State) :
    (trapWith c d a : Eff α).run s = .error (.trap { cause := c, detail := BitVec.ofNat 32 d, addr := a }) := rfl
@[simp] theorem run_holdOther {α : Type} (s : State) : (holdOther : Eff α).run s = .error (.hold .other) := rfl
@[simp] theorem run_holdQueue {α : Type} (c : Nat) (s : State) :
    (holdQueue c : Eff α).run s = .error (.hold (.queue (BitVec.ofNat 8 c))) := rfl
@[simp] theorem run_noSubject {α : Type} (s : State) : (noSubject : Eff α).run s = .error .noSubject := rfl

/-! ### How a meaning answers -/

theorem issue_ok {m : Eff Unit} {s s' : State} (h : m.run s = .ok ((), s')) : issue m s = .next s' := by
  simp [issue, h]

theorem issue_trap {m : Eff Unit} {s : State} {i : TrapInfo} (h : m.run s = .error (.trap i)) :
    issue m s = .next (takeTrap s i) := by simp [issue, h]

theorem issue_hold {m : Eff Unit} {s : State} {w : Hold} (h : m.run s = .error (.hold w)) :
    issue m s = .next { s with hold := w } := by simp [issue, h]

theorem issue_ask {m : Eff Unit} {s u : State} (h : m.run s = .error (.ask u)) : issue m s = .next u := by
  simp [issue, h]

theorem event_ok {m : Eff Unit} {s s' : State} (h : m.run s = .ok ((), s')) : event m s = .next s' := by
  simp [event, h]

theorem event_hold {m : Eff Unit} {s : State} {w : Hold} (h : m.run s = .error (.hold w)) :
    event m s = .next { s with hold := w } := by simp [event, h]

theorem event_ask {m : Eff Unit} {s u : State} (h : m.run s = .error (.ask u)) : event m s = .next u := by
  simp [event, h]

/-- An event without a subject has no effect. -/
theorem event_noSubject {m : Eff Unit} {s : State} (h : m.run s = .error .noSubject) :
    event m s = .next { s with hold := .absent } := by simp [event, h]

/-- A meaning at issue always answers a next state. -/
theorem issue_next (m : Eff Unit) (s : State) : ∃ t, issue m s = .next t := by
  unfold issue
  split <;> exact ⟨_, rfl⟩

theorem issueSeq_next (m : Eff Unit) (s : State) : ∃ t, issueSeq m s = .next t := issue_next _ s

/-- So does an event. -/
theorem event_next (m : Eff Unit) (s : State) : ∃ t, event m s = .next t := by
  unfold event
  split <;> exact ⟨_, rfl⟩

/-! ### The task and the stream at issue -/

theorem run_theTask {s : State} {t : Task} (h : taskIn s (curK s) = some t) : theTask.run s = .ok (t, s) := by
  simp [theTask, h]; rfl

@[simp] theorem run_theStream (s : State) : theStream.run s = .ok (s.cur.2, s) := rfl

@[simp] theorem run_setTheTask (t : Task) (s : State) :
    (setTheTask t).run s = .ok ((), putTask s (curK s) t) := rfl

theorem run_modTask {s : State} {t : Task} (f : Task → Task) (h : taskIn s (curK s) = some t) :
    (modTask f).run s = .ok ((), putTask s (curK s) (f t)) := by
  rw [modTask, run_bind_ok (run_theTask h)]; rfl

theorem run_advance {s : State} {t : Task} (h : taskIn s (curK s) = some t) :
    advance.run s = .ok ((), putTask s (curK s) (setPc t s.cur.2 (curPc t s.cur.2 + 4))) := by
  rw [advance, run_bind_ok (run_theStream s)]
  exact run_modTask _ h

theorem run_jumpTo {s : State} {t : Task} (p : Word) (h : taskIn s (curK s) = some t) :
    (jumpTo p).run s = .ok ((), putTask s (curK s) (setPc t s.cur.2 p)) := by
  rw [jumpTo, run_bind_ok (run_theStream s)]
  exact run_modTask _ h

/-- An instruction that goes on to the next one: its own effect, then the program counter. -/
theorem issueSeq_ok {m : Eff Unit} {s s' : State} {t : Task} (h : m.run s = .ok ((), s'))
    (ht : taskIn s' (curK s') = some t) :
    issueSeq m s = .next (putTask s' (curK s') (setPc t s'.cur.2 (curPc t s'.cur.2 + 4))) := by
  apply issue_ok
  rw [run_bind_ok h]
  exact run_advance ht

theorem issueSeq_trap {m : Eff Unit} {s : State} {i : TrapInfo} (h : m.run s = .error (.trap i)) :
    issueSeq m s = .next (takeTrap s i) := issue_trap (run_bind_error h)

theorem issueSeq_hold {m : Eff Unit} {s : State} {w : Hold} (h : m.run s = .error (.hold w)) :
    issueSeq m s = .next { s with hold := w } := issue_hold (run_bind_error h)

theorem issueSeq_ask {m : Eff Unit} {s u : State} (h : m.run s = .error (.ask u)) : issueSeq m s = .next u :=
  issue_ask (run_bind_error h)

/-! ### Operand forms -/

theorem run_readReg {s : State} {t : Task} (r : BitVec 5) (h : taskIn s (curK s) = some t) :
    (readReg r).run s = .ok (regVal t s.cur.2 r, s) := by
  rw [readReg, run_bind_ok (run_theTask h), run_bind_ok (run_theStream s)]; rfl

theorem run_writeReg {s : State} {t : Task} (r : BitVec 5) (v : Word) (h : taskIn s (curK s) = some t) :
    (writeReg r v).run s = .ok ((), putTask s (curK s) (setReg t s.cur.2 r v)) := by
  rw [writeReg, run_bind_ok (run_theStream s)]
  exact run_modTask _ h

theorem run_readCap {s : State} {t : Task} (r : BitVec 5) (h : taskIn s (curK s) = some t) :
    (readCap r).run s = .ok (capVal t r.toNat, s) := by
  rw [readCap, run_bind_ok (run_theTask h)]; rfl

theorem run_writeCap {s : State} {t : Task} (r : BitVec 5) (c : Cap) (h : taskIn s (curK s) = some t) :
    (writeCap r c).run s = .ok ((), putTask s (curK s) (setCap t r.toNat c)) := run_modTask _ h

/-- A pop takes the oldest element. -/
theorem run_popPort {s : State} {t : Task} {p : Nat} {w : Word} {r : Queue Word} (h : taskIn s (curK s) = some t)
    (hq : portQueue t p = some w :: r) :
    (popPort p).run s = .ok (w, putTask s (curK s) (setPortQueue t p r)) := by
  rw [popPort, run_bind_ok (run_theTask h), hq]
  rfl

/-- A pop of an empty queue, or of an entry that is reserved, waits (R136). -/
theorem run_popPort_wait {s : State} {t : Task} {p : Nat} (h : taskIn s (curK s) = some t)
    (hq : ∀ w r, portQueue t p ≠ some w :: r) :
    (popPort p).run s = .error (.hold (.queue (BitVec.ofNat 8 (0x10 + p)))) := by
  rw [popPort, run_bind_ok (run_theTask h)]
  split
  · next w r e => exact absurd e (hq w r)
  · rfl

theorem run_needRoom {s : State} {t : Task} {p : Nat} (h : taskIn s (curK s) = some t)
    (hr : (portQueue t p).length < scalarDepth) : (needRoom p).run s = .ok ((), s) := by
  rw [needRoom, run_bind_ok (run_theTask h), if_pos hr]; rfl

/-- A push waits while the queue is full (R136). -/
theorem run_needRoom_wait {s : State} {t : Task} {p : Nat} (h : taskIn s (curK s) = some t)
    (hr : ¬ (portQueue t p).length < scalarDepth) :
    (needRoom p).run s = .error (.hold (.queue (BitVec.ofNat 8 (0x10 + p)))) := by
  rw [needRoom, run_bind_ok (run_theTask h), if_neg hr]; rfl

theorem run_pushPort {s : State} {t : Task} {p : Nat} (v : Word) (h : taskIn s (curK s) = some t)
    (hr : (portQueue t p).length < scalarDepth) :
    (pushPort p v).run s = .ok ((), putTask s (curK s) (setPortQueue t p (portQueue t p ++ [some v]))) := by
  rw [pushPort, run_bind_ok (run_needRoom h hr)]
  exact run_modTask _ h

/-! ### Checks and traps -/

theorem run_needSupervisor {s : State} {t : Task} (h : taskIn s (curK s) = some t) (hs : t.sup = true) :
    needSupervisor.run s = .ok ((), s) := by
  rw [needSupervisor, run_bind_ok (run_theTask h), hs]; rfl

/-- A privileged form in a user task traps with PRIV (R147). -/
theorem run_needSupervisor_user {s : State} {t : Task} (h : taskIn s (curK s) = some t) (hs : t.sup = false) :
    needSupervisor.run s = .error (.trap { cause := .priv, detail := 0, addr := 0 }) := by
  rw [needSupervisor, run_bind_ok (run_theTask h), hs]; rfl

/-- The checks of an access pass. -/
theorem run_checkAccess {s : State} {t : Task} {a : Access44} {sp : Option Nat} (h : taskIn s (curK s) = some t)
    (hc : accessCheck s t.ctx a sp = none) : (checkAccess a sp).run s = .ok ((), s) := by
  rw [checkAccess, run_bind_ok (run_get s), run_bind_ok (run_theTask h), hc]; rfl

/-- The checks of an access fail with the first cause of R44 that applies. -/
theorem run_checkAccess_trap {s : State} {t : Task} {a : Access44} {sp : Option Nat} {c : Cause} {d : Nat}
    (h : taskIn s (curK s) = some t) (hc : accessCheck s t.ctx a sp = some (c, d)) :
    (checkAccess a sp).run s = .error (.trap { cause := c, detail := BitVec.ofNat 32 d, addr := faultByte s a c d }) := by
  rw [checkAccess, run_bind_ok (run_get s), run_bind_ok (run_theTask h), hc]; rfl

/-- A trap of the instruction at issue is taken in its slot, with its own address. -/
theorem takeTrap_running {s : State} {t : Task} (i : TrapInfo) (h : taskIn s (curK s) = some t) :
    takeTrap s i = takeTrapAt s (curK s) s.cur.2 false i (curPc t s.cur.2) := by
  simp [takeTrap, h]

/-- A break suspends its task behind its report, at the instruction after it (R324, R357). -/
theorem takeTrapAt_brk {s : State} {t : Task} {k : Nat} (st : Stream) (cmd : Bool) (d : BitVec 32) (a pc : Word)
    (h : taskIn s k = some t) :
    takeTrapAt s k st cmd { cause := .brk, detail := d, addr := a } pc =
      takeSuspend (faultReport s (reportPayload 0x1A 0 (whoByte st k false true) t.chan.toNat t.msgid.toNat 0 pc 0 []))
        k (setPc t st (pc + 4)) st { cause := .brk, detail := d, addr := a } pc (.brk (BitVec.ofNat 2 k)) := by
  simp [takeTrapAt, h]

/-! ### What every part of a meaning keeps -/

/-- Whatever `m` answers or asks for, `P` holds after it when it held before it. -/
def Keeps {α : Type} (P : State → Prop) (m : Eff α) : Prop :=
  ∀ s, P s → match m.run s with
    | .ok (_, s') => P s'
    | .error (.ask s') => P s'
    | .error _ => True

theorem keeps_ok {α : Type} {P : State → Prop} {m : Eff α} (h : Keeps P m) {s s' : State} {x : α} (hs : P s)
    (e : m.run s = .ok (x, s')) : P s' := by
  have := h s hs; rw [e] at this; exact this

theorem keeps_pure {α : Type} {P : State → Prop} (x : α) : Keeps P (pure x : Eff α) := fun _ h => h

theorem keeps_bind {α β : Type} {P : State → Prop} {m : Eff α} {f : α → Eff β} (h : Keeps P m)
    (hf : ∀ x, Keeps P (f x)) : Keeps P (m >>= f) := by
  intro s hs
  have hm := h s hs
  rw [run_bind]
  cases e : m.run s with
  | ok p =>
    rw [e] at hm
    exact hf p.1 p.2 hm
  | error e' =>
    rw [e] at hm
    cases e' <;> simp_all

theorem keeps_get {P : State → Prop} : Keeps P (get : Eff State) := fun _ h => h
theorem keeps_modify {P : State → Prop} {f : State → State} (h : ∀ s, P s → P (f s)) :
    Keeps P (modify f : Eff Unit) := fun s hs => h s hs
theorem keeps_trapWith {α : Type} {P : State → Prop} (c : Cause) (d : Nat) (a : Word) :
    Keeps P (trapWith c d a : Eff α) := fun _ _ => trivial
theorem keeps_holdOther {α : Type} {P : State → Prop} : Keeps P (holdOther : Eff α) := fun _ _ => trivial
theorem keeps_holdQueue {α : Type} {P : State → Prop} (c : Nat) : Keeps P (holdQueue c : Eff α) :=
  fun _ _ => trivial
theorem keeps_noSubject {α : Type} {P : State → Prop} : Keeps P (noSubject : Eff α) := fun _ _ => trivial
theorem keeps_ite {α : Type} {P : State → Prop} {c : Prop} [Decidable c] {m n : Eff α} (hm : Keeps P m)
    (hn : Keeps P n) : Keeps P (if c then m else n) := by
  split <;> assumption

/-- A meaning at issue keeps what its effect, taking a trap and being held keep. -/
theorem issue_keeps {P : State → Prop} {m : Eff Unit} (h : Keeps P m) (ht : ∀ s i, P s → P (takeTrap s i))
    (hh : ∀ s w, P s → P { s with hold := w }) {s t : State} (hs : P s) (e : issue m s = .next t) : P t := by
  have hm := h s hs
  unfold issue at e
  cases hr : m.run s with
  | ok p =>
    rw [hr] at hm e
    cases e
    exact hm
  | error x =>
    rw [hr] at hm e
    cases x with
    | hold w => cases e; exact hh _ _ hs
    | trap i => cases e; exact ht _ _ hs
    | noSubject => cases e; exact hh _ _ hs
    | ask u => cases e; exact hm

end Sys2Proof.Machine
end

