-- ==== Sys2Proof/Laws/PerInstr.lean ====
section
/-! SUPPORT. Lemmas made per instruction. -/
namespace Sys2Proof.Laws

end Sys2Proof.Laws
end

