-- ==== Sys2Proof/Tests/Slice0.lean ====
section
/-! SUPPORT. Tests: ill-formed instructions that the check refuses, words that decode as the encoding tables say, and for
each statement with hypotheses concrete states and operands that meet them. The states are those of `demo`: context 1 with one task in
slot 0, built by hand; no value of them comes from the spec. -/

open Sys2Proof Sys2Proof.Machine Sys2Proof.Claims

namespace Sys2Proof.Tests

set_option Elab.async false

/-- A capability over `len` bytes of core 0's scratchpad from `off`. -/
def capS (off len : Nat) (perms : BitVec 16) : Cap :=
  capMake (BitVec.ofNat 64 (2 ^ 62 + off)) (2 ^ 62 + off) (2 ^ 62 + off + len) perms 0 true

/-- A capability over `len` bytes of core 0's main memory from `off`. -/
def capD (off len : Nat) (perms : BitVec 16) : Cap :=
  capMake (BitVec.ofNat 64 off) off (off + len) perms 0 true

/-- A capability over the first 65536 bytes of main memory of core 1 of package 0. -/
def capF (perms : BitVec 16) : Cap := capMake (mkVa 0 0 1 0) (2 ^ 43) (2 ^ 43 + 65536) perms 0 true

/-- A supervisor task of context 1 that holds ADMIN in c6, its scratchpad in c1 and its page of main memory in c2. -/
def demoTask : Task :=
  let t := placedTask State.reset .A
  let t := setCap (setCap t 6 (capS 0 64 0xFFFF)) 1 (capS 0 65536 0xFFFF)
  { setCap t 2 (capD 0 65536 0xFFFF) with sup := true, tid := 7 }

/-- Context 1 with that task in slot 0; its page 0 of space 0 is frame 8, readable by others and writable. -/
def demo : State :=
  let s := State.reset.withFetchWord 32 0
  let m := putBytes (putBytes s.home.mem 8 (leBytes 8 0x40014005)) 327680 (leBytes 8 0x181)
  let m := putBytes (putBytes m 393216 (leBytes 8 0x1C1)) 458752 (leBytes 8 0x20B)
  { s with home := { s.home with mem := m }, regs := { s.regs with tblcfg := 0x80000, ctxsave := 100 }, cx := { s.cx with chanbase := 0x100000 }, slots := #v[.running demoTask, .free, .free, .free] }

/-- The demo state with another task in slot 0. -/
def run (t : Task) : State := { demo with slots := #v[.running t, .free, .free, .free] }

/-- A state with channel `n` present: its flags, and a ring of 4096 bytes. -/
def tabled (s : State) (n flags : Nat) : State :=
  let bs := leBytes 8 flags ++ leBytes 8 (0x110000 + 2 ^ 32) ++ leBytes 8 0
  { s with cx := { s.cx with sram := putBytes s.cx.sram (0x100000 + 64 * n + 32) bs } }

/-- The same with its execute stream at issue. -/
def runE (t : Task) : State := { run t with cur := (0, .E) }

/-- The demo task with registers of its access stream. -/
def withA (l : List (BitVec 5 × Word)) : Task := l.foldl (fun t p => setReg t .A p.1 p.2) demoTask

def queued : Task :=
  { withA [(3, 9), (31, 64)] with sq := #v[[some 5, some 6], []], lq := #v[[some 1, some 2, some 3, some 4, some 5, some 6, some 7], [], [], [some 1, some 2, some 3, some 4, some 5, some 6, some 7, some 8]] }

def flagged5 : Task :=
  { demoTask with sf := 0x8020, vlq := [some 1], vsq := [some 1, none], sq := #v[[some 5, some 6], []] }

def allEmpty : Task :=
  { demoTask with lq := #v[[], [], [], []], sq := #v[[], []], vlq := [], vsq := [] }

def allFull : Task :=
  { demoTask with lq := Vector.replicate 4 (List.replicate 8 (some 1)), sq := Vector.replicate 2 (List.replicate 8 (some 1)), vlq := List.replicate 4 (some 1), vsq := List.replicate 4 (some 1) }

def rowOf (n : BitVec 12) (v : Word) : State :=
  { demo with access := { Access.none with addr := .control n, value := v } }

def userTask : Task :=
  { demoTask with sup := false }

def noAdmin (c : Cap) : Task :=
  setCap demoTask 6 c

def seen (o : Bool) : Task :=
  { demoTask with obs := [(⟨0, 1, false⟩, 5), (⟨1, 0, false⟩, 3)], obsOver := o }

def lined (t : Task) (b : List SbEntry) : State :=
  { run t with sb := b, lines := [⟨1, ⟨0, 1, false⟩, 5, 0, 0, 4, 0, 0, false, false⟩, ⟨1, ⟨0, 1, false⟩, 6, 0, 0, 5, 0, 1, false, false⟩] }

def oneStore : List SbEntry :=
  [⟨1, 7, BitVec.ofNat 64 (2 ^ 62), some (.sram 0), .data [1, 2, 3, 4, 5, 6, 7, 8] false, false⟩]

def cored (t : Task) : State :=
  { run t with cx := { demo.cx with cores := [(0, 0), (0, 1), (511, 1023)] } }

def waits (w : Wait) : Task :=
  { demoTask with sa := { demoTask.sa with wait := w } }

def demoReq (th : Word) : WatchReq :=
  ⟨0, 0, 1, capVal demoTask 1, th, 63⟩

def watching (n : Nat) : State :=
  { demo with watches := List.replicate n ⟨0, 1, 1, 0, 1, 2⟩ }

def spawnedTask : Task :=
  { demoTask with spawned := true, numflags := 3, a := vset demoTask.a 3 0x123456789 }

def returning : State :=
  { run { demoTask with names := some 9 } with
    slots := #v[.running { demoTask with names := some 9 }, .free, .free, .held { demoTask with tid := 9 } (.brk 1)] }

def suspRoom (n : Nat) : State :=
  { demo with cx := { demo.cx with suspCap := n } }

def fullSlice (va : Word) : State :=
  putSlice demo (sliceNo 1 va) { Slice.none with waiting := List.replicate 256 ⟨1, 3, ⟨0, 1, false⟩, 0, 5⟩ }

def holding (c : Cap) : Task :=
  setCap demoTask 3 c

def armed (t : Task) : State :=
  { run t with cx := putChain demo.cx 31 { Chain.idle with armed := true, base := 64, count := 4 } }

def filled (t : Task) : State :=
  { run t with permits := [⟨1, 0, false⟩], cx := { demo.cx with sram := putBytes demo.cx.sram 0 (leBytes 16 0xF0F1F2F3F4F5F6F7F8F9FAFBFCFDFEFF) } }

def storing : Task :=
  { withA [(4, 8), (5, 0x1122334455667788)] with sq := #v[[some 0xAB, some 8], [some 16]], vsq := [some 3, some 4] }

def hostCap : Cap :=
  capMake (mkVa 2 0 0 0) (2 ^ 63) (2 ^ 63 + 4096) 0xFFFF 0 true

def windowed (t : Task) : State :=
  { run t with pk := { demo.pk with wins := [⟨1, 0, 0, 1 + 2 ^ 30 + 2 ^ 63⟩], streams := [⟨1, 0, 0, true, false, 0, 0⟩] } }

def foreign (w : Wait) : Task :=
  { holding (capF 0xFFFF) with sa := { demoTask.sa with wait := w } }

def cachedLine : State :=
  { run (foreign .ready) with lines := [⟨1, ⟨0, 1, false⟩, 2 ^ 37, 0x0807060504030201, 0, 4, 0, 0, false, false⟩] }

def asked : State :=
  { run (foreign (.read 5 none)) with pending := [⟨5, 0, 7, 1, ⟨0, 1, false⟩, mkVa 1 0 1 0, 8, false, .load, Cap.null, .live⟩] }

def twoReads : State :=
  { run (foreign .ready) with pending := [⟨5, 0, 7, 1, ⟨0, 1, false⟩, mkVa 1 0 1 0, 8, false, .load, Cap.null, .live⟩] }

def lineRead : Pending :=
  ⟨5, 0, 7, 1, ⟨0, 1, false⟩, mkVa 0 0 1 64, 64, true, .load, Cap.null, .live⟩

def sealedAnswer (d : BitVec 512) : ReadReply :=
  ⟨5, leBytes 64 (xtsSeal ((0 : BitVec 768).extractLsb' 0 512) (lineTweak 1 (mkVa 0 0 1 64)) d).toNat, [], none, 3, false, false, none, none⟩

def windowStored : State :=
  { windowed (holding hostCap) with sb := [⟨1, 7, mkVa 2 0 0 8, none, .data [1, 2, 3, 4, 5, 6, 7, 8] false, false⟩] }

def reserved : Task :=
  setPortQueue (waits (.atomic 9 (some 3))) 3 [some 1, none, none]

def atomicAt (l : Option Loc) (op : BitVec 4) : State :=
  { filled (waits (.atomic 9 none)) with sb := [⟨1, 7, 0, l, .amo op true 0xFFFFFFFFFFFFFFF0 0xF8F9FAFBFCFDFEFF 9, false⟩] }

def atomicHost (op : BitVec 4) : State :=
  { windowed (waits (.atomic 9 none)) with pk := { (windowed demoTask).pk with wins := [⟨1, 0, 0, 1 + 2 ^ 30 + 2 ^ 31 + 2 ^ 63⟩] }, sb := [⟨1, 7, mkVa 2 0 0 8, none, .amo op true 0xFFFFFFFFFFFFFFF0 0xF8F9FAFBFCFDFEFF 9, false⟩] }

def lostWord : State :=
  { atomicAt (some (.sram 0)) 15 with cx := { demo.cx with sramErr := [(0, .uncorrectable)] } }

def spilling (n : Nat) : Task :=
  { withA [(3, 0x77)] with spillDepth := n, lq := #v[[some 1, some 2], [], [], []] }

def carved (t : Task) : State :=
  { run t with cx := { demo.cx with spillbase := 256, spilllim := 260 } }

def entry (l : Option Loc) (k : SbKind) : State :=
  { filled demoTask with sb := [⟨1, 7, 16, l, k, false⟩] }

def authority (n : Nat) : Cap :=
  capMake (BitVec.ofNat 64 n) 1 16 0x1600 0 true

def copying : Task :=
  setCap { setCap (holding (capF 0xFFFF)) 4 (capS 0x8000 32 0xFFFF) with
    a := vset (vset (vset (vset (vset demoTask.a 5 64) 8 0x6400000032) 9 0x300000028) 7 0x103) 10 0x1000000,
    vsq := [some (BitVec.ofNat 2048 0x1000000008000000000), some 4] } 5 (capS 0 4096 0xFFFF)

def command (kind : CopyKind) (src dst : Cap) (n : Nat) : CopyCmd :=
  ⟨5, 7, 0, 1, kind, src, dst, n, none, some 0, false, [], [], [], 0, false, false, 0, 0, 0, []⟩

def entered (i : Nat) : CopyCmd :=
  { command .copy Cap.null Cap.null 0 with id := i, started := true, entry := some (BitVec.ofNat 3 i) }

def pulling : State :=
  { demo with pending := [⟨3, 0, 7, 1, ⟨0, 1, false⟩, mkVa 0 0 1 0, 200, false, .copy 9, capF 0xFFFF, .live⟩] }

def engine (c : CopyCmd) : State :=
  { filled demoTask with copies := [c] }

def landing (n : Nat) : CopyCmd :=
  { command .pull (capF 0xFFFF) (capS 100 200 0xFFFF) 200 with
    started := true, done := n, got := [⟨⟨3, 0, mkVa 0 0 1 0, 200⟩, (List.range 200).map (BitVec.ofNat 8), [], none⟩] }

def done (o : Option (BitVec 22)) : CopyCmd :=
  { command .copy (capS 0 64 0xFFFF) (capS 128 64 0xFFFF) 64 with started := true, done := 64, obj := o }

def w0 (op dst a b : Nat) (acc : Bool) (fa fb fo : Nat) : Word :=
  BitVec.ofNat 64 (op + dst * 2 ^ 16 + a * 2 ^ 20 + b * 2 ^ 24 + acc.toNat * 2 ^ 28 + fa * 2 ^ 32 + fb * 2 ^ 36 + fo * 2 ^ 40)

def w3 (row rows col cols : Nat) : Word :=
  BitVec.ofNat 64 (row * 2 ^ 16 + (rows - 1) * 2 ^ 25 + col * 2 ^ 34 + (cols - 1) * 2 ^ 43)

def tcmd (a b c : Word) : MxCmd :=
  ⟨0, 7, 1, .E, 0x1000, a, b, 0, c, Cap.null, 0, []⟩

def shape (fmt rows cols : Nat) : Word :=
  BitVec.ofNat 64 (fmt + rows * 2 ^ 8 + cols * 2 ^ 20)

def tiled : State :=
  { runE demoTask with cx := { demo.cx with tshape := #v[shape 1 4 8, shape 1 4 8, shape 3 4 8, shape 4 8 4, shape 3 8 4, shape 8 4 32, shape 3 4 32, 0], wctl := #v[5, 0xFFF0] } }

def started (c : MxCmd) : State :=
  { tiled with mxRun := some (withExponents tiled (sample tiled c)) }

def runOf (c : MxCmd) : MxRun :=
  withExponents tiled (sample tiled c)

def literal (a b c d : Word) : State :=
  { demo with home := { demo.home with mem := putBytes demo.home.mem 5505024 (leBytes 8 a.toNat ++ leBytes 8 b.toNat ++ leBytes 8 c.toNat ++ leBytes 8 d.toNat) } }

def queuedMx (l : List MxCmd) : State :=
  { tiled with mxQueue := l }

def spoilt (c : MxCmd) : State :=
  { queuedMx [c] with cx := { tiled.cx with sramErr := [(0, .uncorrectable)] } }

def arrivedRun (c : MxCmd) : MxRun :=
  { runOf c with arrived := true, gangcfg := 0x10000000000000 }

def ganged (l : List GangArrival) (r : MxRun) : State :=
  { tiled with mxRun := some r, cx := { tiled.cx with gang := l } }

def other : GangArrival :=
  { ownArrival tiled (runOf (tcmd (w0 0x21 0 0 1 false 1 1 0) 0 (w3 0 4 0 4))) with member := 3 }

def draining (r : MxRun) : State :=
  { tiled with mxRun := some r }

def reported (f : Nat) (p : Option (Nat × Nat)) : MxRun :=
  { runOf (tcmd (w0 0x20 0 0 1 true 1 1 0) 0 (w3 124 4 60 4)) with report := { flags := f, sats := 1, cvts := 0, flagAt := p, nanAt := none } }

def trapping : Task :=
  { demoTask with cmdTrap := some ⟨⟨.gangTimeout, 3, 0⟩, 0x40, .E⟩ }

def armK (b : Bool) (m : BitVec 3) : Chain :=
  { Chain.idle with armed := b, mode := m, base := 0x200, count := 16, status := 0x11000020002 }

def demoFlit (seq : Nat) : Flit :=
  ⟨⟨0, 1, 5⟩, seq, 1, 1, 2, 3, true, [7], [false], 0, false⟩

def chained (b : Bool) (l : List OvfEntry) (t : Task) : State :=
  { run t with cx := putChain demo.cx 2 (armK b 0), ovf := l }

def linked (t : Task) : State :=
  { run t with cx := { demo.cx with endpoints := vset demo.cx.endpoints 4 (some ⟨0, 1, 5, 9, 6⟩), chains := (putChain demo.cx 2 (armK true 0)).chains } }

def chainWord (core row0 n e : Nat) : Word :=
  BitVec.ofNat 64 (2 + core * 2 ^ 5 + row0 * 2 ^ 24 + (n - 1) * 2 ^ 31 + e * 2 ^ 38)

def demoContrib (core : BitVec 10) (rows : Option (Bool × BitVec 7 × BitVec 7)) : Contrib :=
  ⟨5, 7, 1, 2, 0, core, 1, 3, rows, (List.range 64).map (BitVec.ofNat 32), 0⟩

def sendsNext (core : BitVec 10) (rows : Option (Bool × BitVec 7 × BitVec 7)) : State :=
  { linked demoTask with sendQueue := [demoContrib core rows] }

def sendsNow (core : BitVec 10) (n : Nat) : State :=
  { linked demoTask with sending := [⟨demoContrib core none, flitsOf demo (demoContrib core none), n⟩] }

def lastFlit : Flit :=
  { demoFlit 0 with last := true }

def lastDue (l : List SbEntry) : State :=
  { chained true [] demoTask with cx := putChain demo.cx 2 { armK true 0 with status := 0x00020001 }, sb := l }

def closingIn (k : Nat) : State :=
  { chained true [] demoTask with cx := putChain demo.cx 2 { armK true 0 with closing := some k } }

def sendWord (chan core len slots : Nat) : Word :=
  BitVec.ofNat 64 (chan + core * 2 ^ 6 + len * 2 ^ 25 + slots * 2 ^ 31)

def ported (r : Bool) (t : Task) : Task :=
  { t with port := some ⟨7, 1, 0, 6, 0, 3, recordOf demo demoTask, r, []⟩ }

def supTabled (t : Task) : State :=
  tabled (run t) 7 0x30011

def granted (l : List GrantRec) : State :=
  { demo with pk := { demo.pk with grants := l } }

def epCap : Cap :=
  capPut (capMake (mkVa 2 0 1 0) ((mkVa 2 0 1 5).toNat) ((mkVa 2 0 1 9).toNat) 0xFFFF 2 true) 0 0 0

def spawning (g : Option Bool) : Task :=
  { withA [(4, sendWord 7 1 0 0), (5, 55)] with sa := { demoTask.sa with wait := .spawn 0 0 1 (sendWord 7 1 0 0) 1 g } }

def rooted (s : State) : State :=
  { s with cx := { s.cx with rootCode := capD 0 65536 0xFFFF } }

def openTarget : State :=
  rooted (tabled demo 7 0x1)

def spawnMsg : Message :=
  ⟨mkHdr0 0 0 7 1 0, mkHdr1 77 32 1 1 false 1, pairSlot 11 12, pairSlot 13 14, Cap.null, none⟩

def reservedFor : State :=
  setSlot openTarget 1 (.reserved 3 0 1 7)

def chanPacket (sup : Bool) : ChanPacket :=
  ⟨.enable, 7, 1, 1, 0, 1, sup⟩

def packetNo (src : BitVec 10) (n : Nat) : Event :=
  ⟨.channelBitArrival (chanPacket true), { Access.none with packet := some ⟨0, src, n⟩ }⟩

def dataMsg : Message :=
  ⟨mkHdr0 0 0 7 1 0, mkHdr1 77 32 0 1 false 1, pairSlot 11 12, pairSlot 13 14, Cap.null, none⟩

def offTarget : State :=
  rooted (tabled demo 7 0x2)

def fullTarget : State :=
  { offTarget with cx := setChanRing offTarget.cx 7 0 4096 }

def holdsOne (cfg : Word) : State :=
  { fullTarget with cx := { fullTarget.cx with held := [.message dataMsg] }, regs := { demo.regs with ovfcfg := cfg } }

def routing (t : Task) : Task :=
  { t with se := { t.se with wait := .route } }

def far : Port :=
  ⟨7, 1, 1, 6, 0, 3, recordOf demo demoTask, false, []⟩

def farPort (up : Bool) : State :=
  { run (routing { demoTask with port := some far }) with members := [0, 1], pk := { demo.pk with links := Vector.replicate 72 { Link.reset with state := if up then 1 else 2, lanes := 15 } } }

def blockedPort : State :=
  { demo with slots := #v[.running (routing { demoTask with port := some { far with dpkg := 0, dcore := 0 } }), .running { demoTask with tid := 9, port := some { far with dpkg := 0, dcore := 0, routed := true } }, .free, .free] }

def heldOp : State :=
  { demo with cx := { demo.cx with held := [.chanop (chanPacket true)] } }

def streamFlit (stream : Nat) : StreamFlit :=
  ⟨0, 1, 1, 1, 7, false, stream, ⟨⟨0, 1, false⟩, 9, false⟩, .word 5⟩

def gathering (n : Nat) : State :=
  { fullTarget with cx := { fullTarget.cx with inStreams := [⟨7, 0, 1, 1, false, 3, List.replicate n 1, 0, ⟨⟨0, 1, false⟩, 9, false⟩⟩] } }

def stopping (x : EndStage) (l : List Staged) : Task :=
  { demoTask with ending := x, staged := l, spawned := true, numflags := 3 }

def farMsg : Message :=
  ⟨mkHdr0 1 0 7 0 0, mkHdr1 77 32 0 1 false 1, pairSlot 11 12, pairSlot 13 14, Cap.null, none⟩

def mapped (t : Task) : State :=
  { run t with permits := [⟨1, 0, false⟩], regs := { demo.regs with rvcfg := 1 }, home := { demo.home with mem := putBytes demo.home.mem 524288 [0xF0] } }

def portReq (c : Cap) (va : Word) (n : Nat) : PortReq :=
  ⟨5, ⟨0, 1, false⟩, 1, .engine, c, va, n⟩

def nearEnd : Cap :=
  capS 0x3FFF00 0x100 0xFFFF

def portFenced : State :=
  { demo with core := 0, pkg := 1, members := [1], pk := { demo.pk with fenced := [0] } }

def keyed : State :=
  { demo with pk := { demo.pk with keys := [(3, ⟨.active, 1, 0x1234⟩)] } }

def sliceReq (va : Word) (k : SliceKind) : SliceReq :=
  ⟨9, ⟨0, 1, false⟩, 0, 1, va, k⟩

def unkeyed : State :=
  { demo with pk := { demo.pk with keys := [] } }

def waitFull (va : Word) : State :=
  putSlice keyed (sliceNo 1 va) { Slice.none with waiting := List.replicate 256 ⟨1, 1, ⟨0, 1, false⟩, 0, 9⟩ }

def filledAt (va : Word) (k : SliceKind) : State :=
  putSlice keyed (sliceNo 1 va) { Slice.none with fills := [(sliceReq va k, [sliceReq va k])] }

def paged (l : Bool) (va : Word) : State :=
  { demo with slots := Vector.replicate 4 (.running { demoTask with tid := 1 }), cx := { demo.cx with susp := [(demoTask, .page va l)] } }

def oneLine : State :=
  { demo with lines := [⟨1, ⟨0, 1, false⟩, lineOf (mkVa 0 0 1 0x80), 0, 0, 4, 0, 0, false, false⟩] }

def writing (op : Nat) (ctx lv page : Nat) (v : Word) : State :=
  { demo with access := { Access.none with addr := .control 0x8A2, value := v, write := true }, regs := { demo.regs with ptwa := BitVec.ofNat 64 (ctx + lv * 2 ^ 13 + page * 2 ^ 16 + op * 2 ^ 62) } }

def demoOp (copying acked : Bool) : TableOp :=
  ⟨⟨0, 0, 1, false, 3, 0, 1, copying, true⟩, (7, 0), 0x20B, 0x24B, copying, acked, acked⟩

def operating (c a : Bool) : State :=
  { demo with members := [0, 3, 5], tableOp := some (demoOp c a) }

def demoInv : Invalidation :=
  ⟨0, 1, 1, false, 3, 0, 1, false, true⟩

def page (ctx : BitVec 12) (off : Nat) (v : Word) (s : State) : State :=
  { s with access := { Access.none with addr := .aperture (BitVec.ofNat 32 (0x100000 + 0x1000 * ctx.toNat + off)) true 3, value := v, write := true } }

def outCtx (r : Residency) : CtxState :=
  { demo.cx with num := 2, residency := r, launchNo := 4, runq := [.chan 7 1 9], tshape := Vector.replicate 8 0x11 }

def shared (r : Residency) : State :=
  { demo with others := [outCtx r], pk := { demo.pk with bootstat := 6 } }

def fatal (s : State) : State :=
  { s with pk := { s.pk with fatals := [2] } }

def quiet (r : Residency) (q : Bool) : State :=
  { shared r with slots := Vector.replicate 4 .free, switchReq := q }

def demoRecord : List Byte :=
  leBytes 4 1 ++ leBytes 4 64 ++ leBytes 8 0 ++ leBytes 4 100 ++ leBytes 12 0 ++ leBytes 4 0x80000 ++ leBytes 4 1 ++ leBytes 8 0 ++
  leBytes 4 96 ++ leBytes 4 1120 ++ leBytes 4 0 ++ leBytes 4 1120 ++ leBytes 32 0 ++ leBytes 4 0 ++ leBytes 4 0xFFFFFFFF ++
  leBytes 4 9 ++ leBytes 1 0x10 ++ leBytes 2 16 ++ leBytes 1 0 ++
  (List.replicate 63 (leBytes 13 0 ++ leBytes 2 16 ++ leBytes 1 0)).flatten

def demoPlan (r : List Byte) (ps : List (BitVec 9)) (l : Option Nat) : LaunchPlan :=
  ⟨3, r, List.replicate 64 0x58, ps, l, 2, 5, 7, 9, [(0, 0)]⟩

def submitted (r : List Byte) (ps : List (BitVec 9)) : LaunchSubmit :=
  ⟨3, r, List.replicate 64 0x58, ps, []⟩

def ready : State :=
  page 3 0 0 { State.reset with pk := { Package.reset with bootstat := 6 }, regs := { CoreRegs.reset with tblcfg := 0x80014, ctxsave := 0x3E8 } }

def launching (p : LaunchPhase) (a : List (BitVec 9)) (ps : List (BitVec 9)) : State :=
  { ready with pk := { ready.pk with launches := [⟨demoPlan demoRecord ps (some 0), p, a⟩] } }

def planned (l : Option Nat) : State :=
  { ready with pk := { ready.pk with prepared := [demoPlan demoRecord [0, 4] l] } }

def committing : State :=
  { planned (some 0) with cx := { (CtxState.fresh 3) with suspCap := 2 } }

def denied (w : Bool) : State :=
  { demo with access := { Access.none with addr := .aperture 0x101018 false 3, value := 5, write := w } }

def winOf (b : Word) : HostWin :=
  ⟨1, 2, 0x1000, b⟩

def winState (b : Word) (v : Word) : State :=
  page 1 0x128 v { demo with pk := { demo.pk with wins := [winOf b], streams := [⟨1, 4, 3, true, true, 8, 9⟩] }, cx := { demo.cx with regions := [(0x100, 0x100)] } }

def boundState (v : Word) : State :=
  { winState 0 0 with access := { Access.none with addr := .aperture 0x101220 true 3, value := v, write := true } }

def askedState (r : Request) (k : List (Nat × KeySlot)) : State :=
  { demo with access := { Access.none with addr := .aperture 0x100000 true 0, request := r }, pk := { demo.pk with keys := k } }

def keys : List (Nat × KeySlot) :=
  [(3, ⟨.active, 1, 0x1234⟩), (4, ⟨.provisioned, 1, 5⟩), (5, ⟨.retiring, 2, 6⟩), (6, ⟨.revoked, 1, 6⟩), (7, ⟨.provisioned, 2, 6⟩)]

def grantReq (p : BitVec 12) : GrantReq :=
  ⟨p, 1, 2, 0, 3, 4, 5, false⟩

def granting : State :=
  { demo with cx := { demo.cx with endpoints := vset demo.cx.endpoints 4 (some ⟨0, 3, 4, 6, 2⟩) }, pk := { demo.pk with grants := [grantOf (grantReq 1)] } }

def sharedAt (off : Nat) (v : Word) : State :=
  { demo with access := { Access.none with addr := .aperture (BitVec.ofNat 32 off) false 0, value := v } }

def upLink (lanes : BitVec 4) (r : List LinkFlit) : Link :=
  { Link.reset with state := 0, lanes := lanes, txSeq := 4, rxSeq := 7, replay := r, sent := 6, laneErr := #v[0, 17, 0, 0] }

def outFlit (n : Nat) : LinkFlit :=
  ⟨true, none, BitVec.ofNat 12 n, 0, 0, 5, 0, 0⟩

def inFlit (type : BitVec 2) (seq : BitVec 12) (x : BitVec 960) : LinkFlit :=
  let f : LinkFlit := ⟨false, none, seq, 3, type, x, 0, 2⟩
  { f with crc := crcOf (flitBytes f) }

def spoiltFlit : LinkFlit :=
  { inFlit 0 7 1 with crc := ~~~ crcOf (flitBytes (inFlit 0 7 1)) }

def linkUpState (lanes : BitVec 4) (r : List LinkFlit) : State :=
  putLink { demo with members := [0, 3] } 70 (upLink lanes r)

def farRead (p : ReadFor) : Pending :=
  ⟨5, 0, 7, 1, ⟨3, 1, false⟩, mkVa 0 3 1 64, 64, true, p, Cap.null, .live⟩

def fencedLoad : State :=
  { run (waits (.read 5 none)) with pending := [farRead .load] }

def askedPart : CopyPart :=
  ⟨5, 0, mkVa 0 3 1 64, 64⟩

def copyAsking : CopyCmd :=
  { command .copy (capD 0 64 0xFFFF) Cap.null 64 with started := true, parts := [askedPart] }

def fencedCopy : State :=
  { demo with copies := [copyAsking], pending := [farRead (.copy copyAsking.id)] }

def fencedRoute : State :=
  run (routing { demoTask with port := some { far with dpkg := 3 } })

def farContrib : Contrib :=
  { demoContrib 1 none with hpkg := 3 }

def fencedFlits : State :=
  { demo with sending := [⟨farContrib, flitsOf demo farContrib, 1⟩] }

def farWatch : Watch :=
  ⟨0, 0, 1, mkVa 1 3 1 0x40, 5, 2⟩

def fencedWatch : State :=
  { demo with placed := [farWatch] }

def fencedCores : State :=
  { supTabled demoTask with cx := { (supTabled demoTask).cx with cores := [(0, 0), (3, 9)] } }

def found : ChannelFound :=
  ⟨70, none, true, 3, [4, 5]⟩

def stage (n f : Nat) : State :=
  { State.reset with pk := { Package.reset with bootstat := BitVec.ofNat 64 (n + f * 16) } }

def quadOut : State :=
  { stage 4 0 with pk := { (stage 4 0).pk with stacksOut := [8, 9, 10, 11, 12, 13, 14, 15] } }

def fetching (w : Nat) : State :=
  State.reset.withFetchWord 32 w

def early5 : Access :=
  { Access.none with packet := some ⟨0, 1, 5⟩ }

def early : State :=
  { fetching 0x04611000 with inputs := [⟨.channelBitArrival (chanPacket true), early5⟩] }

def overtaken : State :=
  { ready with tableOp := some (demoOp false false), inputs := [⟨.prepare (demoPlan demoRecord [0, 4] (some 0)), Access.none⟩, ⟨.launchAbort 3, Access.none⟩] }

def bothTrap : State :=
  let s := fetching 0x5c600008
  match slotAt s 0 with
  | .running t => { s with slots := #v[.running { t with se := t.sa }, .free, .free, .free] }
  | _ => s

def inbound : State :=
  { fetching 0x04611000 with inputs := [⟨.firmwareUpdate true, Access.none⟩], pk := { Package.reset with bootstat := 0x41 } }

def pausing : State :=
  { fetching 0x04611000 with slots := #v[.running { demoTask with wdbudget := 0 }, .free, .free, .free] }

def firstA : BitVec 2 × Stream :=
  (0, .A)

def unitDue : State :=
  { fetching 0x04611000 with turn := true, sb := [⟨1, 7, BitVec.ofNat 64 (2 ^ 62), some (.sram 0), .data [1, 2] false, false⟩] }

def inexact : Task :=
  setCap (withA [(4, 0x10000000001)]) 3 (capMake 0 0 (2 ^ 64) 0xFFFF 0 true)

def partStored : State :=
  { windowed (holding hostCap) with sb := [⟨1, 7, mkVa 2 0 0 8, none, .data [1, 2, 3, 4] false, false⟩] }

def badLine : State :=
  { cachedLine with lines := cachedLine.lines.map (fun l => { l with bad := true }) }

def deadRead : State :=
  { asked with pending := asked.pending.map (fun p => { p with fate := .dead }) }

def pooled (c : BitVec 10) : State :=
  { cachedLine with core := c, poolPeers := true, cx := { cachedLine.cx with vgroup := 1 } }

def fillingStore : State :=
  { filledAt 0x40 .read with sb := [⟨1, 7, 0x40, some (.hbm 0x80040), .data [1, 2] false, false⟩] }

def readOnly : State :=
  { demo with home := { demo.home with mem := putBytes demo.home.mem 458752 (leBytes 8 0x203) } }

def lostEntry : State :=
  { demo with home := { demo.home with errors := [(10240, 1 + 2 ^ 100)] } }

def arming (b : Bool) (c : Cap) (w : Word) : State :=
  chained b [] (setCap (withA [(4, w)]) 3 c)

def contributing (m : BitVec 3) (w : Word) : State :=
  { linked (withA [(4, w)]) with cx := putChain (linked demoTask).cx 2 (armK true m) }

def lostRow : State :=
  { sendsNext 1 (some (true, 3, 1)) with cx := { (linked demoTask).cx with accErr := [(8192 + 64 * 4, .uncorrectable)] } }

def landed (m : BitVec 3) (v : Nat) : State :=
  { demo with cx := putChain { demo.cx with sram := putBytes demo.cx.sram 0x200 (leBytes 256 v) } 2 (armK true m) }

def thinFlit (i : BitVec 16) : Flit :=
  { demoFlit 0 with wide := false, eidx := i }

def announcing (k : BitVec 2) : State :=
  { demo with cx := putChain demo.cx 2 { armK true 0 with akind := k } }

def portEnding (b : List SbEntry) : State :=
  { run (ported true (stopping .draining [])) with sb := b }

def breaking (n : Nat) : State :=
  let s := tabled demo 63 0x11
  { s with cx := { s.cx with suspCap := n } }

def stored (b : Bool) : State :=
  let t : Task := { demoTask with names := some 9 }
  { run t with slots := if b then Vector.replicate 4 (.running t) else #v[.running t, .running demoTask, .free, .free], cx := { demo.cx with susp := [(demoTask, .woken), ({ demoTask with tid := 9 }, .brk 1)] } }

def answeredE (w : Wait) : Task :=
  { demoTask with se := { demoTask.se with wait := w }, e := vset demoTask.e 3 0x7FFFF }

def toldReq : GrantReq :=
  { grantReq 1 with told := true }

def sealedUnder (n : Nat) : State :=
  putSlice (askedState .none keys) 3 { Slice.none with lines := [⟨1, 5, true, false, n⟩] }

/-! ### Ill-formed instructions, one for each check -/

theorem test_ill_formed_event : ¬ WellFormed .A .tld := by
  intro h; revert h; unfold WellFormed; decide +kernel

theorem test_ill_formed_stream : ¬ WellFormed .E (.spillC 3) := by
  intro h; revert h; unfold WellFormed; decide +kernel

theorem test_ill_formed_stream_of_e : ¬ WellFormed .A (.vlq 3) := by
  intro h; revert h; unfold WellFormed; decide +kernel

theorem test_ill_formed_capability : ¬ WellFormed .A (.spillC 16) := by
  intro h; revert h; unfold WellFormed; decide +kernel

theorem test_ill_formed_destination_capability : ¬ WellFormed .A (.kseal 16 1 2) := by
  intro h; revert h; unfold WellFormed; decide +kernel

theorem test_ill_formed_size : ¬ WellFormed .A (.ldImm 3 1 0 0 4 0) := by
  intro h; revert h; unfold WellFormed; decide +kernel

theorem test_ill_formed_zero_extended_double : ¬ WellFormed .A (.ldImm 3 1 0 1 3 0) := by
  intro h; revert h; unfold WellFormed; decide +kernel

theorem test_ill_formed_vector_queue_size : ¬ WellFormed .A (.ldqImm 1 2 0 0 4 0) := by
  intro h; revert h; unfold WellFormed; decide +kernel

theorem test_ill_formed_block_of_send : ¬ WellFormed .E (.send 1 27 0) := by
  intro h; revert h; unfold WellFormed; decide +kernel

theorem test_ill_formed_block_of_spawn : ¬ WellFormed .E (.spawn 1 2 29 0 0) := by
  intro h; revert h; unfold WellFormed; decide +kernel

theorem test_ill_formed_block_of_pull2 : ¬ WellFormed .A (.pull2 1 2 31 0) := by
  intro h; revert h; unfold WellFormed; decide +kernel

theorem test_ill_formed_sendc_capabilities : ¬ WellFormed .A (.sendc 1 2 0 14) := by
  intro h; revert h; unfold WellFormed; decide +kernel

theorem test_ill_formed_amo_operation : ¬ WellFormed .A (.amo 1 2 3 0 0 0 9) := by
  intro h; revert h; unfold WellFormed; decide +kernel

theorem test_ill_formed_chain_mode : ¬ WellFormed .A (.achain 1 2 0 3 5) := by
  intro h; revert h; unfold WellFormed; decide +kernel

theorem test_ill_formed_float_type : ¬ WellFormed .E (.fadd 1 2 3 0 5) := by
  intro h; revert h; unfold WellFormed; decide +kernel

theorem test_ill_formed_lane_type : ¬ WellFormed .E (.vadd 1 2 3 0 9) := by
  intro h; revert h; unfold WellFormed; decide +kernel

theorem test_ill_formed_integer_lane : ¬ WellFormed .E (.vshl 1 2 3 0 6) := by
  intro h; revert h; unfold WellFormed; decide +kernel

theorem test_ill_formed_signed_lane : ¬ WellFormed .E (.vabs 1 2 0 1) := by
  intro h; revert h; unfold WellFormed; decide +kernel

theorem test_ill_formed_reduction : ¬ WellFormed .E (.vred 1 2 3 0 8) := by
  intro h; revert h; unfold WellFormed; decide +kernel

theorem test_ill_formed_vector_conversion : ¬ WellFormed .E (.vcvt 1 2 0 0 4) := by
  intro h; revert h; unfold WellFormed; decide +kernel

theorem test_ill_formed_conversion : ¬ WellFormed .E (.fcvt 1 2 0 0 1) := by
  intro h; revert h; unfold WellFormed; decide +kernel

theorem test_ill_formed_queue_port : ¬ WellFormed .A (.add 6 1 2 1) := by
  intro h; revert h; unfold WellFormed; decide +kernel

theorem test_ill_formed_queue_direction_destination : ¬ WellFormed .A (.add 4 1 2 1) := by
  intro h; revert h; unfold WellFormed; decide +kernel

theorem test_ill_formed_queue_direction_source : ¬ WellFormed .E (.add 1 4 2 2) := by
  intro h; revert h; unfold WellFormed; decide +kernel

/-! ### Words written out from the encoding tables (R174 to R182) -/

theorem test_decode_words_1 :
    decodeTableWord 32 0x80A30C02 = some (.ldImm 5 3 0 0 3 2) ∧
    decodeTableWord 32 0x84C10BFE = some (.stImm 6 1 2 0x3FE) ∧
    decodeTableWord 32 0x80E21C02 = some (.ldcImm 7 2 0 2) ∧
    decodeTableWord 32 0x88834860 = some (.ldReg 4 3 9 0 1 1 0) ∧
    decodeTableWord 32 0x80029001 = some (.ldqImm 0 2 0 0 4 1) ∧
    decodeTableWord 32 0x84E11C10 = some (.stcImm 7 1 0x10) := by
  decide +kernel

theorem test_decode_words_2 :
    decodeTableWord 32 0x04A50400 = some (.add 5 5 0 4) ∧
    decodeTableWord 32 0x80028810 = some (.ldqImm 0 2 0 0 2 16) ∧
    decodeTableWord 32 0x3060FFFD = some (.beq 3 0 0xFFFD) ∧
    decodeTableWord 32 0xC0221880 = some (.vadd 1 2 3 0 8) ∧
    decodeTableWord 32 0xA0893831 = some (.pull 4 9 7 0 6) ∧
    decodeTableWord 32 0xA0895033 = some (.gather 4 9 10 0 6) := by
  decide +kernel

theorem test_decode_words_3 :
    decodeTableWord 32 0xA4460002 = some (.bwait 2 6 0) ∧
    decodeTableWord 32 0x90622010 = some (.amo 3 2 4 0 0 1 0) ∧
    decodeTableWord 32 0x94070001 = some (.spillC 7) ∧
    decodeTableWord 32 0xC0A63983 = some (.vfma 5 6 7 1 8) ∧
    decodeTableWord 32 0xC6411800 = some (.vcmp 2 2 1 3 0 0) ∧
    decodeTableWord 32 0xC4600009 = some (.vlq 3) := by
  decide +kernel

theorem test_decode_words_4 :
    decodeTableWord 32 0xC405000A = some (.vsq 5) ∧
    decodeTableWord 32 0xC8620004 = some (.mcnt 3 2) ∧
    decodeTableWord 32 0xF0090800 = some (.send 9 1 0) ∧
    decodeTableWord 32 0xB4090840 = some (.sendc 9 1 0 8) ∧
    decodeTableWord 32 0xF0692001 = some (.spawn 3 9 4 0 0) ∧
    decodeTableWord 32 0xF0090002 = some (.sopen 9) := by
  decide +kernel

theorem test_decode_words_5 :
    decodeTableWord 32 0xF0050003 = some (.sput 5 0) ∧
    decodeTableWord 32 0xF0000004 = some (.sclose) ∧
    decodeTableWord 32 0x68090000 = some (.chen 9 0) ∧
    decodeTableWord 32 0x68095004 = some (.chpend 9 10 0 0) ∧
    decodeTableWord 32 0x68600005 = some (.msgid 3 0) ∧
    decodeTableWord 32 0xB4A70004 = some (.epbind 5 7) := by
  decide +kernel

theorem test_decode_words_6 :
    decodeTableWord 32 0xB4022001 = some (.seqadv 2 4 0) ∧
    decodeTableWord 32 0xB4622002 = some (.watch 3 2 4 0) ∧
    decodeTableWord 32 0xB4620003 = some (.unwatch 3 2) ∧
    decodeTableWord 32 0x6000001D = some (.fence 7 1) ∧
    decodeTableWord 32 0x60000010 = some (.fence 4 0) ∧
    decodeTableWord 32 0x60004000 = some (.fencel) := by
  decide +kernel

theorem test_decode_words_7 :
    decodeTableWord 32 0x6005801F = some (.fenceh 5) := by
  decide +kernel

/-! ### Worked examples of the spec -/

/-- 02_main_memory.md, under R21. -/
theorem test_address_example : mkVa 1 5 0x17A 0x10000 = 0x40ABD00000010000 := by decide

/-- 04_translation_slices.md, under R60. -/
theorem test_slice_example : sliceNo 0x02A 0x00ABC80000042000 = 3 := by decide +kernel

/-- A spill carve-out of 64 KiB at offset 0xC_0000 (06_local_sram.md, under R113). -/
def carvedExample : State := { demo with cx := { demo.cx with spillbase := 0x0C00, spilllim := 0x0D00, spillovf := 0x50000 } }

theorem test_spill_example : stackVa carvedExample 2 0 = mkVa 1 0 0 0xC8000 ∧
    stackVa carvedExample 2 0x3FFF = mkVa 1 0 0 0xCBFFF ∧
    stackVa carvedExample 2 0x4010 = mkVa 0 0 0 (5 * 65536 + 2 * ovfBytes carvedExample.cx + 0x10) := by
  decide +kernel

/-- A ring of 272 bytes (17_tasks_scheduling.md, under R335). -/
theorem test_ring_example : ringPlace 272 192 64 = .padThen 256 0 144 ∧ ringPlace 272 192 144 = .write 64 208 ∧
    ringPlace 272 192 208 = .write 128 272 ∧ ringPlace 272 192 272 = .hold ∧ ringPlace 272 0 192 = .write 192 256 := by
  decide

/-- 72 links that sent 720,000 flits, 30,000 of them on one (19_interconnect_pod.md, under R365). -/
theorem test_imbalance_example : imbOf 72 (30000 :: List.replicate 69 10000) = some 32 ∧
    nextMode 0x0408 false (some 32) = true := by
  decide +kernel

theorem demoRecord_ok : recordOk demoRecord = true := by decide +kernel

theorem quad_not_served : quadsServed (coresOut quadOut []) = false := by
  have h : ∀ i < 512, (coresOut quadOut []).contains (BitVec.ofNat 10 (512 * 1 + i)) = true := by
    intro i hi
    refine List.elem_iff.mpr (List.mem_filter.mpr ⟨List.mem_map.mpr ⟨512 * 1 + i, List.mem_range.mpr (by omega), rfl⟩, ?_⟩)
    exact Bool.or_eq_true_iff.mpr (.inl ((by decide +kernel :
      ∀ i < 512, quadOut.pk.stacksOut.contains (homeOf (BitVec.ofNat 10 (512 * 1 + i))).1 = true) i hi))
  refine Bool.eq_false_iff.mpr fun q => ?_
  have ⟨i, hi, hc⟩ := List.any_eq_true.mp (List.all_eq_true.mp q 1 (by decide))
  rw [h i (List.mem_range.mp hi)] at hc
  cases hc

theorem witness_integer_results :
    ((0x18000040#32 : InstrWord) >>> 26).toNat = 0x06 ∧ (0x18000040#32 : InstrWord).toNat % 2 ^ 16 / 2 ^ 6 ≠ 0 := by
  decide +kernel

theorem witness_integer_results_2 :
    Issues (run queued) queued ∧ HasRoom queued 0 true ∧ operandOf queued .A 4 true = some (5,
    setPortQueue queued 4 [some 6]) ∧ operandOf (setPortQueue queued 4 [some 6]) .A 4 true = some (6,
    setPortQueue queued 4 []) := by
  unfold HasRoom Issues; decide +kernel

theorem witness_integer_results_3 :
    Issues (run queued) queued ∧ HasRoom queued 31 false ∧ operandOf queued .A 31 false = some (64, queued) := by
  unfold HasRoom Issues; decide +kernel

theorem witness_control_transfers :
    Issues (run (withA [(3, 9)])) (withA [(3, 9)]) ∧ (regVal (withA [(3, 8)]) .A 3).extractLsb' 0 2 = 0 ∧
    (regVal (withA [(3, 9)]) .A 3).extractLsb' 0 2 ≠ 0 := by
  unfold Issues; decide +kernel

theorem witness_control_transfers_2 :
    regVal (withA [(3, 0)]) .A 3 = 0 ∧ regVal (withA [(3, 1)]) .A 3 = 1 ∧ regVal (withA [(3, 2)]) .A 3 ≠ 0 ∧
    regVal (withA [(3, 2)]) .A 3 ≠ 1 := by
  decide +kernel

theorem witness_control_transfers_3 :
    ((0x54010000#32 : InstrWord) >>> 26).toNat = 0x15 ∧ (0x54010000#32 : InstrWord).toNat / 2 ^ 16 % 2 ^ 5 ≠ 0 := by
  decide +kernel

theorem witness_queues_and_flags :
    Issues (run queued) queued ∧ (¬ HasRoom queued 3 true) ∧ HasRoom queued 0 true ∧ operandOf queued .A 5 true =
    none ∧ operandOf queued .A 4 true = some (5, setPortQueue queued 4 [some 6]) ∧
    operandOf (setPortQueue queued 4 [some 6]) .A 5 true = none := by
  unfold HasRoom Issues; decide +kernel

theorem witness_queues_and_flags_2 :
    Issues (run flagged5) flagged5 ∧ flagged5.sf.getLsbD 15 = true ∧ flagged5.sf.getLsbD 0 = false := by
  unfold Issues; decide +kernel

theorem witness_queues_and_flags_3 :
    (Issues (run allEmpty) allEmpty ∧ (streamOf allEmpty .A).wait = .ready) ∧ operandOf allEmpty .A 5 true = none ∧
    (Issues (run allFull) allFull ∧ (streamOf allFull .A).wait = .ready) ∧ (¬ HasRoom allFull 3 true) ∧
    allEmpty.vsq.head? = none ∧ 4 ≤ allFull.vlq.length ∧ (3 : BitVec 3) ≠ 4 := by
  unfold HasRoom Issues; decide +kernel

theorem witness_control_register_values :
    MayAccess demo demoTask 0x203 .numsum false ∧ demo.lateCrws = [] ∧ MayAccess demo demoTask 0x880 .ovfcfg false := by
  unfold MayAccess Issues; decide +kernel

theorem witness_control_register_values_2 :
    ((rowOf 0x203 0).access.addr = .control 0x203 ∧ (rowOf 0x203 0).lateCrws = []) := by
  decide +kernel

theorem witness_control_register_writes :
    MayAccess demo demoTask 0x000 .numflags true ∧ MayAccess demo demoTask 0xA00 .keysel true ∧
    MayAccess demo demoTask 0x304 .spillovf true ∧ MayAccess demo demoTask 0x8A1 .ptwa true := by
  unfold MayAccess Issues; decide +kernel

theorem witness_control_register_writes_2 :
    ((rowOf 5 0).access.addr = .control 0x005 ∧ taskIn (rowOf 5 0) (rowOf 5 0).access.slot.toNat = some demoTask) ∧
    poolActive demo = false ∧ (demo.mxQueue = [] ∧ demo.lateCrws = []) ∧ gangWaiting demo = false ∧ (demo.sb = [] ∧
    demo.copies = [] ∧ demo.lines = [] ∧ (∀ c ∈ demo.cx.chains.toList, c.armed = false) ∧ (∀ k,
    k < 4 → k ≠ curK demo → slotFree demo k = true) ∧ demo.access.slot = demo.cur.1) := by
  decide +kernel

theorem witness_control_register_writes_3 :
    MayAccess demo demoTask 0x001 .fpmode true ∧ MayAccess demo demoTask 0x002 .trapcause true ∧ ((0x002 : BitVec 12) =
    2 ∧ 0x1E < (0x1F : Word).toNat % 256) ∧ (¬ ((0x002 : BitVec 12) = 2 ∧ 0x1E < (0x11E : Word).toNat % 256)) := by
  unfold MayAccess Issues; decide +kernel

theorem witness_control_register_checks :
    Issues (run userTask) userTask ∧ (0x800 ≤ (0x800 : BitVec 12).toNat ∧ userTask.sup = false) ∧ regOf 0x008 = none ∧
    (regOf 0x000 = some .numflags ∧ regOf 0x300 = some .split ∧ regWritesA .split = true) ∧ (regOf 0x890 =
    some .rvcfg ∧ regAdmin .rvcfg = true) := by
  unfold Issues; decide +kernel

theorem witness_control_register_checks_2 :
    (capVal (noAdmin Cap.null) 6).tag = false ∧ ((capVal (noAdmin (capPut (capS 0 64 0xFFFF) 80 4 1)) 6).tag = true ∧
    capSealed (capVal (noAdmin (capPut (capS 0 64 0xFFFF) 80 4 1)) 6) = true) ∧
    (hasPerm (capVal (noAdmin (capS 0 64 0xEFFF)) 6) permADMIN = false ∧
    capSealed (capVal (noAdmin (capS 0 64 0xEFFF)) 6) = false) := by
  decide +kernel

theorem witness_fences_act_in_scope :
    Issues (lined (seen false) []) (seen false) ∧ (seen false).obsOver = false ∧ (seen true).obsOver = true ∧
    ((0 : BitVec 3) = 0 ∧ (7 : BitVec 3) ≠ 0 ∧ inScope (lined (seen false) []) 7 ⟨0, 1, false⟩ = true) ∧
    ((lined (seen false) []).sb = [] ∧ (lined (seen false) oneStore).sb ≠ []) := by
  unfold Issues; decide +kernel

theorem witness_fenceh_asks_and_acquires :
    Issues (cored (withA [(3, 0x7FFFF)])) (withA [(3, 0x7FFFF)]) ∧ ((withA [(3, 0x7FFFF)]).sup = true ∧
    (streamOf (withA [(3, 0x7FFFF)]) .A).wait = .ready) ∧ (regVal (withA [(3, 0x7FFFF)]) .A 3).toNat < 2 ^ 19 ∧
    ((regVal (withA [(3, 0x7FFFF)]) .A 3).extractLsb' 10 9, (regVal (withA [(3,
    0x7FFFF)]) .A 3).extractLsb' 0 10) ∈ (cored (withA [(3, 0x7FFFF)])).cx.cores ∧ (cored (withA [(3, 0x7FFFF)])).sb =
    [] := by
  unfold Issues; decide +kernel

theorem witness_fenceh_asks_and_acquires_2 :
    Issues (run (waits (.fenceh 0 0 (some ⟨⟨0, 1, false⟩, 9, true⟩)))) (waits (.fenceh 0 0 (some ⟨⟨0, 1, false⟩, 9,
    true⟩))) ∧ (streamOf (waits (.fenceh 0 0 (some ⟨⟨0, 1, false⟩, 9, true⟩))) .A).wait = .fenceh 0 0 (some ⟨⟨0, 1,
    false⟩, 9, true⟩) ∧ (fencedOff demo (⟨0, 0, 1, 1⟩ : FencehReq).spkg = false ∧ demo.cx.num = (⟨0, 0, 1,
    1⟩ : FencehReq).ctx ∧ demo.sb = []) ∧ (0 < demo.nextId ∧
    slotHolds (run (waits (.fenceh 0 0 none))) 0 (waits (.fenceh 0 0 none))) ∧ (waits (.fenceh 0 0 none)).sa.wait =
    .fenceh 0 0 none := by
  unfold Issues slotHolds; decide +kernel

theorem witness_fenceh_asks_and_acquires_3 :
    Issues (runE (answeredE (.fenceh 0 0 (some ⟨⟨0, 1, false⟩, 9, true⟩)))) (answeredE (.fenceh 0 0 (some ⟨⟨0, 1,
    false⟩, 9, true⟩))) ∧ (streamOf (answeredE (.fenceh 0 0 (some ⟨⟨0, 1, false⟩, 9, true⟩))) .E).wait =
    .fenceh 0 0 (some ⟨⟨0, 1, false⟩, 9, true⟩) ∧ (0 < demo.nextId ∧
    slotHolds (run (answeredE (.fenceh 0 0 none))) 0 (answeredE (.fenceh 0 0 none)) ∧
    (streamOf (answeredE (.fenceh 0 0 none)) .E).wait = .fenceh 0 0 none) ∧ ((answeredE .ready).sup = true ∧
    regVal (answeredE .ready) .E 3 = 0x7FFFF ∧ (streamOf (answeredE .ready) .E).wait = .ready) := by
  unfold Issues slotHolds; decide +kernel

theorem witness_fenceh_asks_and_acquires_4 :
    (userTask.sup = false ∧ 2 ^ 19 ≤ (regVal (withA [(3, 0x80000)]) .A 3).toNat ∧ (regVal (withA [(3,
    0x7FFFF)]) .A 3).toNat < 2 ^ 19) ∧ (demo.cx.cores = [] ∧ { cored demoTask with sb := oneStore }.sb ≠ []) := by
  decide +kernel

theorem witness_sequence_and_watch :
    Issues (run (withA [(3, 63), (4, 0xFFFFFFFFFFFFFFFF)])) (withA [(3, 63), (4, 0xFFFFFFFFFFFFFFFF)]) ∧
    operandOf (withA [(3, 63), (4, 0xFFFFFFFFFFFFFFFF)]) .A 4 false = some (0xFFFFFFFFFFFFFFFF, (withA [(3, 63), (4,
    0xFFFFFFFFFFFFFFFF)])) ∧ (vaSpace (capAddr (capVal demoTask 1)) ≠ 2 ∧ vaSpace (capAddr (capVal demoTask 1)) < 2) ∧
    accessCheck demo 1 (seqAccess (capVal demoTask 1)) none = none ∧
    accessCheck demo 1 (watchAccess (capVal demoTask 1)) none = none ∧ (regVal (withA [(3, 63), (4,
    0xFFFFFFFFFFFFFFFF)]) .A 3).toNat < 64 ∧ leNat (loaded demo demoTask (capAddr (capVal demoTask 1)) (.sram 0) 8) ≤ 0 := by
  unfold Issues; decide +kernel

theorem witness_sequence_and_watch_2 :
    StoreGoes demo demoTask (capAddr (capVal demoTask 1)) 8 (.sram 0) false ∧
    LoadGoes demo demoTask (capAddr (capVal demoTask 1)) 8 (.sram 0) := by
  exact ⟨⟨by decide +kernel, by decide +kernel, by decide +kernel, .inl (by decide +kernel)⟩,
    ⟨by decide +kernel, by decide +kernel, by decide +kernel, .inl (by decide +kernel)⟩⟩

theorem witness_sequence_and_watch_3 :
    isOwn demo (capAddr (demoReq 0).cap) = true ∧ ((portWord demo (demoReq 0)).toOption = some 0 ∧
    (portWord demo (demoReq 1)).toOption = some 0 ∧ (demoReq 0).threshold.toNat ≤ (0 : Word).toNat) ∧
    ((0 : Word).toNat < (demoReq 1).threshold.toNat ∧ (watching 63).watches.length < 64 ∧
    64 ≤ (watching 64).watches.length) ∧ ((portWord demo { demoReq 1 with cap := Cap.null }).toOption = none ∧
    isOwn demo (capAddr Cap.null) = true) := by
  decide +kernel

theorem witness_trap_aborts_task :
    Issues (run spawnedTask) spawnedTask ∧ (spawnedTask.names = none ∧ spawnedTask.spawned = true) ∧
    ((run spawnedTask).cx.runq = [] ∧ (run spawnedTask).sweep = .idle) ∧ (spawnedTask.staged = [] ∧ spawnedTask.port =
    none ∧ spawnedTask.drainRow = none) ∧ (spawnedTask.sa.wait = .ready ∧ spawnedTask.se.wait = .ready) := by
  unfold Issues; decide +kernel

theorem witness_trap_aborts_task_2 :
    supChannel (tabled (run spawnedTask) 63 0x11).cx = some 63 := by
  decide +kernel

theorem witness_suspension_and_return :
    Issues (tabled demo 63 0x11) demoTask ∧ supChannel (tabled demo 63 0x11).cx = some 63 ∧
    (tabled demo 63 0x11).cx.suspCap ≤ (tabled demo 63 0x11).cx.susp.length := by
  unfold Issues; decide +kernel

theorem witness_suspension_and_return_2 :
    Issues returning { demoTask with names := some 9 } ∧ ((3 < 4 ∧ 3 ≠ curK returning)) ∧ slotAt returning 3 =
    .held { demoTask with tid := 9 } (.brk 1) ∧ (returning.cx.susp = [] ∧ returning.cx.runq = []) ∧
    (slotAt returning 1 = .free ∧ slotAt returning 2 = .free) ∧ (Issues demo demoTask ∧ demoTask.sup = true ∧
    demoTask.names = none) ∧ (Issues (run userTask) userTask ∧ userTask.sup = false) := by
  unfold Issues; decide +kernel

theorem witness_suspension_and_return_3 :
    (slotHolds demo 0 demoTask ∧ demoTask.sa.wait = .ready ∧ demoTask.se.wait = .ready) ∧
    ((suspRoom 1).cx.susp.length < (suspRoom 1).cx.suspCap ∧ (suspRoom 1).cx.runq = [] ∧
    (suspRoom 0).cx.suspCap ≤ (suspRoom 0).cx.susp.length) ∧ (isOwn demo 0x30000 = true ∧
    (sliceAt demo (sliceNo 1 0x30000)).waiting.length < 256 ∧
    256 ≤ (sliceAt (fullSlice 0x30000) (sliceNo 1 0x30000)).waiting.length) ∧ isOwn demo (mkVa 0 0 1 0) = false := by
  unfold slotHolds; decide +kernel

theorem witness_suspension_and_return_4 :
    (Issues (breaking 1) demoTask ∧ (streamOf demoTask .A).wait = .ready ∧ supChannel (breaking 1).cx = some 63 ∧
    (breaking 1).cx.susp.length < (breaking 1).cx.suspCap ∧ (breaking 1).cx.runq = []) ∧ memoriesWf (breaking 1) = true := by
  unfold Issues; decide +kernel

theorem witness_suspension_and_return_5 :
    (Issues (stored true) { demoTask with names := some 9 } ∧ demoTask.sup = true ∧ (stored true).cx.susp = [(demoTask,
    .woken)] ++ ({ demoTask with tid := 9 }, .brk 1) :: []) ∧ (∀ p ∈ ([(demoTask, .woken)] ++
    [] : List (Task × SuspendOn)), p.1.tid ≠ 9) ∧ ((∀ i ∈ List.range 4, slotFree (stored true) i = false) ∧
    (stored true).cx.runq.length < 32) ∧ ((∀ i ∈ List.range 2, slotFree (stored false) i = false) ∧
    slotFree (stored false) 2 = true ∧ (stored false).cx.runq = [] ∧ (stored false).switchReq = false) ∧
    Issues (stored false) { demoTask with names := some 9 } := by
  unfold Issues; decide +kernel

theorem witness_snap_and_idle :
    (Issues demo demoTask ∧ demoTask.sup = true ∧ demo.pk.snapArmed = false ∧ demo.regs.snapstat.getLsbD 0 = false ∧
    slotAt demo 0 = .running demoTask) ∧ ({ demo with pk := { demo.pk with snapArmed := true } }.pk.snapArmed = true ∧
    { demo with regs := { demo.regs with snapstat := 1 } }.regs.snapstat.getLsbD 0 = true) ∧
    (Issues (run userTask) userTask ∧ userTask.sup = false) ∧
    (slotHolds (run (waits (.idle 64))) 0 (waits (.idle 64)) ∧ (streamOf (waits (.idle 64)) .A).wait = .idle 64) := by
  unfold Issues slotHolds; decide +kernel

theorem witness_access_checks_in_order :
    Issues (run (holding Cap.null)) (holding Cap.null) ∧ (loadAccess Cap.null 0 8).cap.tag = false ∧
    (capSealed (capPut (capS 0 64 0xFFFF) 80 4 5) = true ∧ (capPut (capS 0 64 0xFFFF) 80 4 5).tag = true) ∧
    (hasPerm (capS 0 64 0xFFFE) permLD = false ∧ capSealed (capS 0 64 0xFFFE) = false) ∧
    (capAddr (capSetAddr (capS 64 64 0xFFFF) (BitVec.ofNat 64 (2 ^ 62 + 60)))).toNat < capBase (capSetAddr (capS 64 64 0xFFFF) (BitVec.ofNat 64 (2 ^ 62 + 60))) ∧
    (capBase (capSetAddr (capS 64 64 0xFFFF) (BitVec.ofNat 64 (2 ^ 62 + 124))) ≤ (capAddr (capSetAddr (capS 64 64 0xFFFF) (BitVec.ofNat 64 (2 ^ 62 + 124)))).toNat ∧
    capTop (capSetAddr (capS 64 64 0xFFFF) (BitVec.ofNat 64 (2 ^ 62 + 124))) < (capAddr (capSetAddr (capS 64 64 0xFFFF) (BitVec.ofNat 64 (2 ^ 62 + 124)))).toNat + 8) ∧
    (capBase (capSetAddr (capS 64 64 0xFFFF) (BitVec.ofNat 64 (2 ^ 62 + 65))) ≤ (capAddr (capSetAddr (capS 64 64 0xFFFF) (BitVec.ofNat 64 (2 ^ 62 + 65)))).toNat ∧
    (capAddr (capSetAddr (capS 64 64 0xFFFF) (BitVec.ofNat 64 (2 ^ 62 + 65)))).toNat + 8 ≤ capTop (capSetAddr (capS 64 64 0xFFFF) (BitVec.ofNat 64 (2 ^ 62 + 65))) ∧
    (capAddr (capSetAddr (capS 64 64 0xFFFF) (BitVec.ofNat 64 (2 ^ 62 + 65)))).toNat % 8 ≠ 0) := by
  unfold Issues; decide +kernel

theorem witness_access_checks_in_order_2 :
    foreignStore demo 1 (capAddr (capF 0xFFFF)) 8 = true ∧ foreignStore demo 1 (capAddr (capS 0 64 0xFFFF)) 8 = false ∧
    (vaSpace (mkVa 0 0 1 0) = 0 ∧ vaSpace (mkVa 1 0 1 0) = 1 ∧ vaSpace (mkVa 3 0 0 0) = 3) ∧
    (capRows (loadAccess (capMake (mkVa 0 1 0 0) (2 ^ 53) (2 ^ 53 + 64) 0xFFFF 0 true) 0 8) = none ∧
    vaPkg (mkVa 0 1 0 0) ∉ demo.members) ∧ (capRows (storeAccess (capS 0x100000 64 0xFFFF) 0 8) = none ∧
    isOwn demo (capAddr (capS 0x100000 64 0xFFFF)) = true ∧
    inSched demo.cx (vaOff (capAddr (capS 0x100000 64 0xFFFF))) 8 = true ∧
    vaOff (capAddr (capS 0x100000 64 0xFFFF)) + 8 ≤ scratchEnd demo.cx) := by
  decide +kernel

theorem witness_access_checks_in_order_3 :
    (accessCheck (armed demoTask) 1 (storeAccess (capS 64 64 0xFFFF) 0 8) none = none ∧
    inArmed (armed demoTask).cx 64 8 = true ∧ inArmed (armed demoTask).cx 127 1 = true ∧
    inArmed (armed demoTask).cx 128 8 = false) := by
  decide +kernel

theorem witness_own_loads :
    (Issues (filled demoTask) demoTask ∧ demoTask.sa.wait = .ready) ∧
    (accessCheck (filled demoTask) 1 (loadAccess (capVal demoTask 1) 0 1) none = none ∧
    accessCheck (filled demoTask) 1 (loadAccess (capVal demoTask 1) 0 256) none = none) ∧
    accessCheck demo 1 (loadAccess (capVal demoTask 2) 0 8) none = none ∧ (HasRoom demoTask 3 true ∧
    demoTask.vlq.length < 4) ∧ operandOf (withA [(4, 8)]) .A 4 false = some (8, withA [(4, 8)]) := by
  unfold HasRoom Issues; decide +kernel

theorem witness_own_loads_2 :
    LoadGoes (filled demoTask) demoTask (BitVec.ofNat 64 (2 ^ 62)) 256 (.sram 0) := by
  exact ⟨by decide +kernel, by decide +kernel, by decide +kernel, .inl (by decide +kernel)⟩

theorem witness_own_loads_3 :
    LoadGoes demo demoTask 8 8 (.hbm (8 * 65536 + 8)) := by
  exact ⟨by decide +kernel, by decide +kernel, by decide +kernel, .inr ⟨by decide +kernel, by decide +kernel, by decide +kernel,
    8 * 65536 + 8, ⟨8, true, true, false, false⟩, by decide +kernel, by decide +kernel, rfl⟩⟩

theorem witness_own_stores :
    Issues (filled storing) storing ∧ (accessCheck (filled storing) 1 (storeAccess (capVal storing 1) 0 1) none =
    none ∧ accessCheck (filled storing) 1 (storeAccess (capVal storing 1) 0 256) none = none) ∧
    operandOf storing .A 4 true = some (0xAB, setPortQueue storing 4 [some 8]) ∧
    operandOf (setPortQueue storing 4 [some 8]) .A 5 true = some (16,
    setPortQueue (setPortQueue storing 4 [some 8]) 5 []) ∧ storing.vsq = some 3 :: [some 4] ∧
    accessCheck (filled storing) 1 (capAccess (filled storing) (capVal storing 1) 0 (capVal storing 1)) none = none := by
  unfold Issues; decide +kernel

theorem witness_own_stores_2 :
    StoreGoes (filled storing) storing (BitVec.ofNat 64 (2 ^ 62)) 256 (.sram 0) false ∧
    StoreGoes (filled storing) storing 8 8 (.hbm (8 * 65536 + 8)) false := by
  exact ⟨⟨by decide +kernel, by decide +kernel, by decide +kernel, .inl (by decide +kernel)⟩, by decide +kernel, by decide +kernel,
    by decide +kernel, .inr ⟨by decide +kernel, by decide +kernel, ⟨1, 0, false⟩, 8 * 65536 + 8, ⟨8, true, true, false, false⟩,
    by decide +kernel, by decide +kernel, rfl, rfl⟩⟩

theorem witness_own_stores_3 :
    vaSpace (capAddr hostCap) = 2 ∧ hostReady (windowed demoTask) 1 (capAddr hostCap) 1 = true ∧
    accessCheck (windowed demoTask) 1 (storeAccess hostCap 0 8) none = none ∧
    16 ≤ (List.replicate 16 (0 : Nat)).length ∧ ((filtered (windowed demoTask) 1 (capVal demoTask 1)).2.tag = true ∧
    foreignStore (windowed demoTask) 1 (capAddr hostCap) 16 = false ∧
    capRows (capAccess (windowed demoTask) hostCap 0 (filtered (windowed demoTask) 1 (capVal demoTask 1)).2) = none) := by
  decide +kernel

theorem witness_foreign_loads :
    (Issues (run (foreign .ready)) (foreign .ready) ∧ (foreign .ready).sa.wait = .ready) ∧
    (accessCheck demo 1 (loadAccess (capF 0xFFFF) 0 8) none = none ∧ isOwn demo (capAddr (capF 0xFFFF)) = false) ∧
    (vaSpace (capAddr (capF 0xFFFF)) ≠ 2 ∧ heldBytes demo (foreign .ready) (mkVa 0 0 1 0) 8 = none ∧
    freshInFlight demo (mkVa 0 0 1 0) 8 = false) ∧ (freshInFlight asked (mkVa 1 0 1 0) 8 = true ∧
    isCached asked 1 (mkVa 1 0 1 0) false = false) ∧ demo.pending = [] := by
  unfold Issues; decide +kernel

theorem witness_foreign_loads_2 :
    isCached cachedLine 1 (mkVa 0 0 1 0) false = true ∧
    (heldBytes cachedLine (foreign .ready) (mkVa 0 0 1 0) 8).isSome = true := by
  decide +kernel

theorem witness_foreign_loads_3 :
    (foreign (.read 5 (some ⟨5, [1, 2, 3, 4, 5, 6, 7, 8], [], none, 3, false, false, none, none⟩))).sa.wait =
    .read 5 (some ⟨5, [1, 2, 3, 4, 5, 6, 7, 8], [], none, 3, false, false, none, none⟩) := by
  decide +kernel

theorem witness_foreign_loads_4 :
    (⟨5, 0, 7, 1, ⟨0, 1, false⟩, mkVa 1 0 1 0, 8, false, .load, Cap.null, .live⟩ : Pending) ∈ asked.pending ∧
    (slotHolds asked 0 (foreign (.read 5 none)) ∧ (foreign (.read 5 none)).tid = 7 ∧ asked.pending.length = 1) ∧
    (staleAnswer asked ⟨5, 0, 7, 1, ⟨0, 1, false⟩, mkVa 1 0 1 0, 8, false, .load, Cap.null, .live⟩ ⟨5, [1, 2, 3, 4, 5,
    6, 7, 8], [], none, 3, false, false, none, none⟩ = false ∧ isSealed (mkVa 1 0 1 0) = false ∧
    isSealed (mkVa 0 0 1 0) = true) := by
  unfold slotHolds; decide +kernel

theorem witness_foreign_loads_5 :
    (∃ d, (sealedAnswer d).pooled = false ∧ (sealedAnswer d).data =
    leBytes 64 (xtsSeal ((0 : BitVec 768).extractLsb' 0 512) (lineTweak 1 lineRead.va) d).toNat) := by
  exact ⟨0, rfl, by rw [show lineRead.va = mkVa 0 0 1 64 by decide +kernel]; rfl⟩

theorem witness_foreign_loads_6 :
    ((activeKey demo 1).map (·.material) = some 0 ∧ isSealed lineRead.va = true ∧ lineRead.va.toNat % 64 = 0 ∧
    lineRead.len = 64) ∧ activeKey State.reset 1 = none := by
  decide +kernel

theorem witness_foreign_loads_7 :
    (hostReady windowStored 1 (mkVa 2 0 0 8) 8 = true ∧ ownWindow windowStored 1 (mkVa 2 0 0 8) = true ∧
    (windowStored.sb.any (fun e => sbOverlaps e 1 (mkVa 2 0 0 8) 8)) = true) ∧
    bufferedBytes windowStored 1 (mkVa 2 0 0 8) 8 = some [1, 2, 3, 4, 5, 6, 7, 8] := by
  decide +kernel

theorem witness_foreign_loads_8 :
    offsetKept { demoTask with popped := some (4, 8) } .A 4 1 8 ∧ offsetKept (withA [(4, 8)]) .A 4 0 8 ∧
    portQueue (setPortQueue demoTask 3 [some 1, none, none]) 3 = [some 1] ++ none :: [none] ∧
    NoneReserved ([some 1] : Queue Word) ∧ ({ demoTask with vlq := [some 1, none] }).vlq = [some 1] ++ none :: [] ∧
    demoTask.vlq.length < 4 := by
  unfold offsetKept; exact ⟨by decide +kernel, by decide +kernel, by decide +kernel, by simp [NoneReserved], by decide +kernel, by decide +kernel⟩

theorem witness_foreign_loads_9 :
    (hostReady partStored 1 (mkVa 2 0 0 8) 8 = true ∧ ownWindow partStored 1 (mkVa 2 0 0 8) = true ∧
    (partStored.sb.any (fun e => sbOverlaps e 1 (mkVa 2 0 0 8) 8)) = true) ∧
    bufferedBytes partStored 1 (mkVa 2 0 0 8) 8 = none ∧ (vaSpace (mkVa 2 0 0 8) = 2 ∧ vaPkg (mkVa 2 0 0 8) =
    (windowed demoTask).pkg ∧ hostReady demo 1 (mkVa 2 0 0 8) 8 = false) := by
  decide +kernel

theorem witness_foreign_loads_10 :
    ((heldBytes badLine (foreign .ready) (mkVa 0 0 1 0) 8).any (fun r => r.2.any (·.bad))) = true ∧
    ((heldBytes cachedLine (foreign .ready) (mkVa 0 0 1 0) 8).any (fun r => r.2.all (fun l => !l.bad))) = true := by
  decide +kernel

theorem witness_foreign_loads_11 :
    ((deadRead.pending.map (·.fate)) = [.dead] ∧ (deadRead.pending.map (·.id)) = [5]) ∧ (foreign (.read 5 (some ⟨5, [],
    [], some (0x0A, 0), 3, false, false, none, none⟩))).sa.wait = .read 5 (some ⟨5, [], [], some (0x0A, 0), 3, false,
    false, none, none⟩) := by
  decide +kernel

theorem witness_foreign_loads_12 :
    (∃ c : BitVec 10, poolActive (pooled c) = true ∧ poolMember (pooled c) (lineOf lineRead.va) ≠ (pooled c).core ∧
    lineRead.cached = true) := by
  by_cases h : poolMember (pooled 0) (lineOf lineRead.va) = 0
  · exact ⟨1, by decide +kernel, fun e => absurd (h.symm.trans e) (by decide), rfl⟩
  · exact ⟨0, by decide +kernel, h, rfl⟩

theorem witness_foreign_loads_13 :
    (poolActive cachedLine = false ∧ vaSpace lineRead.va ≠ 2 ∧ vaSpace (mkVa 2 0 0 8) = 2 ∧ vaPkg (mkVa 2 0 0 8) =
    cachedLine.pkg) := by
  decide +kernel

theorem witness_atomic_operations :
    (Issues (filled (withA [(3, 5), (4, 0xFFFFFFFFFFFFFFF0)])) (withA [(3, 5), (4, 0xFFFFFFFFFFFFFFF0)]) ∧ (withA [(3,
    5), (4, 0xFFFFFFFFFFFFFFF0)]).sa.wait = .ready) ∧ operandOf (withA [(3, 5), (4, 0xFFFFFFFFFFFFFFF0)]) .A 4 false =
    some (0xFFFFFFFFFFFFFFF0, (withA [(3, 5), (4, 0xFFFFFFFFFFFFFFF0)])) ∧ accessCheck (filled (withA [(3, 5), (4,
    0xFFFFFFFFFFFFFFF0)])) 1 (atomicAccess (capVal demoTask 1) 8) none = none ∧ (HasRoom (withA [(3, 5), (4,
    0xFFFFFFFFFFFFFFF0)]) 3 true ∧ (4 : BitVec 5) ≠ 3) := by
  unfold HasRoom Issues; decide +kernel

theorem witness_atomic_operations_2 :
    (Issues (run reserved) reserved ∧ reserved.sa.wait = .atomic 9 (some 3)) ∧ (portQueue reserved 3 = [some 1] ++
    none :: [none] ∧ NoneReserved [some (1 : Word)]) := by
  unfold Issues; exact ⟨by decide +kernel, by decide +kernel, by simp [NoneReserved]⟩

theorem witness_atomic_operations_3 :
    memoriesWf (atomicAt (some (.sram 0)) 15) = true ∧ (taskIn (atomicAt none 8) 0 = some (waits (.atomic 9 none)) ∧
    (waits (.atomic 9 none)).sa.wait = .atomic 9 none) ∧ readLoc (atomicAt (some (.sram 0)) 8) (.sram 0) 8 =
    leBytes 8 (0xF8F9FAFBFCFDFEFF : Word).toNat := by
  decide +kernel

theorem witness_atomic_operations_4 :
    lostAt (atomicAt (some (.sram 0)) 15) ⟨1, 7, 0, some (.sram 0),
    .amo 15 true 0xFFFFFFFFFFFFFFF0 0xF8F9FAFBFCFDFEFF 9, false⟩ (.sram 0) = false ∧ (waits (.lost 8)).sa.wait =
    .lost 8 ∧ (lostAt lostWord ⟨1, 7, 0, some (.sram 0), .amo 15 true 0xFFFFFFFFFFFFFFF0 0xF8F9FAFBFCFDFEFF 9,
    false⟩ (.sram 0) = true ∧ memoriesWf lostWord = true ∧ taskIn lostWord 0 = some (waits (.atomic 9 none))) ∧
    ((windowAt (atomicHost 3) 1 (mkVa 2 0 0 8)).isSome = true ∧ memoriesWf (atomicHost 3) = true) := by
  decide +kernel

theorem witness_spills_and_fills :
    Issues (carved (spilling 0)) (spilling 0) ∧
    (spilling 0).spillDepth + 16 ≤ carveBytes (carved (spilling 0)).cx + ovfBytes (carved (spilling 0)).cx ∧
    (vaSpace (stackVa (carved (spilling 0)) 0 0) = 1 ∧
    inSched (carved (spilling 0)).cx (vaOff (stackVa (carved (spilling 0)) 0 0)) 16 = false) ∧
    (0 < (spilling 16).spillDepth ∧ (spilling 0).spillDepth = 0) ∧ HasRoom (spilling 16) 0 true ∧
    carveBytes (carved (spilling 256)).cx + ovfBytes (carved (spilling 256)).cx < (spilling 256).spillDepth + 16 := by
  unfold HasRoom Issues; decide +kernel

theorem witness_spills_and_fills_2 :
    StoreGoes (carved (spilling 0)) (spilling 0) (stackVa (carved (spilling 0)) 0 0) 16 (.sram 65536) false ∧
    LoadGoes (carved (spilling 16)) (spilling 16) (stackVa (carved (spilling 16)) 0 0) 16 (.sram 65536) := by
  exact ⟨⟨by decide +kernel, by decide +kernel, by decide +kernel, .inl (by decide +kernel)⟩,
    ⟨by decide +kernel, by decide +kernel, by decide +kernel, .inl (by decide +kernel)⟩⟩

theorem witness_stores_performed :
    memoriesWf (entry (some (.sram 0)) (.data [1, 2, 3] false)) = true ∧ (entry none (.seq 5)).watches = [] ∧
    locAddr (.sram 32) % 16 = 0 := by
  decide +kernel

theorem witness_stores_performed_2 :
    (apart (.sram 8) 3 (.sram 11) ∧ apart (.sram 8) 3 (.sram 7)) := by
  exact ⟨.inr (by decide), .inl (by decide)⟩

theorem witness_stores_performed_3 :
    (Issues demo demoTask ∧ accessCheck demo 1 (storeAccess (capVal demoTask 2) 0 8) none = none) ∧
    (onScoreboard demo 0 8 = false ∧ moveHolds demo 1 0 = false ∧ findPermit demo 1 0 = none) ∧
    (slotHolds (run (waits (.permit 8))) 0 (waits (.permit 8)) ∧ (waits (.permit 8)).sa.wait = .permit 8) ∧
    walk demo 1 false true 8 = .ok (8 * 65536 + 8) ⟨8, true, true, false, false⟩ ∧ walk demo 1 false true 0x10000 =
    .notPresent := by
  unfold Issues slotHolds; decide +kernel

theorem witness_stores_performed_4 :
    (∀ n, n < 32 → (chainAt demo.cx n).closing = none) ∧ ((activeKey demo 1).isSome = true ∧ activeKey State.reset 1 =
    none ∧ vaSpace 8 = 0) ∧ (vaSpace (capAddr hostCap) = 2 ∧ hostReady demo 1 (capAddr hostCap) 1 = false) := by
  decide +kernel

theorem witness_stores_performed_5 :
    (filling fillingStore 1 0x40 2 = true ∧ filling (entry (some (.sram 0)) (.data [1, 2, 3] false)) 1 16 3 = false) ∧
    (memoriesWf fillingStore = true ∧ (fillingStore.sb.map (·.loc)) = [some (.hbm 0x80040)]) := by
  decide +kernel

theorem witness_stores_performed_6 :
    memoriesWf (entry (some (.hbm 0x80020)) (.data [1, 2, 3, 4] true)) = true ∧ (locAddr (.hbm 0x80020) % 4 = 0 ∧ [1,
    2, 3, 4].length % 4 = 0) ∧ ((entry (some (.hbm 0x80021)) (.data [7] true)).sb.map (·.kind)) = [.data [7] true] ∧
    (entry none (.data [7] true)).sb.map (·.loc) = [none] := by
  decide +kernel

theorem witness_stores_performed_7 :
    (watching 1).watches = [⟨0, 1, 1, 0, 1, 2⟩] ∧ ((1 : Word).toNat ≤ (1 : Word).toNat ∧
    (1 : Word).toNat ≤ (5 : Word).toNat) ∧ (∀ w ∈ (watching 2).watches, w.ctx = 1 ∧ w.va = 0 ∧
    ¬ (w.threshold.toNat ≤ (0 : Word).toNat)) ∧ ((entry (some (.sram 8)) (.seq 5)).sb.map (·.kind)) = [.seq 5] ∧
    ((entry (some (.sram 32)) (.binit 0)).sb.map (·.kind)) = [.binit 0] := by
  decide +kernel

theorem witness_stores_performed_8 :
    walk lostEntry 1 false true 8 = .broken ∧ walk readOnly 1 false true 8 = .ok (8 * 65536 + 8) ⟨8, true, false,
    false, false⟩ ∧ slotHolds (run (waits (.permit hostCap.bits.toNat))) 0 (waits (.permit hostCap.bits.toNat)) ∧
    vaSpace (mkVa 2 0 0 8) = 2 ∧ (hostReady (windowed (holding hostCap)) 1 (capAddr hostCap) 1 = true ∧
    vaSpace (capAddr hostCap) = 2 ∧ (streamOf (holding hostCap) .A).wait = .ready) := by
  unfold slotHolds; decide +kernel

theorem witness_capability_getters :
    (Issues demo demoTask ∧
    HasRoom { demoTask with lq := #v[[some 1, some 2, some 3, some 4, some 5, some 6, some 7], [], [], []] } 0 true) := by
  unfold HasRoom Issues; decide +kernel

theorem witness_capability_results :
    (Issues (run (withA [(4, 64)])) (withA [(4, 64)]) ∧ operandOf (withA [(4, 64)]) .A 4 false = some (64, withA [(4,
    64)])) ∧ ((capVal demoTask 1).tag = true ∧ capSealed (capVal demoTask 1) = false ∧ (capVal demoTask 9).tag =
    false) ∧ capSealed (capPut (capS 0 64 0xFFFF) 80 4 15) = true ∧
    (Encloses (capS 0 64 0xFFFF) (2 ^ 62) (2 ^ 62 + 64) ∧ ¬ Encloses (capS 0 64 0xFFFF) (2 ^ 62) (2 ^ 62 + 65)) ∧
    (encodeBounds (2 ^ 62) (2 ^ 62 + 64)).2 = (2 ^ 62, 2 ^ 62 + 64) := by
  unfold Encloses Issues; decide +kernel

theorem witness_capability_results_2 :
    ((∀ c ∈ sealChecks (authority 1) permWRAP, c.1 = true) ∧ (∀ c ∈ sealChecks (authority 15) permUNWRAP, c.1 =
    true)) ∧ ((sealChecks Cap.null permWRAP)[0]?).map (·.1) = some false ∧
    (capType (capPut (capS 0 64 0xFFFF) 80 4 15)).toNat = (capAddr (authority 15)).toNat := by
  decide +kernel

theorem witness_capability_results_3 :
    Issues (run (holding (capPut (capS 0 64 0xFFFF) 80 4 3))) (holding (capPut (capS 0 64 0xFFFF) 80 4 3)) ∧
    ((capVal (holding (capPut (capS 0 64 0xFFFF) 80 4 3)) 3).tag = true ∧
    capSealed (capVal (holding (capPut (capS 0 64 0xFFFF) 80 4 3)) 3) = true) := by
  unfold Issues; decide +kernel

theorem witness_capability_results_4 :
    (operandOf inexact .A 4 false = some (0x10000000001, inexact) ∧ (capVal inexact 3).tag = true ∧
    capSealed (capVal inexact 3) = false) ∧ Encloses (capVal inexact 3) 0 0x10000000001 ∧
    (encodeBounds 0 0x10000000001).2 ≠ (0, 0x10000000001) := by
  unfold Encloses; decide +kernel

theorem witness_capability_results_5 :
    ((sealChecks Cap.null permWRAP).take 1).map (·.1) = [false] := by
  decide +kernel

theorem witness_capability_results_6 :
    ((sealChecks (capPut (authority 1) 80 4 1) permWRAP).take 2).map (·.1) = [true, false] := by
  decide +kernel

theorem witness_capability_results_7 :
    ((sealChecks (capMake 1 1 16 0x1000 0 true) permWRAP).take 3).map (·.1) = [true, true, false] := by
  decide +kernel

theorem witness_capability_results_8 :
    ((sealChecks (capMake 16 1 16 0x1600 0 true) permWRAP).take 4).map (·.1) = [true, true, true, false] := by
  decide +kernel

theorem witness_capability_results_9 :
    ((sealChecks (capMake 0 0 16 0x1600 0 true) permWRAP).take 5).map (·.1) = [true, true, true, true, false] := by
  decide +kernel

theorem witness_capability_results_10 :
    ((sealChecks (capMake 3 1 16 0x0600 0 true) permWRAP).take 6).map (·.1) = [true, true, true, true, true, false] := by
  decide +kernel

theorem witness_derivations_never_widen :
    ((capS 0 65536 0xFFFF).tag = true ∧ (capSetAddr (capS 0 65536 0xFFFF) (BitVec.ofNat 64 (2 ^ 62 + 65535))).tag =
    true) ∧
    Encloses (capS 0 65536 0xFFFF) (capAddr (capS 0 65536 0xFFFF)).toNat ((capAddr (capS 0 65536 0xFFFF)).toNat + 65536) ∧
    ((∀ p ∈ [0, 15], p < 16)) := by
  unfold Encloses; decide +kernel

theorem witness_floating_point_scalar :
    (Issues (run queued) queued ∧ HasRoom queued 0 true) ∧ (5 &&& (numtrapNow demo).toNat) % 32 = 0 ∧
    (1 &&& (numtrapNow { demo with cx := { demo.cx with numtrap := 1 } }).toNat) % 32 ≠ 0 := by
  unfold HasRoom Issues; decide +kernel

theorem witness_floating_point_scalar_2 :
    (f16Fmt = f16Fmt ∨ f16Fmt = b16Fmt ∨ f16Fmt = f32Fmt) ∧ (decodeFloat f32Fmt 0x3F800001 =
    .fin false (2 ^ 23 + 1) (-23) ∧ isSubnormal f32Fmt 0x3F800001 = false) := by
  decide +kernel

theorem witness_vector_lanes :
    Issues (runE demoTask) demoTask := by
  unfold Issues; decide +kernel

theorem witness_vector_moves_and_masks :
    Issues (runE (setReg (setReg demoTask .E 3 63) .E 4 0x1FFFFFFFF)) (setReg (setReg demoTask .E 3 63) .E 4 0x1FFFFFFFF) ∧
    ((regVal (setReg (setReg demoTask .E 3 63) .E 4 0x1FFFFFFFF) .E 3).toNat < 64 ∧
    64 ≤ (regVal (setReg (setReg demoTask .E 3 63) .E 4 0x1FFFFFFFF) .E 4).toNat) ∧
    (({ demoTask with vlq := [some 3] }).vlq = some 3 :: [] ∧ demoTask.vsq.length < 4) ∧ (3 : BitVec 3) ≠ 0 := by
  unfold Issues; decide +kernel

theorem witness_vector_reductions_and_conversions :
    Issues (runE demoTask) demoTask ∧ ((8 : BitVec 4).toNat < 9 ∧ 9 ≤ (9 : BitVec 4).toNat ∧ 9 ≤ (15 : BitVec 4).toNat) := by
  unfold Issues; decide +kernel

theorem witness_copy_commands :
    (Issues (run copying) copying ∧ operandOf copying .A 5 false = some (64, copying)) ∧ (EngineTakes (run copying) ∧
    freeEntry (run copying) = some 0) ∧ NamesObject (run copying) copying 0 none ∧ (64 ≤ 2 ^ 24 ∧
    AllOwn (run copying) (capVal copying 2) 64) ∧ (SourceOk (run copying) copying (capVal copying 2) 64 [permLD] ∧
    SourceOk (run copying) copying (capVal copying 3) 65536 (pullPerms (run copying) (capVal copying 3) 65536)) ∧
    (DestinationOk (run copying) copying (capVal copying 1) 64 false ∧
    DestinationOk (run copying) copying (capVal copying 1) 64 true) := by
  unfold AllOwn SourceOk DestinationOk EngineTakes NamesObject ObjectOk Scratch Issues; decide +kernel

theorem witness_copy_commands_2 :
    NamesObject (run copying) copying 4 (some 0x8000) := by
  exact .inr ⟨by decide, ⟨⟨by decide +kernel, by decide +kernel⟩, by decide +kernel⟩, by decide +kernel⟩

theorem witness_copy_commands_3 :
    (regVal copying .A (8 + 1) = 0x300000028 ∧ regVal copying .A 8 = 0x6400000032) ∧ ((1 ≤ 65536 ∧ 65536 ≤ 65536 ∧
    1 ≤ 256 ∧ 256 ≤ 4096 ∧ 256 * 65536 ≤ 2 ^ 24)) ∧
    (SourceOk (run copying) copying (capVal copying 3) ((3 - 1) * 50 + 40) (pullPerms (run copying) (capVal copying 3) ((3 - 1) * 50 + 40)) ∧
    DestinationOk (run copying) copying (capVal copying 1) ((3 - 1) * 100 + 40) true) ∧ copying.vsq =
    some (BitVec.ofNat 2048 0x1000000008000000000) :: [some 4] ∧ ((3 = (regVal copying .A 7).toNat % 128 ∧ 1 =
    (regVal copying .A 7).toNat / 256 % 8)) ∧ vaSpace (capAddr (capVal copying 5)) = 1 ∧
    accessCheck (run copying) 1 ⟨capVal copying 3, capAddr (capVal copying 3) + 256, 8, [permPULL], 8, false,
    false⟩ none = none := by
  unfold DestinationOk SourceOk; decide +kernel

theorem witness_copy_commands_4 :
    2 ≤ ((List.replicate 2 (command .flush Cap.null Cap.null 0)).filter (fun c => !c.started)).length ∧
    ((freeEntry demo).isSome = true ∧ 2 ^ 24 < (2 ^ 24 + 1 : Word).toNat) ∧
    freeEntry { demo with copies := (List.range 8).map entered } = none := by
  decide +kernel

theorem witness_barrier_instructions :
    (Issues (run copying) copying ∧ (4 : BitVec 5) ≠ 0) ∧ (onScoreboard (run copying) (capAddr (capVal copying 4)) 32 =
    false ∧ onMatrixHold (run copying) (vaOff (capAddr (capVal copying 4))) 32 true = false) ∧
    ((run copying).sb.length < 16 ∧ (run copying).copies = []) ∧ ObjectOk (run copying) copying (capVal copying 4) ∧
    HasRoom copying 3 true ∧ (command .flush Cap.null Cap.null 0).tid = copying.tid := by
  unfold ObjectOk Scratch HasRoom Issues; decide +kernel

theorem witness_barrier_instructions_2 :
    LoadGoes (run copying) copying (capAddr (capVal copying 4)) 8 (.sram 0x8000) := by
  exact ⟨by decide +kernel, by decide +kernel, by decide +kernel, .inl (by decide +kernel)⟩

theorem witness_copy_engine_runs :
    startable (engine (command .copy (capS 0 64 0xFFFF) (capS 128 64 0xFFFF) 64)) =
    some (command .copy (capS 0 64 0xFFFF) (capS 128 64 0xFFFF) 64) ∧
    ((command .flush (capD 0 64 0xFFFF) Cap.null 64).stopped = false ∧
    fatalRange demo 1 (capAddr (capS 0 64 0xFFFF)) 64 = none ∧
    fatalRange { demo with pk := { demo.pk with keys := [] } } 1 0 64 = some true) ∧
    (isOwn demo (capAddr (capF 0xFFFF)) = false ∧ vaSpace (capAddr (capF 0xFFFF)) ≠ 2) ∧
    (freshInFlight pulling (capAddr (capF 0xFFFF)) 64 = true ∧ freshInFlight demo (capAddr (capF 0xFFFF)) 64 = false) ∧
    (noPackage demo (capAddr (capF 0xFFFF)) = false ∧
    noPackage { demo with outOfService := [1] } (capAddr (capF 0xFFFF)) = true ∧ fencedOff demo 0 = false) ∧
    { command .pull Cap.null Cap.null 0 with stopped := true }.stopped = true ∧
    startable (engine (command .inval (capF 0xFFFF) Cap.null 64)) = some (command .inval (capF 0xFFFF) Cap.null 64) := by
  decide +kernel

theorem witness_copy_engine_runs_2 :
    (memoriesWf (engine (landing 0)) = true ∧ findCopy (engine (landing 0)) 5 = some (landing 0)) ∧
    ((landing 0).started = true ∧ (landing 0).stopped = false ∧ waitsOnMove (engine (landing 0)) (landing 0) = false) ∧
    ((landing 0).got.length = 1 ∧ (landing 199).done < (landing 199).len) ∧ (vaSpace (capAddr (landing 0).dst) = 1 ∧
    vaOff (capAddr (landing 0).dst) + (landing 0).len ≤ sramBytes) := by
  decide +kernel

theorem witness_copy_engine_runs_3 :
    (finished (done none) = true ∧ (done none).obj = none ∧ findCopy (engine (done none)) 5 = some (done none)) ∧
    ((done (some 0x8000)).fault = false ∧ isPartial (done (some 0x8000)) = false ∧ (done (some 0x8000)).lanemask = 0) := by
  decide +kernel

theorem witness_matrix_commands_issued :
    Issues (literal (w0 1 0 0 0 false 1 0 0 ||| 0x500) 0 0 (w3 0 4 0 8)) demoTask ∧
    ((fetchBytes ((curPc demoTask .A >>> 5 <<< 5) + 32 * sext64 (0 : BitVec 16)) 32).run (literal (w0 1 0 0 0 false 1 0 0 ||| 0x500) 0 0 (w3 0 4 0 8))).toOption.isSome =
    true ∧ (tcwReserved .A 1 0 (w0 1 0 0 0 false 1 0 0 ||| 0x500) 0 0 (w3 0 4 0 8) = false ∧
    opStream (tcwOp (w0 1 0 0 0 false 1 0 0 ||| 0x500)) = some .A) ∧
    tcwValid (w0 1 0 0 0 false 1 0 0 ||| 0x500) (capAddr (capVal demoTask 1)) ((capVal demoTask 1).bits.extractLsb' 64 64) (w3 0 4 0 8) =
    true ∧ tcwReserved .A 1 1 (w0 1 0 0 0 false 1 0 0 ||| 0x500) 0 0 (w3 0 4 0 8) = true ∧
    opStream (tcwOp (w0 0x10 0 0 0 false 0 0 0)) ≠ some .A ∧ (ownSram demo (capAddr (capVal demoTask 1)) = true ∧
    onScoreboard demo (capAddr (capVal demoTask 1)) 32 = false ∧ accessCheck demo 1 ⟨capVal demoTask 1,
    capAddr (capVal demoTask 1), 32, [permLD], 16, false, false⟩ none = none) := by
  unfold Issues; decide +kernel

theorem witness_matrix_commands_issued_2 :
    ((queuedMx [(tcmd (w0 0x10 0 0 0 false 0 0 0) 0 (w3 0 4 0 8))]).mxRun = none ∧
    cmdOp (tcmd (w0 0x10 0 0 0 false 0 0 0) 0 (w3 0 4 0 8)) ≠ opDrrel ∧
    (queuedMx [(tcmd (w0 0x10 0 0 0 false 0 0 0) 0 (w3 0 4 0 8))]).lateCrws = []) ∧
    startChecks (queuedMx [(tcmd (w0 0x10 0 0 0 false 0 0 0) 0 (w3 0 4 0 8))]) (sample (queuedMx [(tcmd (w0 0x10 0 0 0 false 0 0 0) 0 (w3 0 4 0 8))]) (tcmd (w0 0x10 0 0 0 false 0 0 0) 0 (w3 0 4 0 8))) =
    none ∧ (cmdOp (tcmd (w0 0x10 0 0 0 false 0 0 0) 0 (w3 0 5 0 8)) = opTzero ∧
    ¬ Within (tcmd (w0 0x10 0 0 0 false 0 0 0) 0 (w3 0 5 0 8)) (shapeOf (vget tiled.cx.tshape 0 0))) ∧
    (cmdOp (tcmd (w0 0x20 0 7 0 false 1 1 0) 0 (w3 0 4 0 4)) = opMma ∧ shapeOf (vget tiled.cx.tshape 7 0) = ⟨0, 0,
    0⟩) ∧ (cmdOp (tcmd (w0 0x31 0 0 0 true 0 0 0) 0 0x8000) = opWanch ∧ tcwAnchor 0x8000 = -32768 ∧
    startChecks tiled (sample tiled (tcmd (w0 0x31 0 0 0 true 0 0 0) 0 0x8000)) = none) ∧ lockedAcc tiled true = false := by
  unfold Within; decide +kernel

theorem witness_matrix_commands_issued_3 :
    (badWord (spoilt (tcmd (w0 0x10 0 0 0 false 0 0 0) 0 (w3 0 4 0 8))).cx 0 8 = true ∧
    badWord (spoilt (tcmd (w0 0x10 0 0 0 false 0 0 0) 0 (w3 0 4 0 8))).cx 8 8 = false) := by
  decide +kernel

theorem witness_tile_command_results :
    Runs (started (tcmd (w0 0x10 0 0 0 false 0 0 0) 0 (w3 1 3 2 6))) opTzero (runOf (tcmd (w0 0x10 0 0 0 false 0 0 0) 0 (w3 1 3 2 6))) ∧
    TileFits (shapeOf (vget tiled.cx.tshape (tcwDst ((tcmd (w0 0x10 0 0 0 false 0 0 0) 0 (w3 1 3 2 6))).w0) 0)) ∧
    Within (tcmd (w0 0x10 0 0 0 false 0 0 0) 0 (w3 1 3 2 6)) (shapeOf (vget tiled.cx.tshape (tcwDst ((tcmd (w0 0x10 0 0 0 false 0 0 0) 0 (w3 1 3 2 6))).w0) 0)) := by
  unfold Runs TileFits Within; decide +kernel

theorem witness_tile_command_results_2 :
    Runs (started (tcmd (w0 0x11 1 0 0 false 0 0 0) 0 (w3 3 1 7 1))) opTcopy (runOf (tcmd (w0 0x11 1 0 0 false 0 0 0) 0 (w3 3 1 7 1))) ∧
    TileFits (shapeOf (vget tiled.cx.tshape (tcwDst ((tcmd (w0 0x11 1 0 0 false 0 0 0) 0 (w3 3 1 7 1))).w0) 0)) ∧
    Within (tcmd (w0 0x11 1 0 0 false 0 0 0) 0 (w3 3 1 7 1)) (shapeOf (vget tiled.cx.tshape (tcwDst ((tcmd (w0 0x11 1 0 0 false 0 0 0) 0 (w3 3 1 7 1))).w0) 0)) := by
  unfold Runs TileFits Within; decide +kernel

theorem witness_tile_command_results_3 :
    Runs (started (tcmd (w0 0x12 4 2 0 false 0 0 0) 0 (w3 0 4 0 8))) opTxp (runOf (tcmd (w0 0x12 4 2 0 false 0 0 0) 0 (w3 0 4 0 8))) ∧
    TileFits (shapeOf (vget tiled.cx.tshape (tcwDst ((tcmd (w0 0x12 4 2 0 false 0 0 0) 0 (w3 0 4 0 8))).w0) 0)) ∧
    (cmdCols (tcmd (w0 0x12 4 2 0 false 0 0 0) 0 (w3 0 4 0 8)) ≤ 8 ∧
    cmdRows (tcmd (w0 0x12 4 2 0 false 0 0 0) 0 (w3 0 4 0 8)) ≤ 4 ∧
    Within (tcmd (w0 0x12 4 2 0 false 0 0 0) 0 (w3 0 4 0 8)) (shapeOf (vget tiled.cx.tshape 2 0))) := by
  unfold Runs TileFits Within; decide +kernel

theorem witness_tile_command_results_4 :
    Runs (started (tcmd (w0 1 0 0 0 false 1 0 0 ||| 0x500) 0x2000 (w3 0 4 0 8))) opTld (runOf (tcmd (w0 1 0 0 0 false 1 0 0 ||| 0x500) 0x2000 (w3 0 4 0 8))) ∧
    TileFits (shapeOf (vget tiled.cx.tshape (tcwDst ((tcmd (w0 1 0 0 0 false 1 0 0 ||| 0x500) 0x2000 (w3 0 4 0 8))).w0) 0)) ∧
    Within (tcmd (w0 1 0 0 0 false 1 0 0 ||| 0x500) 0x2000 (w3 0 4 0 8)) (shapeOf (vget tiled.cx.tshape (tcwDst ((tcmd (w0 1 0 0 0 false 1 0 0 ||| 0x500) 0x2000 (w3 0 4 0 8))).w0) 0)) ∧
    sbMustWait (started (tcmd (w0 1 0 0 0 false 1 0 0 ||| 0x500) 0x2000 (w3 0 4 0 8))) 1 (scratchVa (started (tcmd (w0 1 0 0 0 false 1 0 0 ||| 0x500) 0x2000 (w3 0 4 0 8))) 0x2000) 32 =
    false := by
  unfold Runs TileFits Within; decide +kernel

theorem witness_tile_command_results_5 :
    Runs (started (tcmd (w0 2 0 2 0 false 3 0 0 ||| 0x500) 0x3000 (w3 0 4 0 8))) opTst (runOf (tcmd (w0 2 0 2 0 false 3 0 0 ||| 0x500) 0x3000 (w3 0 4 0 8))) ∧
    TileFits (shapeOf (vget tiled.cx.tshape 2 0)) ∧
    Within (tcmd (w0 2 0 2 0 false 3 0 0 ||| 0x500) 0x3000 (w3 0 4 0 8)) (shapeOf (vget tiled.cx.tshape 2 0)) ∧
    (cmdCols (tcmd (w0 2 0 2 0 false 3 0 0 ||| 0x500) 0x3000 (w3 0 4 0 8)) * tileWidth 3 % 8 = 0 ∧
    (∀ h ∈ (runOf (tcmd (w0 2 0 2 0 false 3 0 0 ||| 0x500) 0x3000 (w3 0 4 0 8))).cmd.holds,
    bufferedIn (started (tcmd (w0 2 0 2 0 false 3 0 0 ||| 0x500) 0x3000 (w3 0 4 0 8))) 1 h = false)) := by
  unfold Runs TileFits Within; decide +kernel

theorem witness_tile_command_results_6 :
    (badWord (started (tcmd (w0 1 0 0 0 false 1 0 0 ||| 0x500) 0x2000 (w3 0 4 0 8))).cx 0x2000 32 = false ∧
    badWord (spoilt (tcmd (w0 1 0 0 0 false 1 0 0 ||| 0x500) 0x2000 (w3 0 4 0 8))).cx 0 8 = true) := by
  decide +kernel

theorem witness_tile_conversions :
    Runs (started (tcmd (w0 0x13 6 5 0 false 8 0 3) 0 (w3 0 4 0 32))) opTcvt (runOf (tcmd (w0 0x13 6 5 0 false 8 0 3) 0 (w3 0 4 0 32))) ∧
    (TileFits (shapeOf (vget tiled.cx.tshape 6 0)) ∧
    Within (tcmd (w0 0x13 6 5 0 false 8 0 3) 0 (w3 0 4 0 32)) (shapeOf (vget tiled.cx.tshape 6 0)) ∧ isBlockFmt 3 =
    false) ∧
    Runs (started (tcmd (w0 0x13 5 6 0 false 3 0 8) 0x4000 (w3 0 4 0 32))) opTcvt (runOf (tcmd (w0 0x13 5 6 0 false 3 0 8) 0x4000 (w3 0 4 0 32))) ∧
    (isBlockFmt (tcwFo ((tcmd (w0 0x13 5 6 0 false 3 0 8) 0x4000 (w3 0 4 0 32))).w0) = true ∧
    cmdCols (tcmd (w0 0x13 5 6 0 false 3 0 8) 0x4000 (w3 0 4 0 32)) % 32 = 0) := by
  unfold Runs TileFits Within; decide +kernel

theorem witness_accumulator_commands :
    (Runs (started (tcmd (w0 0x20 0 0 1 true 1 1 0) 0 (w3 124 4 60 4))) opMma (runOf (tcmd (w0 0x20 0 0 1 true 1 1 0) 0 (w3 124 4 60 4))) ∧
    AccWindow (tcmd (w0 0x20 0 0 1 true 1 1 0) 0 (w3 124 4 60 4))) ∧
    (Runs (started (tcmd (w0 0x30 0 0 0 true 0 0 0) 0 (w3 0 128 63 1))) opWzero (runOf (tcmd (w0 0x30 0 0 0 true 0 0 0) 0 (w3 0 128 63 1))) ∧
    AccWindow (tcmd (w0 0x30 0 0 0 true 0 0 0) 0 (w3 0 128 63 1))) ∧
    Runs (started (tcmd (w0 0x31 0 0 0 true 0 0 0) 0 0x40)) opWanch (runOf (tcmd (w0 0x31 0 0 0 true 0 0 0) 0 0x40)) ∧
    Runs (started (tcmd (w0 0x32 0 0 0 true 0 0 0) 0 0)) opWauto (runOf (tcmd (w0 0x32 0 0 0 true 0 0 0) 0 0)) := by
  unfold Runs AccWindow; decide +kernel

theorem witness_accumulator_commands_2 :
    accsWf tiled.cx := by
  intro n; cases n <;> decide

theorem witness_gangs_join :
    (Runs (started (tcmd (w0 0x21 0 0 1 false 1 1 0) 0 (w3 0 4 0 4))) opMmag (runOf (tcmd (w0 0x21 0 0 1 false 1 1 0) 0 (w3 0 4 0 4))) ∧
    (runOf (tcmd (w0 0x21 0 0 1 false 1 1 0) 0 (w3 0 4 0 4))).arrived = false) ∧
    ((ownArrival (started (tcmd (w0 0x21 0 0 1 false 1 1 0) 0 (w3 0 4 0 4))) (runOf (tcmd (w0 0x21 0 0 1 false 1 1 0) 0 (w3 0 4 0 4)))).side =
    (ownArrival (started (tcmd (w0 0x21 0 0 1 false 1 1 0) 0 (w3 0 4 0 4))) (runOf (tcmd (w0 0x21 0 0 1 false 1 1 0) 0 (w3 0 4 0 4)))).gang ∧
    (started (tcmd (w0 0x21 0 0 1 false 1 1 0) 0 (w3 0 4 0 4))).cx.gang = []) ∧
    (sameSignature other { other with side := 1 } = false ∧
    gangFull (ganged [{ other with side := 1 }] (runOf (tcmd (w0 0x21 0 0 1 false 1 1 0) 0 (w3 0 4 0 4)))).cx = false ∧
    lostOperands (started (tcmd (w0 0x21 0 0 1 false 1 1 0) 0 (w3 0 4 0 4))) (runOf (tcmd (w0 0x21 0 0 1 false 1 1 0) 0 (w3 0 4 0 4))) =
    false) := by
  unfold Runs; decide +kernel

theorem witness_gangs_join_2 :
    (Runs (ganged [other] (arrivedRun (tcmd (w0 0x21 0 0 1 false 1 1 0) 0 (w3 0 4 0 4)))) opMmag (arrivedRun (tcmd (w0 0x21 0 0 1 false 1 1 0) 0 (w3 0 4 0 4))) ∧
    (arrivedRun (tcmd (w0 0x21 0 0 1 false 1 1 0) 0 (w3 0 4 0 4))).arrived = true) ∧
    ((ganged [other] (arrivedRun (tcmd (w0 0x21 0 0 1 false 1 1 0) 0 (w3 0 4 0 4)))).cx.gang.length =
    gangSize (arrivedRun (tcmd (w0 0x21 0 0 1 false 1 1 0) 0 (w3 0 4 0 4))) ∧
    AccWindow (tcmd (w0 0x21 0 0 1 false 1 1 0) 0 (w3 0 4 0 4))) ∧ (demo.cx.num ≠ 0 ∧
    other.base.toNat + other.member ≠ demo.core.toNat ∧ other.side = other.gang) ∧
    (gangOpen (ganged [{ other with side := 1 }] (arrivedRun (tcmd (w0 0x21 0 0 1 false 1 1 0) 0 (w3 0 4 0 4)))).cx =
    true ∧ (arrivedRun (tcmd (w0 0x21 0 0 1 false 1 1 0) 0 (w3 0 4 0 4))).cmd.ctx = demo.cx.num ∧ other.ctx =
    demo.cx.num) ∧ (gangHere demo other = true ∧ gangFull demo.cx = false ∧
    gangFull (ganged [other] (arrivedRun (tcmd (w0 0x21 0 0 1 false 1 1 0) 0 (w3 0 4 0 4)))).cx = true ∧
    gangHere demo { other with base := 5 } = false) ∧ (gangOpen demo.cx = false ∧
    { other with ctx := 2 }.ctx ≠ demo.cx.num) := by
  unfold Runs AccWindow; decide +kernel

theorem witness_drains_and_rows :
    DrainGoes (started (tcmd (w0 0x40 0 0 0 true 0 0 5 ||| 0x100000000000) 0x2000 (w3 1 3 0 4))) (runOf (tcmd (w0 0x40 0 0 0 true 0 0 5 ||| 0x100000000000) 0x2000 (w3 1 3 0 4))) 0 ∧
    (isBlockFmt (tcwFo ((tcmd (w0 0x40 0 0 0 true 0 0 5 ||| 0x100000000000) 0x2000 (w3 1 3 0 4))).w0) = false ∧
    field ((tcmd (w0 0x40 0 0 0 true 0 0 5 ||| 0x100000000000) 0x2000 (w3 1 3 0 4))).w1 0 22 + cmdRows (tcmd (w0 0x40 0 0 0 true 0 0 5 ||| 0x100000000000) 0x2000 (w3 1 3 0 4)) * drainRowBytes (tcmd (w0 0x40 0 0 0 true 0 0 5 ||| 0x100000000000) 0x2000 (w3 1 3 0 4)) ≤ sramBytes) ∧
    DrainGoes (started (tcmd (w0 0x40 0 0 0 true 0 0 5 ||| 0x300000000000) 0x2000 (w3 1 3 0 4))) (runOf (tcmd (w0 0x40 0 0 0 true 0 0 5 ||| 0x300000000000) 0x2000 (w3 1 3 0 4))) 2 ∧
    (DrainGoes (draining { runOf (tcmd (w0 0x40 0 0 0 true 0 0 5 ||| 0x200000000000) 0x2000 (w3 1 3 0 4)) with row := 3 }) { runOf (tcmd (w0 0x40 0 0 0 true 0 0 5 ||| 0x200000000000) 0x2000 (w3 1 3 0 4)) with row := 3 } 1 ∧
    3 = cmdRows (tcmd (w0 0x40 0 0 0 true 0 0 5 ||| 0x200000000000) 0x2000 (w3 1 3 0 4))) ∧
    (drainMode (runOf (tcmd (w0 0x40 0 0 0 true 0 0 5 ||| 0x200000000000) 0x2000 (w3 1 3 0 4))) = 1 ∧
    (runOf (tcmd (w0 0x40 0 0 0 true 0 0 5 ||| 0x200000000000) 0x2000 (w3 1 3 0 4))).row < cmdRows (tcmd (w0 0x40 0 0 0 true 0 0 5 ||| 0x200000000000) 0x2000 (w3 1 3 0 4)) ∧
    (runOf (tcmd (w0 0x40 0 0 0 true 0 0 5 ||| 0x200000000000) 0x2000 (w3 1 3 0 4))).heldRows.length < 4) ∧
    (cmdOp ({ tcmd (w0 0x41 0 0 0 true 0 0 0) 1 0 with num := 1 }) = opDrrel ∧
    tcwAcc ({ tcmd (w0 0x41 0 0 0 true 0 0 0) 1 0 with num := 1 }).w0 =
    tcwAcc ((tcmd (w0 0x40 0 0 0 true 0 0 5 ||| 0x200000000000) 0x2000 (w3 1 3 0 4))).w0) ∧
    Runs (draining { runOf (tcmd (w0 0x40 0 0 0 true 0 0 5 ||| 0x300000000000) 0x2000 (w3 1 3 0 4)) with awaiting := true }) opDrain { runOf (tcmd (w0 0x40 0 0 0 true 0 0 5 ||| 0x300000000000) 0x2000 (w3 1 3 0 4)) with awaiting := true } := by
  unfold DrainGoes Runs; decide +kernel

theorem witness_tasks_end_and_trap :
    ((reported 5 none).report.flagAt = none ∧ (reported 5 none).report.nanAt = none ∧ (reported 5 none).report.cvts =
    0) ∧ (reported 5 (some (1, 2))).report.flagAt = some (1, 2) ∧ (taskIn demo 0 = some demoTask ∧ demoTask.tid =
    (tcmd 0 0 0).tid ∧ demoTask.cmdTrap = none ∧ demoTask.ending ≠ .departing) ∧ (taskIn (run trapping) 0 =
    some trapping ∧ trapping.cmdTrap = some ⟨⟨.gangTimeout, 3, 0⟩, 0x40, .E⟩) := by
  decide +kernel

theorem witness_tasks_end_and_trap_2 :
    (slotHolds (run (stopping .draining [])) 0 (stopping .draining []) ∧ (stopping .draining []).ending = .draining ∧
    (stopping .draining []).cmdTrap = none ∧ (stopping .draining []).port = none) ∧ (run demoTask).cx.numtrap = 0 ∧
    slotHolds (run { trapping with ending := .draining }) 0 { trapping with ending := .draining } ∧
    (slotHolds (linked (stopping .departing [])) 0 (stopping .departing []) ∧
    (linked (stopping .departing [])).cx.runq = [] ∧ (linked (stopping .departing [])).sweep = .idle ∧
    (stopping .departing []).names = none) ∧
    (slotHolds (linked (stopping .departing [.message farMsg])) 0 (stopping .departing [.message farMsg]) ∧
    (linked (stopping .departing [.message farMsg])).sb = []) ∧
    destCtx (linked demoTask) (linked demoTask).cx (msgPkg farMsg) (msgCore farMsg) (msgChan farMsg).toNat = some 6 ∧
    (linked demoTask).sendQueue.length < 2 ∧ ({ demoTask with deadlock := 65536 }.deadlock = 65536#17 ∧
    demoTask.sa.ended = false ∧ { demoTask.sa with ended := true }.ended = true) ∧
    { demoTask with wdbudget := 0 }.wdbudget = 0 := by
  unfold slotHolds; decide +kernel

theorem witness_tasks_end_and_trap_3 :
    (slotHolds (portEnding []) 0 (ported true (stopping .draining [])) ∧
    (ported true (stopping .draining [])).port.isSome = true ∧ (ported true (stopping .draining [])).ending =
    .draining ∧ (portEnding []).sb = [] ∧ (portEnding oneStore).sb ≠ []) ∧ (numtrapNow (portEnding []) = 0 ∧
    (ported true (stopping .draining [])).cmdTrap = none) := by
  unfold slotHolds; decide +kernel

theorem witness_tasks_end_and_trap_4 :
    (slotHolds (run (stopping .departing [.message farMsg])) 0 (stopping .departing [.message farMsg]) ∧
    destCtx demo demo.cx (msgPkg farMsg) (msgCore farMsg) (msgChan farMsg).toNat = none) ∧
    ((stopping .departing [.spawn farMsg 3]).staged = [.spawn farMsg 3] ∧
    (stopping .departing [.contrib (demoContrib 1 none)]).staged = [.contrib (demoContrib 1 none)] ∧
    (run (stopping .departing [])).sb = []) := by
  unfold slotHolds; decide +kernel

theorem witness_chain_instructions :
    Issues (chained false [] (withA [(4, 0x3400C50002)])) (withA [(4, 0x3400C50002)]) ∧ operandOf (withA [(4,
    0x3400C50002)]) .A 4 false = some (0x3400C50002, (withA [(4, 0x3400C50002)])) ∧ ((armDesc 0x3400C50002).ok = true ∧
    (armDesc 0x50000).ok = false) ∧ (foreignStore (chained false [] (withA [(4,
    0x3400C50002)])) 1 (capAddr (capVal demoTask 3)) 0x400 = false ∧
    capTop (capS 0x400 0x400 0xFFFF) - (capAddr (capS 0x400 0x400 0xFFFF)).toNat = 0x400) ∧
    (ownSram demo (capAddr (capS 0x400 0x400 0xFFFF)) = true ∧ accessCheck demo 1 ⟨capS 0x400 0x400 0xFFFF,
    capAddr (capS 0x400 0x400 0xFFFF), 0x400, [permST], 16, false, false⟩ none = none) ∧
    (armDesc 0x3400C50002).boff + 32 ≤ scratchEnd demo.cx ∧ (armOverlap (chained true [] demoTask) 0x200 0x100 = true ∧
    armOverlap demo 0x400 0x400 = false ∧ armOverlap demo 0x3400 32 = false) ∧
    (onScoreboard demo (capAddr (capS 0x400 0x400 0xFFFF)) 0x400 = false ∧ demo.sb = []) ∧
    ((chainAt (chained true [] demoTask).cx 2).armed = true ∧ (chainAt (chained true [] demoTask).cx 3).armed =
    false) ∧ (∀ e ∈ (chained false [⟨0, 1, .flit (demoFlit 0)⟩] demoTask).ovf, flitFor 1 3 e = false) := by
  unfold Issues; decide +kernel

theorem witness_chain_instructions_2 :
    HasRoom demoTask 5 false ∧ ((chainAt (chained true [] demoTask).cx 2).armed = true ∧ (chainAt demo.cx 2).armed =
    false) := by
  unfold HasRoom; decide +kernel

theorem witness_chain_instructions_3 :
    foreignStore (arming false (capF 0xFFFF) 0x3400C50002) 1 (capAddr (capF 0xFFFF)) 65536 = true ∧ (Cap.null.tag =
    false ∧ foreignStore demo 1 0 0 = false) ∧ (capSealed (capPut (capS 0x400 0x400 0xFFFF) 80 4 3) = true ∧
    hasPerm (capS 0x400 0x400 0xFFFD) permST = false ∧ (capS 0x400 0x400 0xFFFD).tag = true ∧
    capSealed (capS 0x400 0x400 0xFFFD) = false) ∧ accessCheck demo 1 ⟨capD 0 1024 0xFFFF, 0, 1024, [permST], 16,
    false, false⟩ (some dtlNotScratchpad) = some (.pagePerm, dtlNotScratchpad) ∧ ownSram demo 0 = false := by
  decide +kernel

theorem witness_chain_instructions_4 :
    (accessCheck demo 1 ⟨capS 0x400 0x408 0xFFFF, capAddr (capS 0x400 0x408 0xFFFF), 0x408, [permST], 16, false,
    false⟩ none = none ∧ capTop (capS 0x400 0x408 0xFFFF) - (capAddr (capS 0x400 0x408 0xFFFF)).toNat = 0x408 ∧
    0x408 % 16 ≠ 0) ∧ (capTop (capS 0x400 0x40020 0xFFFF) - (capAddr (capS 0x400 0x40020 0xFFFF)).toNat = 0x40020 ∧
    ¬ (0x40020 / 16 ≤ 16384)) := by
  decide +kernel

theorem witness_chain_instructions_5 :
    ((armDesc 0x3FFFE0C50002).ok = true ∧ (armDesc 0x3FFFE0C50002).akind.getLsbD 1 = true ∧
    scratchEnd demo.cx < (armDesc 0x3FFFE0C50002).boff + 32) := by
  decide +kernel

theorem witness_chain_instructions_6 :
    ((chainAt (arming true (capS 0x400 0x400 0xFFFF) 0x3400C50002).cx 2).armed = true ∧
    (armDesc 0x3400C50002).akind.getLsbD 1 = true ∧ (armDesc 0x50002).akind.getLsbD 1 = false ∧ (armDesc 0x50002).ok =
    true) ∧ (armOverlap (chained true [] demoTask) 0x2E0 0x100 = true ∧
    armOverlap (chained true [] demoTask) 0x300 0x400 = false) ∧
    (badWord { demo.cx with sramErr := [(0x80, .uncorrectable)] } 0x400 0x400 = true ∧ badWord demo.cx 0x400 0x400 =
    false) ∧ ({ demo with sb := oneStore }.sb ≠ [] ∧ flitFor 1 2 ⟨0, 1, .flit (demoFlit 0)⟩ = true) := by
  decide +kernel

theorem witness_contributions_travel :
    Issues (linked (withA [(4, chainWord 1 3 125 2)])) (withA [(4, chainWord 1 3 125 2)]) ∧ operandOf (withA [(4,
    chainWord 1 3 125 2)]) .A 4 false = some (chainWord 1 3 125 2, withA [(4, chainWord 1 3 125 2)]) ∧
    (chainDesc (chainWord 1 3 125 2)).ok = true ∧ (headContext (linked demoTask) (linked demoTask).cx 0 1 = some 6 ∧
    headContext (linked demoTask) (linked demoTask).cx 0 0 = some 1) ∧ demoTask.staged.length < 8 ∧
    ((chainAt (linked demoTask).cx 2).armed = true ∧ (chainAt (linked demoTask).cx 2).mode = 0) ∧
    (chainDesc (chainWord 1 3 125 2)).row0.toNat + (chainDesc (chainWord 1 3 125 2)).nrm1.toNat < 128 ∧
    ((chainDesc (chainWord 1 0 1 2)).row0 = 0 ∧ (chainDesc (chainWord 1 0 1 2)).nrm1 = 0) := by
  unfold Issues; decide +kernel

theorem witness_contributions_travel_2 :
    (sendsNext 1 none).sending = [] ∧ (packagePresent (sendsNext 1 none) 0 = true ∧
    packagePresent { sendsNext 1 none with members := [] } 0 = false) ∧ (¬ ((1 : BitVec 10) = demo.core)) ∧
    commandsDone (sendsNext 1 (some (true, 3, 1))) 0 = true ∧ ((sendsNow 1 1).sending ≠ [] ∧
    (∀ x ∈ (sendsNow 1 1).sending, x.contrib.num ≠ 77)) := by
  decide +kernel

theorem witness_contributions_travel_3 :
    ((chainDesc (chainWord 1 3 126 2)).row0.toNat + (chainDesc (chainWord 1 3 126 2)).nrm1.toNat = 128 ∧
    (chainDesc (chainWord 1 3 125 2)).row0.toNat + (chainDesc (chainWord 1 3 125 2)).nrm1.toNat = 127) ∧
    (chainDesc 0x8000000000000000).ok = false := by
  decide +kernel

theorem witness_contributions_travel_4 :
    (Issues (linked (withA [(4, chainWord 5 0 1 2)])) (withA [(4, chainWord 5 0 1 2)]) ∧
    headContext (linked demoTask) (linked demoTask).cx 0 5 = none ∧ (chainDesc (chainWord 5 0 1 2)).core = 5 ∧
    (chainDesc (chainWord 5 0 1 2)).pkg = 0) ∧ ((chainDesc (chainWord 0 0 1 2)).core = demo.core ∧
    (chainDesc (chainWord 0 0 1 2)).pkg = demo.pkg ∧ (chainAt demo.cx 2).armed = false ∧ headContext demo demo.cx 0 0 =
    some 1) ∧ ((chainAt (contributing 1 (chainWord 0 0 1 2)).cx 2).armed = true ∧
    (chainAt (contributing 1 (chainWord 0 0 1 2)).cx 2).mode ≠ 0 ∧
    headContext (contributing 1 (chainWord 0 0 1 2)) (contributing 1 (chainWord 0 0 1 2)).cx 0 0 = some 1) ∧
    8 ≤ { demoTask with staged := List.replicate 8 (.contrib (demoContrib 1 none)) }.staged.length := by
  unfold Issues; decide +kernel

theorem witness_contributions_travel_5 :
    (findCtx demo 1 = some demo.cx ∧ supChannel demo.cx = none ∧ demo.regs.runqlost ≠ 0xFFFF) ∧
    (findCtx (supTabled demoTask) 1 = some (supTabled demoTask).cx ∧ supChannel (supTabled demoTask).cx = some 7) := by
  decide +kernel

theorem witness_contributions_travel_6 :
    (lostRows lostRow (demoContrib 1 (some (true, 3, 1))) = true ∧ commandsDone lostRow 0 = true ∧ lostRow.sending =
    []) ∧ lostRows (sendsNext 1 (some (true, 3, 1))) (demoContrib 1 (some (true, 3, 1))) = false := by
  decide +kernel

theorem witness_contributions_travel_7 :
    ((sendsNow 1 1).sending.map (fun x => (x.flits.filter (fun f => decide (f.seq ≠ 0))).isEmpty)) = [false] ∧
    (¬ ((demoContrib 1 none).hpkg = demo.pkg ∧ (demoContrib 1 none).hcore = demo.core)) ∧
    ([flitsOf demo (demoContrib 1 none)].map (fun l => ((l.take 1).filter (fun f => decide (f.seq ≠ 0))).isEmpty)) =
    [true] := by
  decide +kernel

theorem witness_flits_arrive :
    fencedOff demo 0 = false ∧ (expectedFlit demo (demoFlit 0).contrib = 0 ∧ 0 < (demoFlit 1).seq ∧ (demoFlit 0).seq =
    0) ∧ (demoFlit 0).seq < expectedFlit { demo with flitNext := [(⟨0, 1, 5⟩, 3)] } (demoFlit 0).contrib ∧
    ((demoFlit 0).dctx ∉ demo.pk.fatals ∧ (demoFlit 0).dctx = demo.cx.num ∧ demo.cx.residency = .resident) ∧
    (findCtx demo 1 = some demo.cx ∧ findCtx demo 77 = none) ∧ ((chainAt (chained true [] demoTask).cx 2).armed =
    true ∧ (chained true [] demoTask).ovf = []) ∧ (chainAt demo.cx 2).armed = false ∧
    (demo.ovf.length < ovfCapacity { demo with regs := { demo.regs with ovfcfg := 0x20000000 } } ∧
    ovfCapacity demo ≤ demo.ovf.length) := by
  decide +kernel

theorem witness_flits_arrive_2 :
    ⟨0, 1, 5⟩ ∈ { demo with flitRefused := [⟨0, 1, 5⟩] }.flitRefused ∧ (lastFlit.last = true ∧
    field (chainAt (lastDue []).cx 2).status 0 16 + 1 = field (chainAt (lastDue []).cx 2).status 16 16 ∧
    (chainAt (lastDue []).cx 2).armed = true) ∧ ((lastDue oneStore).sb ≠ [] ∧ (lastDue []).sb = []) ∧
    ((chainAt (closingIn 1).cx 2).closing = some 1 ∧ (chainAt (closingIn 2).cx 2).closing = some 2 ∧
    (∀ j ∈ List.range 32, j ≠ 2 → (chainAt (closingIn 1).cx j).closing = none)) ∧
    { demo with pk := { demo.pk with fatals := [1] } }.pk.fatals = [1] := by
  decide +kernel

theorem witness_flits_arrive_3 :
    memWf (chained true [] demoTask).cx.sram = true ∧ ((demoFlit 0).elems = [7] ∧ (demoFlit 0).poison = [false] ∧
    (demoFlit 0).wide = true ∧ (demoFlit 0).last = false) ∧
    ((demoFlit 0).eidx.toNat < (chainAt (chained true [] demoTask).cx 2).count.toNat ∧
    (chainAt (chained true [] demoTask).cx 2).mode = 0) ∧
    leNat (memBytes (chained true [] demoTask).cx.sram 0x230 16) ≠ 170141183460469231731687303715884105728 := by
  decide +kernel

theorem witness_flits_arrive_4 :
    (memWf (landed 0 (2 ^ 127)).cx.sram = true ∧ (chainAt (landed 0 (2 ^ 127)).cx 2).mode = 0 ∧
    lostLanding (landed 0 (2 ^ 127)) { demoFlit 0 with eidx := 0 } = false ∧
    leNat (memBytes (landed 0 (2 ^ 127)).cx.sram 0x200 16) = 2 ^ 127) ∧ ({ demoFlit 0 with poison := [true] }.poison =
    [true] ∧ (demoFlit 0).wide = true) ∧ ((thinFlit 0).wide = false ∧ (thinFlit 0).elems = [7] ∧ (thinFlit 0).poison =
    [false] ∧ (thinFlit 0).last = false ∧ leNat (memBytes (landed 0 5).cx.sram 0x200 16) ≠ 2 ^ 127) := by
  decide +kernel

theorem witness_flits_arrive_5 :
    (memWf (landed 1 0x3F800000).cx.sram = true ∧ (chainAt (landed 1 0x3F800000).cx 2).mode = 1 ∧
    lostLanding (landed 1 0x3F800000) (thinFlit 15) = false ∧
    (thinFlit 15).eidx.toNat < (chainAt (landed 1 0x3F800000).cx 2).count.toNat) := by
  decide +kernel

theorem witness_flits_arrive_6 :
    (memWf (landed 2 0x3F800000).cx.sram = true ∧ (chainAt (landed 2 0x3F800000).cx 2).mode = 2 ∧
    lostLanding (landed 2 0x3F800000) (thinFlit 15) = false ∧
    (thinFlit 15).eidx.toNat < (chainAt (landed 2 0x3F800000).cx 2).count.toNat) := by
  decide +kernel

theorem witness_flits_arrive_7 :
    (memWf (landed 3 0x3F800000).cx.sram = true ∧ (chainAt (landed 3 0x3F800000).cx 2).mode = 3 ∧
    lostLanding (landed 3 0x3F800000) (thinFlit 15) = false ∧
    (thinFlit 15).eidx.toNat < (chainAt (landed 3 0x3F800000).cx 2).count.toNat) := by
  decide +kernel

theorem witness_flits_arrive_8 :
    (memWf (landed 4 0x3F800000).cx.sram = true ∧ (chainAt (landed 4 0x3F800000).cx 2).mode = 4 ∧
    lostLanding (landed 4 0x3F800000) (thinFlit 15) = false ∧
    (thinFlit 15).eidx.toNat < (chainAt (landed 4 0x3F800000).cx 2).count.toNat) := by
  decide +kernel

theorem witness_flits_arrive_9 :
    ((thinFlit 16).wide = false ∧ ¬ ((thinFlit 16).eidx.toNat < (chainAt (landed 2 5).cx 2).count.toNat) ∧
    lostLanding (landed 2 5) (thinFlit 16) = false) ∧ ((demoFlit 0).wide = true ∧
    (chainAt (landed 1 5).cx 2).mode ≠ 0 ∧ lostLanding (landed 1 5) (demoFlit 0) = false) ∧
    ((chainAt (landed 0 5).cx 2).anchor = none ∧
    (putChain demo.cx 2 { armK true 0 with anchor := some 9 } |> (chainAt · 2)).anchor = some 9) ∧
    lostLanding { landed 0 5 with cx := { (landed 0 5).cx with sramErr := [(0x40, .uncorrectable)] } } { demoFlit 0 with eidx := 0 } =
    true := by
  decide +kernel

theorem witness_flits_arrive_10 :
    ([0, 1, 2, 3].map (fun k => (chainAt (announcing k).cx 2).akind)) = [0, 1, 2, 3] ∧
    (field (chainAt (lastDue []).cx 2).status 0 16 + 1 < 2 ^ 16 ∧
    field (chainAt (lastDue []).cx 2).status 0 16 + 0 ≠ field (chainAt (lastDue []).cx 2).status 16 16 ∧
    (demoFlit 0).last = false) := by
  decide +kernel

theorem witness_messages_staged :
    ((0x68000805#32 : InstrWord) >>> 26).toNat = 0x1A ∧ (0x68000805#32 : InstrWord).toNat % 256 = 5 ∧
    (0x68000805#32 : InstrWord).toNat / 2 ^ 11 % 2 ^ 10 ≠ 0 := by
  decide +kernel

theorem witness_messages_staged_2 :
    Issues (linked (withA [(4, sendWord 7 1 40 0)])) (withA [(4, sendWord 7 1 40 0)]) ∧ operandOf (withA [(4,
    sendWord 7 1 40 0)]) .A 4 false = some (sendWord 7 1 40 0, (withA [(4, sendWord 7 1 40 0)])) ∧
    (48 < (sendDesc (sendWord 7 1 49 0)).len ∧ (sendDesc (sendWord 7 1 48 0)).len ≤ 48 ∧
    (sendDesc (sendWord 7 1 48 0)).ok = true) ∧ ((sendDesc (sendWord 7 1 48 5)).cslots ≠ 0 ∧
    (sendDesc (sendWord 7 1 48 0)).cslots = 0) ∧ (destCtx (linked demoTask) (linked demoTask).cx 0 1 4 = none ∧
    destCtx (linked demoTask) (linked demoTask).cx 0 1 5 = some 6 ∧
    destCtx (linked demoTask) (linked demoTask).cx 0 1 8 = some 6 ∧
    destCtx (linked demoTask) (linked demoTask).cx 0 1 9 = none) ∧ demoTask.staged.length < 8 ∧
    8 ≤ { demoTask with staged := List.replicate 8 (.message ⟨0, 0, Cap.null, Cap.null, Cap.null, none⟩) }.staged.length := by
  unfold Issues; decide +kernel

theorem witness_messages_staged_3 :
    (HasRoom demoTask 5 false ∧ demoTask.lastMsgid = none ∧ { demoTask with lastMsgid := some 9 }.lastMsgid = some 9) := by
  unfold HasRoom; decide +kernel

theorem witness_messages_staged_4 :
    Issues (linked (withA [(4, sendWord 7 1 0 0)])) (withA [(4, sendWord 7 1 0 0)]) ∧
    Issues (linked (ported true (withA [(4, sendWord 7 1 0 0)]))) (ported true (withA [(4, sendWord 7 1 0 0)])) ∧
    ((ported true (withA [(4, sendWord 7 1 0 0)])).port.isSome = true ∧ demoTask.port = none) ∧
    Plain (sendDesc (sendWord 7 1 0 0)) ∧ (linked demoTask).sb = [] ∧ packagePresent (linked demoTask) 0 = true ∧
    (ported false demoTask).port ≠ (ported true demoTask).port := by
  unfold Issues Plain; decide +kernel

theorem witness_messages_staged_5 :
    (Issues (linked (withA [(4, sendWord 7 1 48 5)])) (withA [(4, sendWord 7 1 48 5)]) ∧
    (sendDesc (sendWord 7 1 48 5)).len ≤ 48 ∧ (sendDesc (sendWord 7 1 48 5)).ok = true ∧
    (sendDesc (sendWord 7 1 48 5)).cslots ≠ 0 ∧ (2 : BitVec 4) ≠ 0 ∧
    destCtx (linked demoTask) (linked demoTask).cx 0 1 7 = some 6) ∧ (Plain (sendDesc (sendWord 4 1 0 0)) ∧
    destCtx (linked demoTask) (linked demoTask).cx 0 1 4 = none ∧ demoTask.port = none) ∧
    (¬ Plain (sendDesc (sendWord 7 1 1 0)) ∧ ¬ Plain (sendDesc (sendWord 7 1 0 1))) ∧
    (packagePresent { linked demoTask with members := [] } 0 = false ∧ (ported true demoTask).port.isSome = true ∧
    ((ported true demoTask).port.map (·.routed)) = some true ∧ ((ported false demoTask).port.map (·.routed)) =
    some false) := by
  unfold Issues Plain; decide +kernel

theorem witness_channel_bits_and_endpoints :
    Issues (linked (withA [(4, sendWord 7 1 0 0), (5, 0xFFFFFFFFFFFFFFFE)])) (withA [(4, sendWord 7 1 0 0), (5,
    0xFFFFFFFFFFFFFFFE)]) ∧ (operandOf (withA [(4, sendWord 7 1 0 0), (5, 0xFFFFFFFFFFFFFFFE)]) .A 4 false =
    some (sendWord 7 1 0 0, (withA [(4, sendWord 7 1 0 0), (5, 0xFFFFFFFFFFFFFFFE)])) ∧ operandOf (withA [(4,
    sendWord 7 1 0 0), (5, 0xFFFFFFFFFFFFFFFE)]) .A 5 false = some (0xFFFFFFFFFFFFFFFE, (withA [(4, sendWord 7 1 0 0),
    (5, 0xFFFFFFFFFFFFFFFE)]))) ∧ (Plain (sendDesc (sendWord 7 0 0 0)) ∧ (sendDesc (sendWord 7 0 0 0)).pkg = demo.pkg ∧
    (sendDesc (sendWord 7 0 0 0)).core = demo.core) ∧ (chanSup demo.cx 7 = false ∧ chanSup (supTabled userTask).cx 7 =
    true ∧ userTask.sup = false) ∧ (¬ ((sendDesc (sendWord 7 1 0 0)).pkg = demo.pkg ∧
    (sendDesc (sendWord 7 1 0 0)).core = demo.core)) := by
  unfold Issues Plain; decide +kernel

theorem witness_channel_bits_and_endpoints_2 :
    (memWf demo.cx.sram = true ∧ 63 < 64) ∧ (Issues (run (withA [(4, 31)])) (withA [(4, 31)]) ∧ (regVal (withA [(4,
    31)]) .A 4).toNat < 32 ∧ 32 ≤ (regVal (withA [(4, 32)]) .A 4).toNat) ∧ (epCap.tag = true ∧ capType epCap = 2 ∧
    (3 : BitVec 5) ≠ 0) ∧ ((waits (.epbind epCap (some 6))).sa.wait = .epbind epCap (some 6) ∧
    slotHolds (run (waits (.epbind epCap none))) 0 (waits (.epbind epCap none))) ∧ ((granted [⟨1, 6, 0, 1, 3,
    60⟩]).pk.grants = [⟨1, 6, 0, 1, 3, 60⟩] ∧ (3 : BitVec 6).toNat ≤ (endpointOf epCap 1).lo ∧
    (endpointOf epCap 1).top ≤ (60 : BitVec 6).toNat + 1) ∧ ((∀ g ∈ (granted [⟨1, 6, 0, 1, 6, 60⟩, ⟨2, 6, 0, 1, 3,
    60⟩]).pk.grants, g.grantee ≠ 1 ∨ g.pkg ≠ 0 ∨ g.core ≠ 1 ∨ (endpointOf epCap 1).lo < g.lo.toNat)) := by
  unfold Issues slotHolds; decide +kernel

theorem witness_channel_bits_and_endpoints_3 :
    (destCtx (linked demoTask) (linked demoTask).cx 0 1 4 = none ∧ Plain (sendDesc (sendWord 4 1 0 0)) ∧
    (sendDesc (sendWord 4 1 0 0)).core = 1) ∧ destCtx (linked demoTask) (linked demoTask).cx 0 1 7 = some 6 ∧
    (¬ Plain (sendDesc (sendWord 7 1 1 0))) ∧ (Cap.null.tag = false ∧ (capS 0 64 0xFFFF).tag = true ∧
    capType (capS 0 64 0xFFFF) ≠ 2 ∧ (streamOf demoTask .A).wait = .ready) := by
  unfold Plain; decide +kernel

theorem witness_spawn_handshake :
    Issues (linked (withA [(4, sendWord 7 1 0 0)])) (withA [(4, sendWord 7 1 0 0)]) ∧ operandOf (withA [(4,
    sendWord 7 1 0 0)]) .A 4 false = some (sendWord 7 1 0 0, (withA [(4, sendWord 7 1 0 0)])) ∧
    destCtx (linked demoTask) (linked demoTask).cx 0 1 7 = some 6 ∧ (Plain (sendDesc (sendWord 7 1 0 0)) ∧
    (streamOf (withA [(4, sendWord 7 1 0 0)]) .A).wait = .ready) ∧ (HasRoom (withA [(4, sendWord 7 1 0 0)]) 5 false ∧
    (streamOf (spawning (some true)) .A).wait = .spawn 0 0 1 (sendWord 7 1 0 0) 1 (some true) ∧
    (spawning (some true)).staged.length < 8) ∧
    (portQueue { spawning (some false) with lq := #v[[some 3, none], [], [], []] } 0 = [some 3] ++ [none] ∧
    [some (3 : Word)].all (fun x => decide (x ≠ none)) = true) ∧ (¬ Plain (sendDesc (sendWord 7 1 8 0)) ∧
    8 ≤ { spawning (some true) with staged := List.replicate 8 (.message ⟨0, 0, Cap.null, Cap.null, Cap.null, none⟩) }.staged.length) := by
  unfold HasRoom Issues Plain; decide +kernel

theorem witness_spawn_handshake_2 :
    (fencedOff openTarget 0 = false ∧ (1 : BitVec 12) ≠ 0 ∧ openTarget.cx.num = 1 ∧ openTarget.switchReq = false ∧
    chanPresent openTarget.cx 7 = true ∧ chanEn openTarget.cx 7 = true ∧ chanHold openTarget.cx 7 = false) ∧
    (slotAt openTarget 1 = .free ∧ (∀ j, j < 1 → slotAt openTarget j ≠ .free)) ∧ (∀ k,
    k < 4 → slotAt { openTarget with slots := Vector.replicate 4 (.running demoTask) } k ≠ .free) ∧ chanEn demo.cx 7 =
    false ∧ (0 < demo.nextId ∧ slotHolds (run (spawning none)) 0 (spawning none) ∧ (spawning none).sa.wait =
    .spawn 0 0 1 (sendWord 7 1 0 0) 1 none) ∧ (isHere reservedFor spawnMsg = true ∧ msgKind spawnMsg = kindSpawn ∧
    silenced reservedFor (msgDctx spawnMsg) (msgSrcPkg spawnMsg) = false ∧ reservedFor.cx.num = msgDctx spawnMsg ∧
    spawnMsg.record = none) ∧ slotAt reservedFor 1 =
    .reserved 3 (msgSrcPkg spawnMsg) (msgSrcCore spawnMsg) (msgChan spawnMsg) ∧ (∀ j, j < 1 → ∀ i,
    slotAt reservedFor j ≠ .reserved i (msgSrcPkg spawnMsg) (msgSrcCore spawnMsg) (msgChan spawnMsg)) := by
  refine ⟨?_, ?_, ?_, ?_, ?_, ?_, ?_, ?_⟩
  · decide +kernel
  · decide +kernel
  · decide +kernel
  · decide +kernel
  · unfold slotHolds; decide +kernel
  · decide +kernel
  · decide +kernel
  · intro j hj i h
    have : j = 0 := by omega
    subst this
    exact Slot.noConfusion h

theorem witness_arrivals_delivered :
    packetSource demo (packetNo 1 0).row = some (0, 1) ∧ ((packetNo 1 0).access.packet = some ⟨0, 1, 0⟩ ∧ 0 =
    expectedPacket demo ⟨0, 1, 0⟩) ∧ ((packetNo 1 1).access.packet = some ⟨0, 1, 1⟩ ∧ 1 ≠ expectedPacket demo ⟨0, 1,
    1⟩) ∧ (((0, 2) : BitVec 9 × BitVec 10) ≠ (0, 1) ∧ packetSource demo (.ringHoldTimeout 1 7) = none ∧
    msgKind dataMsg = kindData) := by
  decide +kernel

theorem witness_arrivals_delivered_2 :
    (isHere offTarget dataMsg = true ∧ msgKind dataMsg = kindData ∧
    silenced offTarget (msgDctx dataMsg) (msgSrcPkg dataMsg) = false) ∧ (findCtx offTarget 77 = none ∧
    findCtx offTarget (msgDctx dataMsg) = some offTarget.cx ∧ offTarget.cx.residency = .resident ∧
    chanPresent offTarget.cx 7 = true) ∧ (offTarget.ovf = [] ∧ offTarget.cx.held = []) ∧
    ((ringDeposit offTarget offTarget.cx 7 dataMsg).isSome = true ∧ ringDeposit fullTarget fullTarget.cx 7 dataMsg =
    none) ∧ (memWf offTarget.cx.sram = true ∧ chanUsed offTarget.cx 7 = 0 ∧ 64 ≤ chanRsize offTarget.cx 7 ∧
    chanRbase offTarget.cx 7 % 16 = 0 ∧ chanAddr offTarget.cx 7 + 64 ≤ chanRbase offTarget.cx 7) := by
  decide +kernel

theorem witness_arrivals_delivered_3 :
    (findCtx (holdsOne 0x20000000) 1 = some (holdsOne 0x20000000).cx ∧ (holdsOne 0x20000000).cx.held =
    [.message dataMsg] ∧ (holdsOne 0x20000000).ovf.length < ovfCapacity (holdsOne 0x20000000)) ∧
    { demo.cx with runq := [.chan 7 3 0] }.runq[0]? = some (.chan 7 3 0) ∧
    (silenced demo (chanPacket true).dctx (chanPacket true).spkg = false ∧ findCtx demo 1 = some demo.cx ∧
    (chanPacket true).dctx = demo.cx.num) ∧ (chanSup (supTabled demoTask).cx 7 = true ∧ (chanPacket false).sup =
    false ∧ chanSup demo.cx 7 = false) ∧ (silenced (gathering 4) 1 0 = false ∧ findCtx (gathering 4) 1 =
    some (gathering 4).cx) ∧ (gathering 4).cx.inStreams = [⟨7, 0, 1, 1, false, 3, [1, 1, 1, 1], 0, ⟨⟨0, 1, false⟩, 9,
    false⟩⟩] ∧ (ofStream (streamFlit 3) ⟨7, 0, 1, 1, false, 3, [1], 0, ⟨⟨0, 1, false⟩, 9, false⟩⟩ = true ∧
    ofStream (streamFlit 4) ⟨7, 0, 1, 1, false, 3, [1], 0, ⟨⟨0, 1, false⟩, 9, false⟩⟩ = false) ∧
    slotHolds (run (ported false demoTask)) 0 (ported false demoTask) ∧ parkedChan (.chanop (chanPacket true)) =
    some 7 ∧ (far.dpkg ≠ demo.pkg ∧ (∀ i ∈ minimalLinks (farPort false) 1, hasRoute (farPort false) i = false) ∧
    minimalLinks (farPort true) 1 = [0] ∧ hasRoute (farPort true) 0 = true) ∧
    { far with dpkg := 0, dcore := 0, routed := true } ∈ openPorts blockedPort := by
  unfold slotHolds; decide +kernel

theorem witness_revocation_sweeps :
    Issues (mapped (withA [(4, 640)])) (withA [(4, 640)]) ∧ operandOf (withA [(4, 640)]) .A 4 false = some (640,
    (withA [(4, 640)])) ∧ (demoTask.sup = true ∧ (capVal demoTask 6).tag = true ∧ capSealed (capVal demoTask 6) =
    false ∧ hasPerm (capVal demoTask 6) permADMIN = true) ∧ accessCheck (mapped demoTask) 1 ⟨capVal demoTask 1,
    capAddr (capVal demoTask 1), 640, [permST], 0, true, false⟩ none = none ∧
    (markCount (vaOff (capAddr (capVal demoTask 1))) 640 = 2 ∧ (waits (.marking 2)).sa.wait = .marking 2) ∧
    (16777216 < (0x1000001 : Word).toNat ∧ (0x1000000 : Word).toNat ≤ 16777216) := by
  unfold Issues; decide +kernel

theorem witness_revocation_sweeps_2 :
    (Issues demo demoTask ∧ (capVal demoTask 6).tag = true ∧ Issues (run userTask) userTask) ∧ ((1 : BitVec 12) ≠ 0 ∧
    (findCtx demo 1).isSome = true ∧ demo.sweep = .idle) ∧ ({ demo with sweep := .draining, sweepCtx := 1 }.cx.num =
    1 ∧ oneStore ≠ []) ∧ (demo.cx.num = { demo with sweep := .scan, sweepCtx := 1 }.sweepCtx ∧ memWf demo.cx.sram =
    true) ∧ noPreEpoch { demo with sweep := .scan, sweepCtx := 1 } = true ∧ { demo with sweep := .reported }.sweep =
    .reported := by
  unfold Issues; decide +kernel

theorem witness_revocation_sweeps_3 :
    StoreGoes (mapped demoTask) demoTask 0 1 (.hbm 524288) false ∧
    LoadGoes (mapped demoTask) demoTask 0 1 (.hbm 524288) ∧ mapVa (mapped demoTask) (capAddr (capVal demoTask 1)) 0 = 0 := by
  exact ⟨⟨by decide +kernel, by decide +kernel, by decide +kernel, .inr ⟨by decide +kernel, by decide +kernel, ⟨1, 0, false⟩, 524288, ⟨8, true, true, false, false⟩, by decide +kernel, by decide +kernel, rfl, rfl⟩⟩,
    ⟨by decide +kernel, by decide +kernel, by decide +kernel, .inr ⟨by decide +kernel, by decide +kernel, by decide +kernel, 524288, ⟨8, true, true, false, false⟩, by decide +kernel, by decide +kernel, rfl⟩⟩, by decide +kernel⟩

theorem witness_owners_answer :
    (isOwn demo (capAddr (capVal demoTask 1)) = true ∧ moveHolds demo 1 (capAddr (capVal demoTask 1)) = false ∧
    fencedOff demo 0 = false) ∧ (portRefusal (portReq Cap.null 0 64) = some 4 ∧
    portRefusal (portReq (capVal demoTask 1) (capAddr (capVal demoTask 1)) 64) = none) ∧ (findCtx demo 1 =
    some demo.cx ∧ demo.cx.residency = .resident ∧ vaSpace (capAddr (capVal demoTask 1)) = 1) ∧
    (vaOff (capAddr (capVal demoTask 1)) + 64 ≤ scratchEnd demo.cx ∧
    scratchEnd demo.cx < vaOff (capAddr nearEnd) + 0x100) ∧ anyError demo demo.cx = false ∧ (fencedOff portFenced 0 =
    true ∧ isOwn portFenced (mkVa 1 1 0 0) = true ∧ moveHolds portFenced 1 (mkVa 1 1 0 0) = false) := by
  decide +kernel

theorem witness_owners_answer_2 :
    (isOwn keyed 0x40 = true ∧ vaSpace 0x40 ≠ 1 ∧ moveHolds keyed 1 0x40 = false) ∧ (activeKey unkeyed 1 = none ∧
    activeKey keyed 1 = some ⟨.active, 1, 0x1234⟩) ∧ (walk keyed 1 false false 0x10000 = .notPresent ∧
    (sliceAt keyed (sliceNo 1 0x10000)).waiting.length < 256 ∧
    256 ≤ (sliceAt (waitFull 0x10000) (sliceNo 1 0x10000)).waiting.length) ∧ walk keyed 1 false false 0x40 =
    .ok 524352 ⟨8, true, true, false, false⟩ ∧ (walk keyed 1 true false 0 = .ok 5505024 ⟨84, true, false, true,
    false⟩ ∧ keyed.home.slices = []) ∧ (heldLine (keepLeaf keyed 1 0x40) 1 (lineOf 0x40) = none ∧
    heldLine (keepLine keyed ⟨1, lineOf 0x40, false, false, 3⟩) 1 (lineOf 0x40) = some ⟨1, lineOf 0x40, false, false,
    3⟩) ∧ ((filledAt 0x40 .read).home.slices = [(sliceNo 1 0x40, ⟨[], [], [], [(sliceReq 0x40 .read,
    [sliceReq 0x40 .read])]⟩)] ∧ keyed.home.errors = []) ∧ (fencedOff keyed 0 = false ∧
    (walk keyed 1 true false 0x40000000 = .notPresent)) := by
  decide +kernel

theorem witness_owners_answer_3 :
    findSuspended (paged false 0x10000) 7 = some (demoTask, .page 0x10000 false) ∧ isOwn demo (mkVa 0 0 1 0) = false ∧
    ((paged true 0x10000).cx.susp = [(demoTask, .page 0x10000 true)] ∧ (paged true 0x10000).cx.runq = []) ∧ (∀ k,
    k < 4 → slotAt (paged true 0x10000) k ≠ .free) ∧ oneLine.lines = [⟨1, ⟨0, 1, false⟩, lineOf (mkVa 0 0 1 0x80), 0,
    0, 4, 0, 0, false, false⟩] ∧ ((1 : BitVec 12) ≠ 0 ∧ 1 ∉ demo.pk.fatals ∧ demo.cx.num = 1 ∧ demo.sweep = .idle) ∧
    { demo with pk := { demo.pk with fatals := [1] } }.pk.fatals = [1] := by
  refine ⟨by decide +kernel, by decide +kernel, by decide +kernel, ?_, by decide +kernel, by decide +kernel, by decide +kernel⟩
  intro k hk
  have : k = 0 ∨ k = 1 ∨ k = 2 ∨ k = 3 := by omega
  rcases this with rfl | rfl | rfl | rfl <;> decide +kernel

theorem witness_tables_change :
    (writing 0 1 3 5 0x243).access.addr = .control 0x8A2 ∧
    ({ writing 0 1 3 5 0 with tableOp := some (demoOp false false) }.tableOp.isSome = true ∧
    ptwaOp (writing 0 1 3 5 0) = 0 ∧ ptwaOp (writing 1 1 3 5 0) = 1) ∧ ((writing 0 1 3 5 0x243).tableOp = none ∧
    (ptwCheck (writing 0 1 3 5 0x243) 0x243).toOption = some (7, 5)) ∧
    (match ptwCheck (writing 0 1 3 5 0x1000001) 0x1000001 with | .error n => n | .ok _ => 0) = 1 ∧
    ((writing 0 1 3 5 0x243).sweep = .idle ∧ (∀ p ∈ (writing 0 1 3 5 0x243).home.slices, p.2.waiting = [] ∧
    p.2 ≠ Slice.none)) ∧ (narrowing 3 (tableEntry demo 7 5) 0x243 = false ∧ narrowing 3 (tableEntry demo 7 0) 0x203 =
    true) ∧ (ptwCheck (writing 1 1 3 0 0x24B) 0x24B).toOption = some (7, 0) ∧ memWf demo.home.mem = true := by
  decide +kernel

theorem witness_tables_change_2 :
    (demo.tableOp = none ∧ (operating false false).tableOp = some (demoOp false false) ∧ (demoOp false false).acted =
    false ∧ (demoOp false true).acted = true ∧ demoInv ≠ (demoOp false false).inv) ∧ ((operating false true).tableOp =
    some (demoOp false true) ∧ (∀ p ∈ ([3, 5] : List (BitVec 9)), fenceable (operating false true) p = true)) ∧
    (demoOp true false).copying = true ∧ storesIn (operating true false) (leafFrames (demoOp true false).oldEntry) =
    false ∧ (memWf demo.home.mem = true ∧ 8 ≠ 9 ∧ 65535 < frameBytes) := by
  decide +kernel

theorem witness_contexts_switch :
    (demo.cx.num ≠ 0 ∧ (shared .out).switchReq = false ∧ (shared .out).others.any (hasWork (shared .out)) = true ∧
    (shared .out).cx.taskEnded = false ∧ hasTasks (shared .out) = true ∧ hasTasks (quiet .out false) = false) ∧
    nextOut (shared .out) = some (outCtx .out) ∧ (savable { shared .out with switchReq := true } = false ∧
    savable (quiet .out true) = true ∧ (quiet .out true).switchReq = true) ∧
    { quiet .out true with cx := CtxState.fresh 0 }.cx.num = 0 ∧ ((quiet .out true).others = [outCtx .out] ∧
    (quiet .out true).ovf = [] ∧ (outCtx .out).held = [] ∧ (outCtx .out).susp = []) := by
  decide +kernel

theorem witness_contexts_switch_2 :
    (PageAccess (page 1 0x018 1 demo) 1 0x018 3 ∧ field (page 1 0x018 1 demo).access.value 0 2 = 1 ∧
    field (page 1 0x018 2 demo).access.value 0 2 = 2) ∧ (findCtx (page 9 0x018 1 demo) 9 = none ∧
    2 ∉ (shared .absent).pk.fatals ∧ 2 ∈ (fatal (shared .absent)).pk.fatals) ∧
    (findCtx (page 2 0x018 1 (shared .absent)) 2 = some (outCtx .absent) ∧ findCtx (page 2 0x018 1 (shared .out)) 2 =
    some (outCtx .out) ∧ (outCtx .out).num = 2) ∧ (findCtx (page 1 0x018 1 (quiet .out true)) 1 =
    some (quiet .out true).cx ∧ savable (page 1 0x018 1 (quiet .out true)) = true) ∧ (demo.tableOp = none ∧
    { demo with tableOp := some (demoOp false false) }.tableOp.isSome = true) := by
  unfold PageAccess; decide +kernel

theorem witness_contexts_switch_3 :
    ((1 : BitVec 12) ≠ 0 ∧ demo.cx.num = 1 ∧ demo.others = [] ∧ demo.tableOp = none ∧ demo.home.errors = [] ∧
    tblCount demo ≠ 0) ∧ memWf demo.home.mem = true := by
  decide +kernel

theorem witness_launches_run :
    (PageAccess ready (submitted demoRecord [0]).ctx 0 3 ∧ (submitted demoRecord [0]).ctx ≠ 0 ∧
    (submitted demoRecord []).packages = []) ∧ (findLaunch ready 3 = none ∧ isReady ready = true ∧
    isReady (page 3 0 0 State.reset) = false) ∧ (leadOf [4, 0, 7] = some 0 ∧ leadOf [4, 7] = some 4) ∧
    (findCtx ready 3 = none ∧ findCtx { ready with cx := CtxState.fresh 3 } 3 = some (CtxState.fresh 3)) ∧
    (recordOk [] = false ∧ placeLevels { ready with members := [] } (submitted demoRecord [0]) = none ∧
    placeLevels ready (submitted demoRecord [0]) = some [[[⟨0, 0, 1⟩]]]) ∧
    (placeLevel ready (submitted demoRecord [0]) [] (levelAt demoRecord 0) = some [[⟨0, 0, 1⟩]] ∧
    domainCores (levelAt demoRecord 0).domain = some 1) ∧ recordOk demoRecord = true ∧ (ready.pk.prepared = [] ∧
    0 < leAt demoRecord 0 1 ∧ ready.tableOp = none ∧ coreOffers ready = true) := by
  refine ⟨?_, ?_, ?_, ?_, ?_, ?_, demoRecord_ok, ?_⟩
  all_goals (try unfold PageAccess); decide +kernel

theorem witness_launches_run_2 :
    (isReady (planned (some 0)) = true ∧
    isReady { planned (some 0) with pk := { (planned (some 0)).pk with bootstat := 1 } } = false ∧
    (∀ p ∈ (planned (some 0)).pk.prepared, p.ctx = (submitted demoRecord [0]).ctx)) ∧ (domainCores 6 = some 1024 ∧
    domainCores 7 = none) ∧ recordOk demoRecord = true ∧ layoutFits demoRecord (levelAt demoRecord 0) = true ∧
    layoutFits [] { levelAt demoRecord 0 with split := 16 } = false ∧ coreOffers { ready with outOfService := [0] } =
    false ∧ ((launching .preparing [] [0, 4]).pk.launches ≠ [] ∧ findLaunch (launching .preparing [] [0, 4]) 3 =
    some ⟨(demoPlan demoRecord [0, 4] (some 0)), .preparing, []⟩ ∧ 4 ∈ (demoPlan demoRecord [0, 4] (some 0)).packages ∧
    0 ∉ ([] : List (BitVec 9))) ∧ ((∃ x ∈ (demoPlan demoRecord [0, 4] (some 0)).packages, x ≠ 4 ∧
    x ∉ ([] : List (BitVec 9))) ∧ (∀ x ∈ (demoPlan demoRecord [0, 4] (some 0)).packages, x = 4 ∨ x ∈ [0])) ∧
    findLaunch (launching .committing [0] [0, 4]) 3 = some ⟨(demoPlan demoRecord [0, 4] (some 0)), .committing, [0]⟩ ∧
    findLaunch ready 3 = none ∧ ((planned (some 0)).pk.prepared = [(demoPlan demoRecord [0, 4] (some 0))] ∧
    (planned none).pk.prepared = [demoPlan demoRecord [0, 4] none]) ∧ (leadOf (demoPlan demoRecord [0,
    4] (some 0)).packages = some 0 ∧ findCtx committing 3 = some committing.cx ∧ findCtx (planned none) 3 = none) ∧
    (isDiscarded committing 3 committing.cx = true ∧ enginesBusy committing 3 = false ∧ committing.tableOp = none) ∧
    isDiscarded { committing with cx := { committing.cx with runq := [.resume 4 0] } } 3 { committing.cx with runq := [.resume 4 0] } =
    false ∧ enginesBusy { committing with sendQueue := [{ demoContrib 0 none with ctx := 3 }] } 3 = true ∧
    (memWf openTarget.cx.sram = true ∧ chanPresent openTarget.cx 7 = true) := by
  refine ⟨?_, ?_, demoRecord_ok, ?_, ?_, ?_, ?_, ?_, ?_, ?_, ?_, ?_, ?_, ?_, ?_, ?_⟩
  all_goals decide +kernel

theorem witness_launches_run_3 :
    { launching .preparing [] [0, 4] with access := { Access.none with request := .launch 3 } }.access.request =
    .launch 3 := by
  decide +kernel

theorem witness_host_aperture :
    (denied true).access.addr =
    .aperture (BitVec.ofNat 32 (0x100000 + 0x1000 * (1 : BitVec 12).toNat + 0x18)) false 3 ∧
    (PageAccess (page 1 0x010 7 demo) 1 0x010 3 ∧ queueRefused (page 1 0x010 7 demo) 1 3 = false ∧
    queueRefused (winState 0 7) 1 3 = true) ∧
    PageAccess (winState 0 0x8000010000000001) 1 (0x108 + 16 * (2 : BitVec 4).toNat) 3 ∧
    ((0x8000010000000001 : Word).getLsbD 63 = true ∧ field 0x8000010000000001 32 22 % 16 = 0 ∧
    field 0x8000010800000001 32 22 % 16 ≠ 0 ∧ winValid (winAt (winState 0 0) 1 2) = false ∧
    winAccepted (winState 0 0) { winAt (winState 0 0) 1 2 with regB := 0x8000010000000001 } = true) ∧
    winAccepted (winState 0 0) { winAt (winState 0 0) 1 2 with regB := 0x8000000000000001 } = false ∧
    (winValid (winAt (winState 0x8000010000000001 0) 1 2) = true ∧
    winBusy (winState 0x8000010000000001 0) (winOf 0x8000010000000001) = false) := by
  unfold PageAccess; decide +kernel

theorem witness_host_aperture_2 :
    (PageAccess (boundState 0x105) 1 (0x200 + 8 * (4 : BitVec 4).toNat) 3 ∧ findStream (boundState 0x105) 1 4 =
    some ⟨1, 4, 3, true, true, 8, 9⟩ ∧ (boundState 0x105).access.value.getLsbD 8 = true ∧
    (boundState 5).access.value.getLsbD 8 = false) ∧ (isOwn demo 0x4000000000000040 = true ∧
    (0x4000000000000040 : Word).toNat % 8 = 0 ∧ vaSpace 0x4000000000000040 = 1 ∧ moveHolds demo 1 0x4000000000000040 =
    false ∧ vaOff 0x4000000000000040 + 8 ≤ scratchEnd demo.cx ∧ anyError demo demo.cx = false) := by
  unfold PageAccess; decide +kernel

theorem witness_security_core :
    (lowestMember (askedState (.create 9 2 77) keys) = true ∧ numberFree (askedState (.create 9 2 77) keys) 9 = true ∧
    (keySlotAt (askedState (.create 9 2 77) keys) 2).state = .empty) ∧ ((keySlotAt (askedState .none keys) 2).state =
    .empty ∧ (keySlotAt (askedState .none keys) 3).state ≠ .empty) ∧ ((keySlotAt (askedState .none keys) 4).state =
    .provisioned ∧ slotIn (askedState .none keys) 1 .retiring = false ∧ slotIn (askedState .none keys) 2 .retiring =
    true ∧ (keySlotAt (askedState .none keys) 7).state = .provisioned) ∧ ((keySlotAt (askedState .none keys) 3).state =
    .active ∧ (keySlotAt (askedState .none keys) 5).state = .retiring ∧ (keySlotAt (askedState .none keys) 6).state =
    .revoked) := by
  decide +kernel

theorem witness_security_core_2 :
    (grantOk demo (grantReq 3) = false ∧ grantOk demo (grantReq 1) = true ∧ otherAsked demo (grantReq 1) = false) ∧
    otherAsked { demo with pk := { demo.pk with grantAsks := [(2, grantOf (grantReq 1))] } } (grantReq 1) = true ∧
    (grantOf (grantReq 1) ∈ granting.pk.grants ∧ granting.cx.num = (grantOf (grantReq 1)).grantee) ∧
    ({ askedState .none keys with access := { Access.none with addr := .control 0xA02, value := 1 } }.access.addr =
    .control 0xA02 ∧ slotHolds (run { demoTask with keysel := 3 }) 0 { demoTask with keysel := 3 }) ∧
    findStream (boundState 0) 1 4 = some ⟨1, 4, 3, true, true, 8, 9⟩ ∧ (activeKey (askedState .none keys) 1 =
    some ⟨.active, 1, 0x1234⟩ ∧ activeKey (askedState .none []) 1 = none) := by
  unfold slotHolds; decide +kernel

theorem witness_security_core_3 :
    Asked (askedState (.create 9 2 77) keys) (.create 9 2 77) ∧
    Asked (askedState (.provision 2 9 77 true) keys) (.provision 2 9 77 true) ∧
    Asked (askedState (.activate 4) keys) (.activate 4) ∧ Asked (askedState (.revoke 3) keys) (.revoke 3) := by
  exact ⟨⟨⟨0, 0, by decide, rfl⟩, by decide +kernel, rfl⟩, ⟨⟨0, 0, by decide, rfl⟩, by decide +kernel, rfl⟩, ⟨⟨0, 0, by decide, rfl⟩, by decide +kernel, rfl⟩, ⟨⟨0, 0, by decide, rfl⟩, by decide +kernel, rfl⟩⟩

theorem witness_security_core_4 :
    (toldReq.told = true ∧ granting.cx.num = (grantOf toldReq).grantee ∧ granting.cx.num ≠ 0 ∧
    grantOf toldReq ∈ granting.pk.grants) ∧ ((grantReq 1).told = false ∧ (grantReq 1).page = (grantReq 1).grantee) := by
  decide +kernel

theorem witness_security_core_5 :
    (∀ z ∈ (sealedUnder 5).home.slices, ∀ l ∈ z.2.lines, l.key = 5) ∧ (∀ z ∈ (sealedUnder 3).home.slices,
    ∀ l ∈ z.2.lines, l.key ≠ 5) ∧ ((sealedUnder 3).home.slices ≠ [] ∧ (keySlotAt (sealedUnder 3) 5).state = .retiring) := by
  decide +kernel

theorem witness_fabric_and_fencing :
    ((0x1000 : Nat) < 0x100000 ∧ (sharedAt 0x1000 0x0408).access.addr = .aperture (BitVec.ofNat 32 0x1000) false 0) ∧
    (field 0x0804 0 8 < field 0x0408 8 8 ∨ field (0x30000 : Word) 16 2 = 3) ∧
    (field (0x0408 : Word) 8 8 ≤ field (0x0408 : Word) 0 8 ∧ field (0x0408 : Word) 16 2 ≠ 3) ∧ (imbOf 2 [4, 2] =
    some 5 ∧ imbOf 2 [0] = none) ∧ (linkUp (linkAt (linkUpState 15 []) 70) = true ∧ (70 : BitVec 7).toNat < 72 ∧
    (linkAt (linkUpState 15 []) 70).replay.length < 1024 ∧ mayCarry (linkUpState 15 []) 70 = true) ∧
    (linkUp (linkAt (putLink { demo with pk := { demo.pk with links := Vector.replicate 72 (upLink 15 []) } } 70 (upLink 15 [])) 71) =
    true ∧ (∀ k,
    k < 71 → (linkAt { demo with pk := { demo.pk with links := Vector.replicate 72 (upLink 15 []) } } k).state ≠ 2)) ∧
    ((outFlit 3).outgoing = true ∧ (linkAt (linkUpState 15 []) 70).rxSeq = 7 ∧
    2 ≤ ((List.range 4).filter (fun k => (5 : BitVec 960).getLsbD k)).length) ∧ (∀ x ∈ [outFlit 3, outFlit 4],
    (x.seq - 3).toNat < 1024) ∧ ((linkAt (linkUpState 15 []) 70).lanes = 15 ∧
    field demo.pk.lnkcfg 0 16 < vget (linkAt (linkUpState 15 []) 70).laneErr 1 0) ∧
    (List.replicate 1024 (outFlit 3)).length = 1024 := by
  decide +kernel

theorem witness_fabric_and_fencing_2 :
    (fenceable (linkUpState 15 []) 3 = true ∧ (9 : BitVec 9) ≠ demo.pkg ∧ 9 ∉ demo.members ∧
    linksTo { demo with members := [0, 3] } 3 ≠ []) ∧
    (∀ i ∈ linksTo { demo with members := [0, 3], pk := { demo.pk with links := Vector.replicate 72 { Link.reset with state := 2 } } } 3,
    (linkAt { demo with members := [0, 3], pk := { demo.pk with links := Vector.replicate 72 { Link.reset with state := 2 } } } i).state =
    2) ∧ (State.reset.pending = [] ∧ State.reset.sending = [] ∧ State.reset.placed = [] ∧ State.reset.cx.num = 0 ∧
    State.reset.others = []) ∧ ((3 : BitVec 9) ∈ { Package.reset with fenced := [3] }.fenced ∧ lowestMember demo =
    true ∧ lowestMember { demo with pkg := 5, members := [0, 5] } = false) ∧ (fencedLoad.pending = [farRead .load] ∧
    (farRead .load).owner.pkg = 3 ∧ (farRead .load).fate = .live ∧ slotAt fencedLoad 0 =
    .running (waits (.read 5 none))) ∧ (fencedCopy.copies = [copyAsking] ∧ copyAsking.parts = [askedPart] ∧
    askedPart.read = (farRead (.copy copyAsking.id)).id) ∧ (slotAt fencedRoute 0 =
    .running (routing { demoTask with port := some { far with dpkg := 3 } }) ∧ fencedRoute.pending = []) ∧
    (fencedFlits.sending = [⟨farContrib, flitsOf demo farContrib, 1⟩] ∧ farContrib.hpkg = 3 ∧
    (fencedFlits.cx.cores.all (fun k => decide (k.1 ≠ 3)) = true)) ∧ (fencedWatch.placed = [farWatch] ∧
    vaPkg farWatch.va = 3) ∧ (fencedCores.cx.cores = [(fencedCores.pkg, fencedCores.core), (3, 9)] ∧
    supChannel fencedCores.cx = some 7 ∧ fencedCores.cx.num ≠ 0) ∧ ((upLink 15 []).due = 0 ∧
    { upLink 15 [] with due := 2 }.due.getLsbD 1 = true ∧ (upLink 15 []).window + 1 ≠ 2 ^ 20 ∧
    (4 : BitVec 960).getLsbD 2 = true) := by
  decide +kernel

theorem witness_fabric_and_fencing_3 :
    Asked { linkUpState 15 [] with access := { Access.none with addr := .aperture 0x100000 true 0, request := .fence 3 } } (.fence 3) ∧
    Asked { demo with access := { Access.none with addr := .aperture 0x100000 true 0, request := .rejoin 3 true [] } } (.rejoin 3 true []) ∧
    SharedAccess (sharedAt 0x1018 0) 0x1018 := by
  exact ⟨⟨⟨0, 0, by decide, rfl⟩, by decide +kernel, rfl⟩, ⟨⟨0, 0, by decide, rfl⟩, by decide +kernel, rfl⟩, by decide, false, 0, rfl⟩

theorem witness_start_up_and_health :
    inMinimal demo = false ∧ ((stage 3 1).pk.starting = true ∧ bootStage (stage 3 1) = 3 ∧ bootStage (stage 4 0) = 4 ∧
    bootStage (stage 5 0) = 5) ∧ (quadsServed (coresOut (stage 4 0) [9]) = true ∧
    (stage 4 0).core ∉ coresOut (stage 4 0) [9] ∧ (stage 4 0).pk.stacksOut.contains ((9 : BitVec 10).extractLsb' 6 4) =
    false ∧ (failedOf [9] 0).length ≤ 4) ∧ quadsServed (coresOut quadOut []) = false ∧ (stage 3 0).pk.cold = true ∧
    ({ demo with pk := { demo.pk with snapArmed := true, snapHeld := some (Vector.replicate 8 7) } }.pk.snapHeld =
    some (Vector.replicate 8 7) ∧ { Access.none with request := .inlet 33 }.request = .inlet 33 ∧
    sparseGet .good demo.cx.tileErr (4096 * 3 + 9) = .good) ∧ (oneLine.lines = [⟨1, ⟨0, 1, false⟩,
    lineOf (mkVa 0 0 1 0x80), 0, 0, 4, 0, 0, false, false⟩] ∧ (outCtx .out).residency = .out ∧
    imageByte { demo with others := [outCtx .out] } 0 ≤ 32 * 204800 ∧
    32 * 204800 < imageByte { demo with others := [outCtx .out] } 0 + imageBytes) ∧
    sparseWf Training.none (stage 3 0).pk.training = true ∧
    ((3 : BitVec 4).toNat ∈ stageReasons (bootStage (stage 3 1)) ∧ bootFails (stage 3 1) < 2 ∧
    2 ≤ bootFails (stage 3 2) ∧ stageReasons (bootStage (stage 3 1)) ≠ []) ∧ inMinimal (failStart (stage 3 2) 3) =
    true ∧ ((7 : Nat) < sectorCount ∧ sectorHealth (flipBits demo 7 0) 7 = .good ∧ sectorHealth (flipBits demo 7 1) 7 =
    .correctable ∧ sectorHealth (flipBits demo 7 0x1000000000001) 7 = .uncorrectable) ∧ (wordHealth demo.cx 7 = .good ∧
    wordHealth (setWordHealth demo.cx 7 .correctable) 7 = .correctable ∧
    wordHealth (setWordHealth demo.cx 7 .uncorrectable) 7 = .uncorrectable) ∧ (heldLine (keepLine demo ⟨1, lineOf 0x40,
    false, true, 0⟩) 1 (lineOf 0x40) = some ⟨1, lineOf 0x40, false, true, 0⟩ ∧ heldLine (keepLine demo ⟨1, lineOf 0x40,
    false, false, 0⟩) 1 (lineOf 0x40) = some ⟨1, lineOf 0x40, false, false, 0⟩) ∧
    ({ Package.reset with snapArmed := true }.snapArmed = true ∧ (0 : Word).getLsbD 0 = false ∧ (1 : Word).getLsbD 0 =
    true ∧ slotAt demo 0 = .running demoTask) ∧ { Access.none with request := .die 5 }.request = .die 5 := by
  refine ⟨?_, ?_, ?_, quad_not_served, ?_, ?_, ?_, ?_, ?_, ?_, ?_, ?_, ?_, ?_, ?_⟩
  all_goals decide +kernel

theorem witness_decode_encode :
    WellFormed .A (.add 3 1 2 0) ∧ WellFormed .A (.add 0 4 5 7) ∧ WellFormed .E (.send 31 26 0) ∧
    WellFormed .E (.vcmp 3 4 31 31 7 8) ∧ WellFormed .A (.ldImm 31 15 1 0 3 0x3FF) := by
  unfold WellFormed; decide +kernel

theorem witness_encode_decode :
    (decode .A 0x04611000).toOption = some (.add 3 1 2 0) ∧ (decode .E 0xF0090800).toOption = some (.send 9 1 0) := by
  decide +kernel

theorem witness_step_runs_decoded :
    ((fetching 0x04611000).inputs = [] ∧ autoEvent (fetching 0x04611000) = none ∧ (fetching 0x04611000).turn = false) ∧
    (candidates (fetching 0x04611000)).head? = some firstA ∧
    (fetchWord.run (issuing (fetching 0x04611000) firstA)).toOption.map (·.1) = some 0x04611000 ∧
    (decode .A 0x04611000).toOption = some (.add 3 1 2 0) ∧
    takesPlace (orderOut (fetching 0x04611000) firstA (.add 3 1 2 0) (exec (.add 3 1 2 0) (issuing (fetching 0x04611000) firstA))) =
    true ∧ ((fetchWord.run (issuing (fetching 0) firstA)).toOption.map (·.1) = some 0 ∧ (decode .A 0).toOption = none ∧
    (takeTrap (issuing (fetching 0) firstA) (decodeTrap .zeroWord)).hold = .none) := by
  decide +kernel

theorem witness_step_runs_decoded_2 :
    (inbound.inputs = [⟨.firmwareUpdate true, Access.none⟩] ∧
    mustWait (exec (.firmwareUpdate true) { inbound with inputs := [] }) = false ∧
    inSequence inbound ⟨.firmwareUpdate true, Access.none⟩ = true) ∧ (early.inputs =
    [⟨.channelBitArrival (chanPacket true), early5⟩] ∧ inSequence early ⟨.channelBitArrival (chanPacket true),
    early5⟩ = false) ∧ (mustWait (exec (.prepare (demoPlan demoRecord [0,
    4] (some 0))) { overtaken with inputs := [⟨.launchAbort 3, Access.none⟩] }) = true ∧
    (launchOf (.launchAbort 3)).isSome = true ∧ launchOf (.launchAbort 3) = launchOf (.prepare (demoPlan demoRecord [0,
    4] (some 0)))) ∧ ((candidates bothTrap).head? = some (0, .E) ∧ picked bothTrap .A = some firstA ∧ bothTrap.turn =
    false ∧ bothTrap.inputs = []) ∧ (rankOf bothTrap firstA (attempt bothTrap firstA) ≠ 0 ∧
    rankOf bothTrap firstA (attempt bothTrap firstA) = rankOf bothTrap (0, .E) (attempt bothTrap (0, .E))) ∧
    (autoEvent pausing = some (.watchdog 0) ∧ pausing.inputs = []) ∧ (autoEvent unitDue = none ∧ unitDue.turn = true ∧
    (unitActs unitDue).head? = some .storePerformed ∧ takesPlace (exec .storePerformed unitDue) = true) ∧
    (autoEvent State.reset = none ∧ firstIssue State.reset (candidates State.reset) = none ∧
    firstAct State.reset (unitActs State.reset) = none) ∧ (taskIn demo 0).map (·.late) = some [] := by
  decide +kernel

theorem witness_step_runs_decoded_3 :
    ((run trapping).inputs = [] ∧ taskIn (run trapping) 0 = some trapping ∧ trapping.cmdTrap.isSome = true ∧
    trapping.ending = .running ∧ trapping.deadlock ≠ 65536 ∧ trapping.wdbudget ≠ 0 ∧ trapping.sa.ended = false ∧
    trapping.sa.wait = .ready) := by
  decide +kernel

theorem witness_memories_stay_canonical :
    (memoriesWf demo = true ∧ (match step demo with | .next s => memoriesWf s | _ => false) = true) := by
  decide +kernel

end Sys2Proof.Tests
end

/-! SUPPORT. Operand forms of an instruction at issue, in the words of the statements: what a source gives, when a
destination has room, and how a meaning that only changes the task at issue answers (R131, R134 to R137, R175). -/
namespace Sys2Proof.Machine

/-! ### Queues of a task -/

/-- A queue that gives an element is one of the six. -/
theorem port_lt_of_portQueue_cons {t : Task} {p : Nat} {w : Option Word} {q : Queue Word}
    (h : portQueue t p = w :: q) : p < 6 := by
  refine Nat.lt_of_not_le fun hp => ?_
  have h4 : ¬ p < 4 := by omega
  rw [portQueue, if_neg h4, vget, List.getD_eq_getElem?_getD,
    List.getElem?_eq_none (by rw [Vector.length_toList]; omega)] at h
  exact List.cons_ne_nil _ _ h.symm

theorem portQueue_setPortQueue_same (t : Task) (p : Nat) (q : Queue Word) (h : p < 6) :
    portQueue (setPortQueue t p q) p = q := by
  unfold portQueue setPortQueue
  by_cases hp : p < 4
  · rw [if_pos hp, if_pos hp, vget_vset_same _ _ _ _ hp]
  · rw [if_neg hp, if_neg hp, vget_vset_same _ _ _ _ (by omega)]

theorem portQueue_setPortQueue_other (t : Task) (p r : Nat) (q : Queue Word) (h : p ≠ r) :
    portQueue (setPortQueue t p q) r = portQueue t r := by
  unfold portQueue setPortQueue
  by_cases hp : p < 4 <;> by_cases hr : r < 4
  · rw [if_pos hp, if_pos hr, if_pos hr, vget_vset_other _ _ _ _ _ h]
  · rw [if_pos hp, if_neg hr, if_neg hr]
  · rw [if_neg hp, if_pos hr, if_pos hr]
  · rw [if_neg hp, if_neg hr, if_neg hr, vget_vset_other _ _ _ _ _ (by omega)]

/-! ### Sources -/

theorem operandOf_unmarked (t : Task) (st : Stream) (r : BitVec 5) :
    operandOf t st r false = some (regVal t st r, t) := rfl

/-- A marked source gives the oldest element of its queue, which leaves it. -/
theorem operandOf_marked_eq_some {t u : Task} {st : Stream} {r : BitVec 5} {x : Word}
    (h : operandOf t st r true = some (x, u)) :
    ∃ q, portQueue t r.toNat = some x :: q ∧ u = setPortQueue t r.toNat q := by
  simp only [operandOf, if_true] at h
  split at h
  next w q hq =>
    obtain ⟨rfl, rfl⟩ := Prod.mk.inj (Option.some.inj h)
    exact ⟨q, hq, rfl⟩
  next => exact absurd h (by simp)

/-- A source that gives nothing is marked, and its queue has no element at its head. -/
theorem operandOf_eq_none {t : Task} {st : Stream} {r : BitVec 5} {m : Bool} (h : operandOf t st r m = none) :
    m = true ∧ ∀ w q, portQueue t r.toNat ≠ some w :: q := by
  cases m with
  | false => exact absurd h (by simp [operandOf])
  | true =>
    refine ⟨rfl, fun w q hq => ?_⟩
    simp [operandOf, hq] at h

/-- Reading a source only takes elements from queues, so that a destination that had room still has it. -/
theorem hasRoom_of_operandOf {t u : Task} {st : Stream} {r d : BitVec 5} {m md : Bool} {x : Word}
    (h : operandOf t st r m = some (x, u)) (hd : HasRoom t d md) : HasRoom u d md := by
  cases m with
  | false => obtain ⟨rfl, rfl⟩ := Prod.mk.inj (Option.some.inj h); exact hd
  | true =>
    obtain ⟨q, hq, rfl⟩ := operandOf_marked_eq_some h
    intro hm
    have hlen := hd hm
    by_cases hp : r.toNat = d.toNat
    · rw [← hp, portQueue_setPortQueue_same _ _ _ (port_lt_of_portQueue_cons hq)]
      rw [← hp, hq, List.length_cons] at hlen
      omega
    · rwa [portQueue_setPortQueue_other _ _ _ _ hp]

/-- How an instruction stops that waits on the queue which field `r` names (R136, R355). -/
def queueStop (r : BitVec 5) : Stop := .hold (.queue (BitVec.ofNat 8 (0x10 + r.toNat)))

section Operands
variable {s : State} {t u v : Task}

theorem issues_putTask (s : State) (t : Task) : Issues (putTask s (curK s) t) t := taskIn_putTask_cur s t

/-- A source field answers what `operandOf` gives, and leaves the task that it leaves. -/
theorem run_readSrc {r : BitVec 5} {m : Bool} {x : Word} (ht : Issues s t)
    (h : operandOf t s.cur.2 r m = some (x, u)) : (readSrc r m).run s = .ok (x, putTask s (curK s) u) := by
  cases m with
  | false =>
    obtain ⟨rfl, rfl⟩ := Prod.mk.inj (Option.some.inj h)
    rw [putTask_self s (curK s) t ht]
    exact run_readReg r ht
  | true =>
    obtain ⟨q, hq, rfl⟩ := operandOf_marked_eq_some h
    exact run_popPort ht hq

/-- A source field without an element holds the instruction on its queue. -/
theorem run_readSrc_wait {r : BitVec 5} {m : Bool} (ht : Issues s t) (h : operandOf t s.cur.2 r m = none) :
    (readSrc r m).run s = .error (queueStop r) := by
  obtain ⟨rfl, hq⟩ := operandOf_eq_none h
  exact run_popPort_wait ht hq

theorem run_needDst {d : BitVec 5} {m : Bool} (ht : Issues s t) (h : HasRoom t d m) :
    (needDst d m).run s = .ok ((), s) := by
  cases m with
  | false => rfl
  | true => exact run_needRoom ht (h rfl)

/-- A marked destination without room holds the instruction on its queue. -/
theorem run_needDst_wait {d : BitVec 5} {m : Bool} (ht : Issues s t) (h : ¬ HasRoom t d m) :
    (needDst d m).run s = .error (queueStop d) := by
  cases m with
  | false => exact absurd (fun e => by cases e) h
  | true => exact run_needRoom_wait ht (fun hl => h (fun _ => hl))

/-- A push to a queue without room waits too, and writes nothing. -/
theorem run_writeDst_wait {d : BitVec 5} {m : Bool} (x : Word) (ht : Issues s t) (h : ¬ HasRoom t d m) :
    (writeDst d m x).run s = .error (queueStop d) := by
  have hwait := run_needDst_wait ht h
  cases m with
  | false => exact absurd (fun e => by cases e) h
  | true => exact run_bind_error hwait

theorem run_writeDst {d : BitVec 5} {m : Bool} (x : Word) (ht : Issues s t) (h : HasRoom t d m) :
    (writeDst d m x).run s = .ok ((), putTask s (curK s) (withResult t s.cur.2 d m x)) := by
  cases m with
  | false => exact run_writeReg d x ht
  | true => exact run_pushPort x ht (h rfl)

theorem run_theWait (ht : Issues s t) : theWait.run s = .ok ((streamOf t s.cur.2).wait, s) := by
  rw [theWait, run_bind_ok (run_theTask ht), run_bind_ok (run_theStream s), run_pure]

/-- An element that is not there holds the instruction on its queue. -/
theorem run_peekPort_wait {r : BitVec 5} {i : Nat} (ht : Issues s t)
    (h : ∀ x, (portQueue t r.toNat)[i]? ≠ some (some x)) : (peekPort r.toNat i).run s = .error (queueStop r) := by
  rw [peekPort, run_bind_ok (run_theTask ht)]
  split
  · next x hx => exact absurd hx (h x)
  · rfl

/-- A source that is left in its queue until the instruction completes waits as one that is popped. -/
theorem run_peekSrc_wait {r : BitVec 5} {m : Bool} (ht : Issues s t) (h : operandOf t s.cur.2 r m = none) :
    (peekSrc r m).run s = .error (queueStop r) := by
  obtain ⟨rfl, hq⟩ := operandOf_eq_none h
  refine run_peekPort_wait ht fun x hx => ?_
  obtain ⟨q, hxq⟩ := List.head?_eq_some_iff.mp (List.head?_eq_getElem?.trans hx)
  exact hq x q hxq

/-! ### Answers that change only the task at issue -/

/-- A meaning that leaves the task `u` goes on to the next instruction. -/
theorem issueSeq_goesOn {m : Eff Unit} (h : m.run s = .ok ((), putTask s (curK s) u)) :
    issueSeq m s = .next (goesOn s u) := by
  rw [issueSeq_ok h (issues_putTask s u), curK_putTask, putTask_putTask]
  rfl

/-- The two sources of an operation, read one after the other. -/
theorem run_readSrc_readSrc {a b : BitVec 5} {ma mb : Bool} {x y : Word} {f : Word → Word → Eff Unit} (ht : Issues s t)
    (ha : operandOf t s.cur.2 a ma = some (x, u)) (hb : operandOf u s.cur.2 b mb = some (y, v)) :
    (do let x ← readSrc a ma
        let y ← readSrc b mb
        f x y : Eff Unit).run s = (f x y).run (putTask s (curK s) v) := by
  rw [run_bind_ok (run_readSrc ht ha), run_bind_ok (run_readSrc (issues_putTask s u) hb), curK_putTask, putTask_putTask]

theorem run_binaryOp {f : Word → Word → Word} {d a b : BitVec 5} {q : BitVec 3} {x y : Word} (ht : Issues s t)
    (hd : HasRoom t d (q.getLsbD 0)) (ha : operandOf t s.cur.2 a (q.getLsbD 1) = some (x, u))
    (hb : operandOf u s.cur.2 b (q.getLsbD 2) = some (y, v)) :
    (binaryOp f d a b q).run s =
      .ok ((), putTask s (curK s) (withResult v s.cur.2 d (q.getLsbD 0) (f x y))) := by
  have hv : HasRoom v d (q.getLsbD 0) := hasRoom_of_operandOf hb (hasRoom_of_operandOf ha hd)
  unfold binaryOp marked
  rw [run_bind_ok (run_needDst ht hd), run_readSrc_readSrc ht ha hb, run_writeDst _ (issues_putTask s v) hv,
    curK_putTask, putTask_putTask, putTask_cur]

theorem run_unaryOp {f : Word → Word} {d a : BitVec 5} {q : BitVec 2} {x : Word} (ht : Issues s t)
    (hd : HasRoom t d (q.getLsbD 0)) (ha : operandOf t s.cur.2 a (q.getLsbD 1) = some (x, u)) :
    (unaryOp f d a q).run s = .ok ((), putTask s (curK s) (withResult u s.cur.2 d (q.getLsbD 0) (f x))) := by
  unfold unaryOp marked
  rw [run_bind_ok (run_needDst ht hd), run_bind_ok (run_readSrc ht ha),
    run_writeDst _ (issues_putTask s u) (hasRoom_of_operandOf ha hd), curK_putTask, putTask_putTask, putTask_cur]

theorem run_immOp {f : Word → Word} {d a : BitVec 5} (ht : Issues s t) :
    (immOp f d a).run s = .ok ((), putTask s (curK s) (setReg t s.cur.2 d (f (regVal t s.cur.2 a)))) := by
  rw [immOp, run_bind_ok (run_readReg a ht), run_writeReg _ _ ht]

end Operands

end Sys2Proof.Machine

/-! SUPPORT. Words and numbers: the functions of the integer operations in the words of their statements (R197 to R201). -/
namespace Sys2Proof.Machine

/-! ### Numbers as words -/

theorem wordOfInt_eq_ofInt (z : Int) : wordOfInt z = BitVec.ofInt 64 z := by
  apply BitVec.eq_of_toNat_eq
  rw [wordOfInt, wrapInt, BitVec.toNat_ofNat, BitVec.toNat_ofInt]
  omega

theorem wordOfInt_toInt (x : Word) : wordOfInt x.toInt = x := by rw [wordOfInt_eq_ofInt, BitVec.ofInt_toInt]

/-- The high half of a 128-bit integer. -/
theorem extractLsb'_ofInt_high (z : Int) : (BitVec.ofInt 128 z).extractLsb' 64 64 = BitVec.ofInt 64 (z / 2 ^ 64) := by
  apply BitVec.eq_of_toNat_eq
  rw [BitVec.extractLsb'_toNat, BitVec.toNat_ofInt, BitVec.toNat_ofInt, Nat.shiftRight_eq_div_pow]
  omega

/-! ### Results of Tables 1 and 2 (R197, R198) -/

theorem mulhWord_eq (x y : Word) : mulhWord x y = (x.signExtend 128 * y.signExtend 128).extractLsb' 64 64 := by
  rw [mulhWord, wordOfInt_eq_ofInt, ← extractLsb'_ofInt_high, BitVec.ofInt_mul]
  rfl

theorem mulhuWord_eq (x y : Word) : mulhuWord x y = (x.setWidth 128 * y.setWidth 128).extractLsb' 64 64 := by
  have hxy : x.toNat * y.toNat < 2 ^ 128 :=
    calc x.toNat * y.toNat < 2 ^ 64 * 2 ^ 64 := Nat.mul_lt_mul'' x.isLt y.isLt
      _ = 2 ^ 128 := rfl
  apply BitVec.eq_of_toNat_eq
  rw [mulhuWord, BitVec.extractLsb'_toNat, BitVec.toNat_mul, BitVec.toNat_setWidth_of_le (by decide),
    BitVec.toNat_setWidth_of_le (by decide), Nat.mod_eq_of_lt hxy, Nat.shiftRight_eq_div_pow, BitVec.toNat_ofNat]

theorem divWord_eq (x y : Word) : divWord x y = if y = 0 then BitVec.allOnes 64 else x.sdiv y := by
  unfold divWord
  congr 1
  rw [wordOfInt_eq_ofInt]
  apply BitVec.eq_of_toInt_eq
  rw [BitVec.toInt_ofInt, BitVec.toInt_sdiv]

theorem divuWord_eq (x y : Word) : divuWord x y = if y = 0 then BitVec.allOnes 64 else x.udiv y := by
  unfold divuWord
  rw [← BitVec.toNat_udiv, BitVec.ofNat_toNat, BitVec.setWidth_eq]
  rfl

theorem remWord_eq (x y : Word) : remWord x y = if y = 0 then x else x.srem y := by
  unfold remWord
  rw [← BitVec.toInt_srem, wordOfInt_toInt]

theorem remuWord_eq (x y : Word) : remuWord x y = if y = 0 then x else x.umod y := by
  unfold remuWord
  rw [← BitVec.toNat_umod, BitVec.ofNat_toNat, BitVec.setWidth_eq]
  rfl

/-- Where equal keys mean equal answers, it is the same to ask for `≤` and for `<`. -/
theorem ite_le_eq_ite_lt {le lt eq : Prop} [Decidable le] [Decidable lt] {α : Type} {p q : α} (h : le ↔ lt ∨ eq)
    (he : eq → p = q) : (if le then p else q) = if lt then p else q := by
  by_cases hlt : lt
  · rw [if_pos hlt, if_pos (h.mpr (.inl hlt))]
  · rw [if_neg hlt]
    split
    · next hle => exact he ((h.mp hle).resolve_left hlt)
    · rfl

theorem minWord_eq (x y : Word) : minWord x y = if x.slt y then x else y := by
  simp only [minWord, BitVec.slt_iff_toInt_lt, ite_le_eq_ite_lt Int.le_iff_lt_or_eq BitVec.eq_of_toInt_eq]

theorem maxWord_eq (x y : Word) : maxWord x y = if x.slt y then y else x := by
  simp only [maxWord, BitVec.slt_iff_toInt_lt, ite_le_eq_ite_lt Int.le_iff_lt_or_eq fun h => (BitVec.eq_of_toInt_eq h).symm]

theorem minuWord_eq (x y : Word) : minuWord x y = if x.ult y then x else y := by
  simp only [minuWord, BitVec.ult_iff_lt, BitVec.lt_def, ite_le_eq_ite_lt Nat.le_iff_lt_or_eq BitVec.eq_of_toNat_eq]

theorem maxuWord_eq (x y : Word) : maxuWord x y = if x.ult y then y else x := by
  simp only [maxuWord, BitVec.ult_iff_lt, BitVec.lt_def,
    ite_le_eq_ite_lt Nat.le_iff_lt_or_eq fun h => (BitVec.eq_of_toNat_eq h).symm]

theorem sltWord_eq (x y : Word) : sltWord x y = if x.slt y then 1 else 0 := by
  simp only [sltWord, Word.ofBool, decide_eq_true_eq, BitVec.slt_iff_toInt_lt]
  rfl

theorem sltuWord_eq (x y : Word) : sltuWord x y = if x.ult y then 1 else 0 := by
  simp only [sltuWord, Word.ofBool, decide_eq_true_eq, BitVec.ult_iff_lt, BitVec.lt_def]
  rfl

theorem lihWord_eq (x : Word) (i : BitVec 16) : lihWord x i = x.extractLsb' 0 48 ++ i := by
  apply BitVec.eq_of_getLsbD_eq
  intro k hk
  simp only [lihWord, BitVec.getLsbD_or, BitVec.getLsbD_shiftLeft, BitVec.getLsbD_setWidth, BitVec.getLsbD_append,
    BitVec.getLsbD_extractLsb', hk, decide_true, Bool.true_and, Nat.zero_add]
  by_cases h : k < 16
  · simp [h]
  · have h2 : k - 16 < 48 := by omega
    simp [h, h2, BitVec.getLsbD_of_ge i k (by omega)]

/-! ### The bit field of a descriptor (R199) -/

theorem signedOf_of_lt {n x : Nat} (h : x < 2 ^ n) :
    signedOf n x = if 2 ^ (n - 1) ≤ x then (x : Int) - 2 ^ n else (x : Int) := by
  simp only [signedOf, Nat.mod_eq_of_lt h]
  split
  · next hlt => rw [if_neg (Nat.not_le.mpr hlt)]
  · next hge => rw [if_pos (Nat.not_lt.mp hge)]; push_cast; rfl

theorem extWord_eq_bitField (x y : Word) : extWord x y = Claims.bitField x y := by
  simp only [extWord, Claims.bitField, field, Nat.shiftRight_eq_div_pow]
  generalize hw : y.toNat / 2 ^ 8 % 2 ^ 6 + 1 = w
  generalize hf : x.toNat / 2 ^ (y.toNat % 64) % 2 ^ w = f
  have hlt : f < 2 ^ w := hf ▸ Nat.mod_lt _ (Nat.two_pow_pos w)
  rw [signedOf_of_lt hlt]
  by_cases hs : y.getLsbD 16 = true <;> by_cases hn : 2 ^ (w - 1) ≤ f
  · rw [if_pos hs, if_pos hn, if_pos ⟨hs, hn⟩, wordOfInt_eq_ofInt]
  · rw [if_pos hs, if_neg hn, if_neg (fun h => hn h.2), wordOfInt_eq_ofInt, BitVec.ofInt_natCast]
  · rw [if_neg hs, if_neg (fun h => hs h.1)]
  · rw [if_neg hs, if_neg (fun h => hs h.1)]

/-! ### Counts of bits (R197) -/

theorem lt_two_pow_bitLength (n : Nat) : ∀ x, x < 2 ^ n → x < 2 ^ bitLength n x := by
  induction n with
  | zero => intro x hx; exact hx
  | succ n ih =>
    intro x hx
    rw [bitLength]
    split
    · next h0 => subst h0; decide
    · have := ih (x / 2) (by omega)
      rw [Nat.add_comm, Nat.pow_succ]
      omega

theorem bitLength_le (n : Nat) : ∀ x, bitLength n x ≤ n := by
  induction n with
  | zero => intro x; exact Nat.le_refl 0
  | succ n ih =>
    intro x
    have := ih (x / 2)
    rw [bitLength]
    split <;> omega

/-- The bit below the length is set. -/
theorem testBit_bitLength (n : Nat) : ∀ x, x < 2 ^ n → 0 < bitLength n x → x.testBit (bitLength n x - 1) = true := by
  induction n with
  | zero => intro x _ h; exact absurd h (Nat.lt_irrefl 0)
  | succ n ih =>
    intro x hx h
    have hx2 : x / 2 < 2 ^ n := by omega
    rw [bitLength] at h ⊢
    split at h
    · exact absurd h (by decide)
    next h0 =>
      rw [if_neg h0, Nat.add_sub_cancel_left]
      cases hk : bitLength n (x / 2) with
      | zero =>
        have h2 := lt_two_pow_bitLength n (x / 2) hx2
        rw [hk] at h2
        have h1 : x = 1 := by omega
        rw [h1]
        rfl
      | succ k =>
        have := ih (x / 2) hx2 (by omega)
        rw [hk, Nat.add_sub_cancel] at this
        rw [Nat.testBit_succ, this]

theorem trailingZeros_le (n : Nat) : ∀ x, trailingZeros n x ≤ n := by
  induction n with
  | zero => intro x; exact Nat.le_refl 0
  | succ n ih =>
    intro x
    have := ih (x / 2)
    rw [trailingZeros]
    split <;> omega

/-- The bits below the lowest set one are clear. -/
theorem testBit_of_lt_trailingZeros (n : Nat) : ∀ x i, i < trailingZeros n x → x.testBit i = false := by
  induction n with
  | zero => intro x i h; exact absurd h (Nat.not_lt_zero i)
  | succ n ih =>
    intro x i h
    rw [trailingZeros] at h
    split at h
    · exact absurd h (Nat.not_lt_zero i)
    next h0 =>
      cases i with
      | zero => rw [Nat.testBit_zero]; simpa using h0
      | succ i => rw [Nat.testBit_succ]; exact ih (x / 2) i (by omega)

/-- The lowest set bit is set. -/
theorem testBit_trailingZeros (n : Nat) : ∀ x, trailingZeros n x < n → x.testBit (trailingZeros n x) = true := by
  induction n with
  | zero => intro x h; exact absurd h (Nat.not_lt_zero _)
  | succ n ih =>
    intro x h
    rw [trailingZeros] at h ⊢
    split at h
    next h0 => rw [if_pos h0, Nat.testBit_zero]; simpa using h0
    next h0 =>
      rw [if_neg h0, Nat.add_comm, Nat.testBit_succ]
      exact ih (x / 2) (by omega)

theorem popCount_eq_countP (n : Nat) : ∀ x, popCount n x = (List.range n).countP (fun i => x.testBit i) := by
  induction n with
  | zero => intro x; rfl
  | succ n ih =>
    intro x
    rw [popCount, ih, List.range_succ_eq_map, List.countP_cons, List.countP_map, Nat.add_comm]
    congr 1
    · simp only [Function.comp_def, Nat.testBit_succ]
    · rw [Nat.testBit_zero]
      rcases Nat.mod_two_eq_zero_or_one x with h | h <;> simp [h]

end Sys2Proof.Machine

/-! Integer operations (R197 to R201): O1. -/
namespace Sys2Proof.Machine

/-! ### Reserved fields -/

/-- A nonzero field of a word has a bit set. -/
theorem exists_getLsbD_of_field_ne_zero {m : Nat} (w : BitVec m) (lo n : Nat) (h : w.toNat / 2 ^ lo % 2 ^ n ≠ 0) :
    ∃ i, i < n ∧ w.getLsbD (lo + i) = true := by
  obtain ⟨i, hi⟩ := Nat.exists_testBit_of_ne_zero h
  rw [Nat.testBit_mod_two_pow, Nat.testBit_div_two_pow, Bool.and_eq_true, decide_eq_true_eq] at hi
  exact ⟨i, hi.1, by rw [Nat.add_comm]; exact hi.2⟩

/-- A word with a bit set where its row fixes a zero is refused for a reserved field (R183). -/
theorem row_reservedField {w mask value : InstrWord} {i : Instr} (k : Nat) (hw : w.getLsbD k = true)
    (hm : mask.getLsbD k = true) (hv : value.getLsbD k = false) : row w mask value i = .error .reservedField := by
  refine if_neg fun h => ?_
  have := congrArg (fun z => z.getLsbD k) h
  rw [BitVec.getLsbD_and, hw, hm, hv] at this
  exact absurd this (by decide)

theorem extractLsb'_of_major {w : InstrWord} {n : Nat} (h : (w >>> 26).toNat = n) :
    (w.extractLsb' 26 6).toNat = n := by
  have hw := w.isLt
  rw [BitVec.toNat_ushiftRight, Nat.shiftRight_eq_div_pow] at h
  rw [BitVec.extractLsb'_toNat, Nat.shiftRight_eq_div_pow, h]
  omega

/-- A word of a major that both streams have is decoded by its row; a row that is refused refuses the word. -/
theorem decode_error_of_decodeMajor {st : Stream} {w : InstrWord} {e : DecodeErr} {n : Nat}
    (h : (w >>> 26).toNat = n) (h0 : n ≠ 0) (hk : majorKind (BitVec.ofNat 6 n) = some .both)
    (hd : decodeMajor w = .error e) : decode st w = .error e := by
  have hw : w ≠ 0#32 := by
    rintro rfl
    exact h0 h.symm
  have hx : w.extractLsb' 26 6 = BitVec.ofNat 6 n := by
    rw [← extractLsb'_of_major h, BitVec.ofNat_toNat, BitVec.setWidth_eq]
  simp [decode, hw, hx, hk, hd]

/-- The row of an immediate shift fixes the bits above its count. -/
theorem row_shift_reserved {w value : InstrWord} {i : Instr} (h : w.toNat % 2 ^ 16 / 2 ^ 6 ≠ 0)
    (hv : ∀ k, k < 10 → value.getLsbD (6 + k) = false) : row w 0xFC00FFC0#32 value i = .error .reservedField := by
  rw [show 2 ^ 16 = 2 ^ 6 * 2 ^ 10 from rfl, Nat.mod_mul_right_div_self] at h
  obtain ⟨k, hk, hw⟩ := exists_getLsbD_of_field_ne_zero w 6 10 h
  exact row_reservedField (6 + k) hw ((by decide : ∀ k, k < 10 → (0xFC00FFC0#32).getLsbD (6 + k) = true) k hk) (hv k hk)

/-- A word of a shift major with a bit set above its count is refused (R201). -/
theorem decode_shift_reserved {st : Stream} {w value : InstrWord} {i : Instr} {n : Nat} (hm : (w >>> 26).toNat = n)
    (h : w.toNat % 2 ^ 16 / 2 ^ 6 ≠ 0) (h0 : n ≠ 0) (hk : majorKind (BitVec.ofNat 6 n) = some .both)
    (hrow : decodeMajor w = row w 0xFC00FFC0#32 value i) (hv : ∀ k, k < 10 → value.getLsbD (6 + k) = false) :
    decode st w = .error .reservedField :=
  decode_error_of_decodeMajor hm h0 hk (hrow.trans (row_shift_reserved h hv))

theorem decode_shli_reserved (st : Stream) (w : InstrWord) (hm : (w >>> 26).toNat = 0x06)
    (h : w.toNat % 2 ^ 16 / 2 ^ 6 ≠ 0) : decode st w = .error .reservedField :=
  decode_shift_reserved hm h (by decide) (by decide) (by rw [decodeMajor, extractLsb'_of_major hm]; rfl) (by decide)

theorem decode_shri_reserved (st : Stream) (w : InstrWord) (hm : (w >>> 26).toNat = 0x07)
    (h : w.toNat % 2 ^ 16 / 2 ^ 6 ≠ 0) : decode st w = .error .reservedField :=
  decode_shift_reserved hm h (by decide) (by decide) (by rw [decodeMajor, extractLsb'_of_major hm]; rfl) (by decide)

theorem decode_sari_reserved (st : Stream) (w : InstrWord) (hm : (w >>> 26).toNat = 0x08)
    (h : w.toNat % 2 ^ 16 / 2 ^ 6 ≠ 0) : decode st w = .error .reservedField :=
  decode_shift_reserved hm h (by decide) (by decide) (by rw [decodeMajor, extractLsb'_of_major hm]; rfl) (by decide)

end Sys2Proof.Machine

namespace Sys2Proof.Proofs
open Sys2Proof.Machine Sys2Proof.Claims

/-! ### The shapes of the statements -/

theorem binaryGives_of_binaryOp {fn : Nat} {mk : BitVec 5 → BitVec 5 → BitVec 5 → BitVec 3 → Instr}
    {f : Word → Word → Word} (g : Word → Word → Word) (hg : ∀ x y, g x y = f x y)
    (henc : ∀ d a b q, encode (mk d a b q) = [opWord 1 fn ||| put d 21 ||| put a 16 ||| put b 11 ||| put q 8] := by
      intros; rfl)
    (hexec : ∀ d a b q s, exec (mk d a b q) s = issueSeq (binaryOp g d a b q) s := by intros; rfl) :
    BinaryGives fn mk f := by
  refine ⟨henc, fun s t u v x y d a b q ht hd ha hb => ?_⟩
  rw [hexec, issueSeq_goesOn (run_binaryOp ht hd ha hb), hg]

theorem unaryGives_of_unaryOp {fn : Nat} {mk : BitVec 5 → BitVec 5 → BitVec 2 → Instr} {R : Word → Nat → Prop}
    (g : Word → Nat) (hg : ∀ x, R x (g x))
    (henc : ∀ d a q, encode (mk d a q) = [opWord 1 fn ||| put d 21 ||| put a 16 ||| put q 8] := by intros; rfl)
    (hexec : ∀ d a q s, exec (mk d a q) s = issueSeq (unaryOp (fun x => BitVec.ofNat 64 (g x)) d a q) s := by
      intros; rfl) : UnaryGives fn mk R := by
  refine ⟨henc, fun s t u x d a q ht hd ha => ⟨g x, hg x, ?_⟩⟩
  rw [hexec, issueSeq_goesOn (run_unaryOp ht hd ha)]

theorem immGives_of_immOp {n major : Nat} {mk : BitVec 5 → BitVec 5 → BitVec n → Instr} {f : Word → BitVec n → Word}
    (g : BitVec n → Word → Word) (hg : ∀ x i, g i x = f x i)
    (hdec : ∀ (st : Stream) (w : InstrWord), (w >>> 26).toNat = major → w.toNat % 2 ^ 16 / 2 ^ n ≠ 0 →
      decode st w = .error .reservedField)
    (henc : ∀ d a i, encode (mk d a i) = [opWord major 0 ||| put d 21 ||| put a 16 ||| put i 0] := by intros; rfl)
    (hexec : ∀ d a i s, exec (mk d a i) s = issueSeq (immOp (g i) d a) s := by intros; rfl) : ImmGives major mk f := by
  refine ⟨henc, hdec, fun s t d a i ht => ?_⟩
  rw [hexec, issueSeq_goesOn (run_immOp ht), hg]

/-- An immediate of 16 bits leaves no bit of the word reserved. -/
theorem imm16_no_reserved {major : Nat} (st : Stream) (w : InstrWord) (_ : (w >>> 26).toNat = major)
    (h : w.toNat % 2 ^ 16 / 2 ^ 16 ≠ 0) : decode st w = .error .reservedField :=
  absurd (Nat.div_eq_of_lt (Nat.mod_lt _ (Nat.two_pow_pos 16))) h

/-! ### Counts of bits by their defining properties -/

theorem clz_spec (x : Word) : 64 - bitLength 64 x.toNat ≤ 64 ∧
    (∀ i, i < 64 - bitLength 64 x.toNat → x.getLsbD (63 - i) = false) ∧
    (64 - bitLength 64 x.toNat < 64 → x.getLsbD (63 - (64 - bitLength 64 x.toNat)) = true) := by
  have hle := bitLength_le 64 x.toNat
  refine ⟨Nat.sub_le 64 _, fun i hi => ?_, fun h => ?_⟩
  · have hlt := lt_two_pow_bitLength 64 x.toNat x.isLt
    exact Nat.testBit_lt_two_pow (Nat.lt_of_lt_of_le hlt (Nat.pow_le_pow_right (by decide) (by omega)))
  · rw [show 63 - (64 - bitLength 64 x.toNat) = bitLength 64 x.toNat - 1 by omega]
    exact testBit_bitLength 64 x.toNat x.isLt (by omega)

theorem ctz_spec (x : Word) : trailingZeros 64 x.toNat ≤ 64 ∧
    (∀ i, i < trailingZeros 64 x.toNat → x.getLsbD i = false) ∧
    (trailingZeros 64 x.toNat < 64 → x.getLsbD (trailingZeros 64 x.toNat) = true) :=
  ⟨trailingZeros_le 64 _, testBit_of_lt_trailingZeros 64 _, testBit_trailingZeros 64 _⟩

/-- SEL reads its old destination, then its two sources (R197, R200). -/
theorem exec_sel {s : State} {t u v : Task} {x y : Word} {d a b : BitVec 5} {q : BitVec 2} (ht : Issues s t)
    (ha : operandOf t s.cur.2 a (q.getLsbD 0) = some (x, u)) (hb : operandOf u s.cur.2 b (q.getLsbD 1) = some (y, v)) :
    exec (.sel d a b q) s =
      .next (goesOn s (setReg v s.cur.2 d (if regVal t s.cur.2 d ≠ 0 then x else y))) := by
  refine issueSeq_goesOn ?_
  unfold marked
  rw [run_bind_ok (run_readReg d ht), run_readSrc_readSrc ht ha hb, run_writeReg _ _ (issues_putTask s v),
    curK_putTask, putTask_putTask, putTask_cur]

theorem integerRegisterResults : IntegerRegisterResults := by
  refine ⟨?_, ?_, ?_, ?_, ?_, ?_, ?_, ?_, ?_, ?_, ?_, ?_, ?_, ?_, ?_, ?_, ?_, ?_, ?_, ?_, ?_, ?_, ?_, ?_, ?_,
    fun _ _ _ _ => rfl, fun _ _ _ _ _ _ _ _ _ _ ht ha hb => exec_sel ht ha hb⟩
  · exact binaryGives_of_binaryOp (· + ·) fun _ _ => rfl
  · exact binaryGives_of_binaryOp (· - ·) fun _ _ => rfl
  · exact binaryGives_of_binaryOp (· &&& ·) fun _ _ => rfl
  · exact binaryGives_of_binaryOp (· ||| ·) fun _ _ => rfl
  · exact binaryGives_of_binaryOp (· ^^^ ·) fun _ _ => rfl
  · exact binaryGives_of_binaryOp shlWord fun _ _ => rfl
  · exact binaryGives_of_binaryOp shrWord fun _ _ => rfl
  · exact binaryGives_of_binaryOp sarWord fun _ _ => rfl
  · exact binaryGives_of_binaryOp (· * ·) fun _ _ => rfl
  · exact binaryGives_of_binaryOp mulhWord mulhWord_eq
  · exact binaryGives_of_binaryOp mulhuWord mulhuWord_eq
  · exact binaryGives_of_binaryOp divWord divWord_eq
  · exact binaryGives_of_binaryOp divuWord divuWord_eq
  · exact binaryGives_of_binaryOp remWord remWord_eq
  · exact binaryGives_of_binaryOp remuWord remuWord_eq
  · exact binaryGives_of_binaryOp minWord minWord_eq
  · exact binaryGives_of_binaryOp maxWord maxWord_eq
  · exact binaryGives_of_binaryOp minuWord minuWord_eq
  · exact binaryGives_of_binaryOp maxuWord maxuWord_eq
  · exact binaryGives_of_binaryOp sltWord sltWord_eq
  · exact binaryGives_of_binaryOp sltuWord sltuWord_eq
  · exact binaryGives_of_binaryOp extWord extWord_eq_bitField
  · exact unaryGives_of_unaryOp (fun x => 64 - bitLength 64 x.toNat) clz_spec
  · exact unaryGives_of_unaryOp (fun x => trailingZeros 64 x.toNat) ctz_spec
  · exact unaryGives_of_unaryOp (fun x => popCount 64 x.toNat) fun x => popCount_eq_countP 64 x.toNat

theorem integerImmediateResults : IntegerImmediateResults := by
  refine ⟨?_, ?_, ?_, ?_, ?_, ?_, ?_, ?_, ?_, ?_⟩
  · exact immGives_of_immOp (fun i x => x + sext64 i) (fun _ _ => rfl) imm16_no_reserved
  · exact immGives_of_immOp (fun i x => x &&& sext64 i) (fun _ _ => rfl) imm16_no_reserved
  · exact immGives_of_immOp (fun i x => x ||| sext64 i) (fun _ _ => rfl) imm16_no_reserved
  · exact immGives_of_immOp (fun i x => x ^^^ sext64 i) (fun _ _ => rfl) imm16_no_reserved
  · exact immGives_of_immOp (fun k x => x <<< k.toNat) (fun _ _ => rfl) decode_shli_reserved
  · exact immGives_of_immOp (fun k x => x >>> k.toNat) (fun _ _ => rfl) decode_shri_reserved
  · exact immGives_of_immOp (fun k x => x.sshiftRight k.toNat) (fun _ _ => rfl) decode_sari_reserved
  · exact immGives_of_immOp (fun i x => sltWord x (sext64 i)) (fun x i => sltWord_eq x (sext64 i)) imm16_no_reserved
  · exact immGives_of_immOp (fun i x => sltuWord x (sext64 i)) (fun x i => sltuWord_eq x (sext64 i)) imm16_no_reserved
  · exact immGives_of_immOp (fun i x => lihWord x i) lihWord_eq imm16_no_reserved

/-- Settles O1: each form runs the operation that the model gives it, and its function is that of the tables. -/
theorem integerResults : Obligations.IntegerResults := ⟨integerRegisterResults, integerImmediateResults⟩

end Sys2Proof.Proofs

/-! Branches, jumps, loops and the end of a stream (R202 to R206): O2. -/
namespace Sys2Proof.Machine

section Transfers
variable {s : State} {t : Task}

theorem issue_goesTo {m : Eff Unit} {u : Task} {pc : Word}
    (h : m.run s = .ok ((), putTask s (curK s) (setPc u s.cur.2 pc))) : issue m s = .next (goesTo s u pc) :=
  issue_ok h

/-- A branch goes to its target when its comparison holds, else to the next instruction, and changes nothing else. -/
theorem issue_branchOp {c : Word → Word → Bool} {a b : BitVec 5} {o : BitVec 16} (ht : Issues s t) :
    issue (branchOp c a b o) s = .next (goesTo s t (if c (regVal t s.cur.2 a) (regVal t s.cur.2 b) then
      curPc t s.cur.2 + 4 * o.signExtend 64 else curPc t s.cur.2 + 4)) := by
  apply issue_goesTo
  rw [branchOp, run_bind_ok (run_readReg a ht), run_bind_ok (run_readReg b ht), run_bind_ok (run_theTask ht),
    run_bind_ok (run_theStream s)]
  split
  · exact run_jumpTo _ ht
  · exact run_advance ht

theorem exec_jmp {o : BitVec 26} (ht : Issues s t) :
    exec (.jmp o) s = .next (goesTo s t (curPc t s.cur.2 + 4 * o.signExtend 64)) := by
  apply issue_goesTo
  rw [run_bind_ok (run_theTask ht), run_bind_ok (run_theStream s)]
  exact run_jumpTo _ ht

/-- A register written, then a jump. -/
theorem run_writeReg_jumpTo {r : BitVec 5} {x pc : Word} (ht : Issues s t) :
    (do writeReg r x; jumpTo pc : Eff Unit).run s =
      .ok ((), putTask s (curK s) (setPc (setReg t s.cur.2 r x) s.cur.2 pc)) := by
  rw [run_bind_ok (run_writeReg r x ht), run_jumpTo pc (issues_putTask s _), curK_putTask, putTask_putTask, putTask_cur]

theorem exec_jal {o : BitVec 26} (ht : Issues s t) :
    exec (.jal o) s = .next (goesTo s (setReg t s.cur.2 31 (curPc t s.cur.2 + 4))
      (curPc t s.cur.2 + 4 * o.signExtend 64)) := by
  apply issue_goesTo
  rw [run_bind_ok (run_theTask ht), run_bind_ok (run_theStream s)]
  exact run_writeReg_jumpTo ht

/-- The target of JALR is aligned as its register is. -/
theorem toNat_add_four_mul_mod (x y : Word) : (x + 4 * y).toNat % 4 = x.toNat % 4 := by
  rw [BitVec.toNat_add, BitVec.toNat_mul, show (4 : Word).toNat = 4 from rfl]
  omega

theorem extractLsb'_two_eq_zero_iff (x : Word) : x.extractLsb' 0 2 = 0 ↔ x.toNat % 4 = 0 := by
  rw [BitVec.toNat_eq, BitVec.extractLsb'_toNat, Nat.shiftRight_zero]
  rfl

theorem exec_jalr_aligned {d a : BitVec 5} {i : BitVec 16} (ht : Issues s t)
    (h : (regVal t s.cur.2 a).extractLsb' 0 2 = 0) :
    exec (.jalr d a i) s = .next (goesTo s (setReg t s.cur.2 d (curPc t s.cur.2 + 4))
      (regVal t s.cur.2 a + 4 * i.signExtend 64)) := by
  apply issue_goesTo
  rw [run_bind_ok (run_readReg a ht), run_bind_ok (run_theTask ht), run_bind_ok (run_theStream s)]
  rw [extractLsb'_two_eq_zero_iff, ← toNat_add_four_mul_mod _ (sext64 i)] at h
  dsimp only
  rw [if_neg (Decidable.not_not.mpr h)]
  exact run_writeReg_jumpTo ht

theorem exec_jalr_misaligned {d a : BitVec 5} {i : BitVec 16} (ht : Issues s t)
    (h : (regVal t s.cur.2 a).extractLsb' 0 2 ≠ 0) :
    exec (.jalr d a i) s = .next (takeTrap s { cause := .misalign, detail := 0, addr := 0 }) := by
  apply issue_trap
  rw [run_bind_ok (run_readReg a ht), run_bind_ok (run_theTask ht), run_bind_ok (run_theStream s)]
  rw [Ne, extractLsb'_two_eq_zero_iff, ← toNat_add_four_mul_mod _ (sext64 i)] at h
  dsimp only
  rw [if_pos h]
  rfl

/-! ### LOOP (R204) -/

theorem exec_loop_zero {a : BitVec 5} {o : BitVec 16} (ht : Issues s t) (h : regVal t s.cur.2 a = 0) :
    exec (.loop a o) s = .next (goesOn s t) := by
  apply issue_goesTo
  rw [run_bind_ok (run_readReg a ht), run_bind_ok (run_theTask ht), run_bind_ok (run_theStream s), h]
  exact run_advance ht

/-- A nonzero counter goes down by one; what follows depends on what it has become. -/
theorem run_loop_nonzero {a : BitVec 5} {n : Word} {m : Eff Unit} (ht : Issues s t) (h : n ≠ 0) :
    (do if n ≠ 0 then writeReg a (n - 1) else pure ()
        m : Eff Unit).run s = m.run (putTask s (curK s) (setReg t s.cur.2 a (n - 1))) := by
  rw [if_pos h, run_bind_ok (run_writeReg a (n - 1) ht)]

theorem exec_loop_one {a : BitVec 5} {o : BitVec 16} (ht : Issues s t) (h : regVal t s.cur.2 a = 1) :
    exec (.loop a o) s = .next (goesOn s (setReg t s.cur.2 a 0)) := by
  apply issue_goesTo
  rw [run_bind_ok (run_readReg a ht), run_bind_ok (run_theTask ht), run_bind_ok (run_theStream s), h,
    run_loop_nonzero ht (by decide), if_neg (by decide), run_advance (issues_putTask s _), curK_putTask, putTask_putTask,
    putTask_cur]
  rfl

theorem exec_loop_taken {a : BitVec 5} {o : BitVec 16} (ht : Issues s t) (h0 : regVal t s.cur.2 a ≠ 0)
    (h1 : regVal t s.cur.2 a ≠ 1) :
    exec (.loop a o) s = .next (goesTo s (setReg t s.cur.2 a (regVal t s.cur.2 a - 1))
      (curPc t s.cur.2 + 4 * o.signExtend 64)) := by
  have h2 : regVal t s.cur.2 a - 1 ≠ 0 := fun e => h1 (by rw [← BitVec.sub_add_cancel (regVal t s.cur.2 a) 1, e]; rfl)
  apply issue_goesTo
  rw [run_bind_ok (run_readReg a ht), run_bind_ok (run_theTask ht), run_bind_ok (run_theStream s),
    run_loop_nonzero ht h0, if_pos ⟨h0, h2⟩, run_jumpTo _ (issues_putTask s _), curK_putTask, putTask_putTask, putTask_cur]
  rfl

theorem decode_loop_reserved (st : Stream) (w : InstrWord) (hm : (w >>> 26).toNat = 0x15)
    (h : w.toNat / 2 ^ 16 % 2 ^ 5 ≠ 0) : decode st w = .error .reservedField := by
  obtain ⟨k, hk, hw⟩ := exists_getLsbD_of_field_ne_zero w 16 5 h
  refine decode_error_of_decodeMajor hm (by decide) (by decide) ?_
  rw [decodeMajor, extractLsb'_of_major hm]
  refine row_reservedField (16 + k) hw ?_ ?_
  · exact (by decide : ∀ k, k < 5 → (0xFC1F0000#32).getLsbD (16 + k) = true) k hk
  · exact (by decide : ∀ k, k < 5 → (0x54000000#32).getLsbD (16 + k) = false) k hk

/-! ### END (R206) -/

theorem exec_endStream (ht : Issues s t) : exec .endStream s = .next (putTask s (curK s) (endOf t s.cur.2)) := by
  apply issue_ok
  rw [run_bind_ok (run_theStream s)]
  exact run_modTask _ ht

/-- END marks its stream, and the second END begins the end of the task. -/
theorem endOf_eq (t : Task) (st : Stream) :
    endOf t st = { setStream t st { streamOf t st with ended := true } with
      ending := if (streamOf t (otherStream st)).ended then .draining else t.ending } := by
  cases st with
  | A => cases h : t.se.ended <;> simp [endOf, setStream, streamOf, otherStream, h]
  | E => cases h : t.sa.ended <;> simp [endOf, setStream, streamOf, otherStream, h]

theorem streamOf_endOf (t : Task) (st : Stream) :
    streamOf (endOf t st) st = { streamOf t st with ended := true } := by
  rw [endOf_eq]
  cases st <;> rfl

theorem eq_otherStream {st su : Stream} (h : su ≠ st) : su = otherStream st := by
  revert h
  cases st <;> cases su <;> decide

theorem endOf_other {t : Task} {st su : Stream} (h : su ≠ st) :
    streamOf (endOf t st) su = streamOf t su ∧
      (endOf t st).ending = if (streamOf t su).ended then .draining else t.ending := by
  rw [endOf_eq, eq_otherStream h]
  cases st <;> exact ⟨rfl, rfl⟩

theorem endOf_frame (t : Task) (st : Stream) :
    endOf t st = { t with sa := (endOf t st).sa, se := (endOf t st).se, ending := (endOf t st).ending } := by
  rw [endOf_eq]
  cases st <;> rfl

end Transfers

end Sys2Proof.Machine

namespace Sys2Proof.Proofs
open Sys2Proof.Machine Sys2Proof.Claims

/-- A branch whose comparison is `c`. -/
theorem branchGoes_of_branchOp {major : Nat} {mk : BitVec 5 → BitVec 5 → BitVec 16 → Instr} {c : Word → Word → Bool}
    (g : Word → Word → Bool) (hg : ∀ x y, g x y = c x y)
    (henc : ∀ a b o, encode (mk a b o) = [opWord major 0 ||| put a 21 ||| put b 16 ||| put o 0] := by intros; rfl)
    (hexec : ∀ a b o s, exec (mk a b o) s = issue (branchOp g a b o) s := by intros; rfl) : BranchGoes major mk c := by
  refine ⟨henc, fun s t a b o ht => ?_⟩
  rw [hexec, issue_branchOp ht, hg]

theorem branchesGo : BranchesGo := by
  refine ⟨?_, ?_, ?_, ?_, ?_, ?_⟩
  · exact branchGoes_of_branchOp (fun x y => decide (x = y)) fun _ _ => rfl
  · exact branchGoes_of_branchOp (fun x y => decide (x ≠ y)) fun x y => decide_not
  · exact branchGoes_of_branchOp (fun x y => decide (x.toInt < y.toInt)) fun _ _ => rfl
  · exact branchGoes_of_branchOp (fun x y => decide (y.toInt ≤ x.toInt)) fun x y => by
      rw [BitVec.slt, ← decide_not]; exact decide_eq_decide.mpr Int.not_lt.symm
  · exact branchGoes_of_branchOp (fun x y => decide (x.toNat < y.toNat)) fun _ _ => rfl
  · exact branchGoes_of_branchOp (fun x y => decide (y.toNat ≤ x.toNat)) fun x y => by
      rw [BitVec.ult, ← decide_not]; exact decide_eq_decide.mpr Nat.not_lt.symm

theorem jumpsGo : JumpsGo := fun _ _ ht =>
  ⟨fun _ => exec_jmp ht, fun _ => exec_jal ht, fun _ _ _ h => exec_jalr_aligned ht h,
    fun _ _ _ h => exec_jalr_misaligned ht h⟩

theorem loopAndEnd : LoopAndEnd := by
  refine ⟨fun _ _ => rfl, decode_loop_reserved, fun s t ht => ⟨fun _ _ h => exec_loop_zero ht h,
    fun _ _ h => exec_loop_one ht h, fun _ _ h0 h1 => exec_loop_taken ht h0 h1, endOf t s.cur.2, exec_endStream ht,
    streamOf_endOf t s.cur.2, fun _ h => endOf_other h, endOf_frame t s.cur.2⟩⟩

/-- Settles O2, with a lemma for each form and for each case of LOOP and JALR. -/
theorem controlTransfers : Obligations.ControlTransfers := ⟨branchesGo, jumpsGo, loopAndEnd⟩

end Sys2Proof.Proofs

/-! Scalar floating point (R208 to R214): O22. -/
namespace Sys2Proof.Machine

/-! ### FPMODE and flags of a task -/

theorem setTaskReg_setPortQueue (t : Task) (n : BitVec 12) (v : Word) (p : Nat) (q : Queue Word) :
    setTaskReg (setPortQueue t p q) n v = setPortQueue (setTaskReg t n v) p q := by
  unfold setTaskReg
  split
  case h_7 => split <;> (unfold setPortQueue; split <;> rfl)
  all_goals (unfold setPortQueue; split <;> rfl)

/-- What a stream sees of the registers does not depend on the queues. -/
theorem taskView_setPortQueue (t : Task) (st : Stream) (p : Nat) (q : Queue Word) :
    taskView (setPortQueue t p q) st = setPortQueue (taskView t st) p q := by
  have hfold : ∀ (l : List LateTask) (u : Task),
      l.foldl (fun u l => if l.by_ = st then u else setTaskReg u l.num l.before) (setPortQueue u p q) =
        setPortQueue (l.foldl (fun u l => if l.by_ = st then u else setTaskReg u l.num l.before) u) p q := by
    intro l
    induction l with
    | nil => intro u; rfl
    | cons x l ih =>
      intro u
      rw [List.foldl_cons, List.foldl_cons, setTaskReg_setPortQueue, ← apply_ite (fun z => setPortQueue z p q), ih]
  rw [taskView, setPortQueue_late, hfold]
  rfl

theorem modeOf_of_operandOf {t u : Task} {st : Stream} {r : BitVec 5} {m : Bool} {x : Word}
    (h : operandOf t st r m = some (x, u)) : modeOf u = modeOf t := by
  cases m with
  | false => obtain ⟨rfl, rfl⟩ := Prod.mk.inj (Option.some.inj h); rfl
  | true =>
    obtain ⟨q, -, rfl⟩ := operandOf_marked_eq_some h
    rw [modeOf, taskView_setPortQueue, setPortQueue_fpmode]
    rfl

theorem regVal_of_operandOf {t u : Task} {st su : Stream} {r d : BitVec 5} {m : Bool} {x : Word}
    (h : operandOf t st r m = some (x, u)) : regVal u su d = regVal t su d := by
  cases m with
  | false => obtain ⟨rfl, rfl⟩ := Prod.mk.inj (Option.some.inj h); rfl
  | true =>
    obtain ⟨q, -, rfl⟩ := operandOf_marked_eq_some h
    exact regVal_setPortQueue _ _ _ _ _

theorem hasRoom_setFlags {t : Task} {d : BitVec 5} {m : Bool} (f : BitVec 5) (h : HasRoom t d m) :
    HasRoom (setFlags t f) d m := h

@[simp] theorem numtrapNow_putTask (s : State) (k : Nat) (t : Task) : numtrapNow (putTask s k t) = numtrapNow s := rfl

section Flags
variable {s : State} {t u v : Task}

/-- Flags none of which is enabled are recorded. -/
theorem run_raiseFlags {f : Nat} (ht : Issues s t) (h : (f &&& (numtrapNow s).toNat) % 32 = 0) :
    (raiseFlags f).run s = .ok ((), putTask s (curK s) (setFlags t (BitVec.ofNat 5 f))) := by
  rw [raiseFlags, run_bind_ok (run_get s), if_neg (Decidable.not_not.mpr h), run_bind_ok (run_modTask _ ht)]
  rfl

/-- An enabled flag traps (R171). -/
theorem run_raiseFlags_trap {f : Nat} (h : (f &&& (numtrapNow s).toNat) % 32 ≠ 0) :
    (raiseFlags f).run s = .error (.trap { cause := .numFlag, detail := BitVec.ofNat 32 (f % 32), addr := 0 }) := by
  rw [raiseFlags, run_bind_ok (run_get s), if_pos h, run_trapWith]

/-- An instruction that comes to its flags with the task `v`, and then only writes its result. -/
theorem flagsThen_of_run {i : Instr} {m k : Eff Unit} {f : Nat} {w : BitVec 5 → Task}
    (hi : exec i s = issueSeq m s) (hm : m.run s = (do raiseFlags f; k : Eff Unit).run (putTask s (curK s) v))
    (hk : ∀ fl, k.run (putTask s (curK s) (setFlags v fl)) = .ok ((), putTask s (curK s) (w fl))) :
    Claims.FlagsThen s i f (fun fl => goesOn s (w fl)) := by
  refine ⟨fun h => ?_, fun h => ?_⟩
  · rw [hi]
    apply issueSeq_goesOn
    rw [hm, run_bind_ok (run_raiseFlags (issues_putTask s v) h), curK_putTask, putTask_putTask]
    exact hk _
  · rw [Claims.TrapsWith, hi]
    apply issueSeq_trap
    rw [hm]
    exact run_bind_error (run_raiseFlags_trap h)

theorem run_writeDst_setFlags {d : BitVec 5} {m : Bool} (x : Word) (h : HasRoom v d m) (fl : BitVec 5) :
    (writeDst d m x).run (putTask s (curK s) (setFlags v fl)) =
      .ok ((), putTask s (curK s) (withResult (setFlags v fl) s.cur.2 d m x)) := by
  rw [run_writeDst x (issues_putTask s _) (hasRoom_setFlags fl h), curK_putTask, putTask_putTask, putTask_cur]

theorem floatBinary_flagsThen {i : Instr} {g : BitVec 4 → Nat → Nat → Nat × Nat} {d a b : BitVec 5} {m : BitVec 3}
    {ty : BitVec 4} {x y : Word} (hi : exec i s = issueSeq (floatBinary g d a b m ty) s) (ht : Issues s t)
    (hd : HasRoom t d (m.getLsbD 0)) (ha : operandOf t s.cur.2 a (m.getLsbD 1) = some (x, u))
    (hb : operandOf u s.cur.2 b (m.getLsbD 2) = some (y, v)) :
    Claims.FlagsThen s i (g (modeOf t) (floatBits ty x) (floatBits ty y)).2 (fun fl =>
      goesOn s (withResult (setFlags v fl) s.cur.2 d (m.getLsbD 0)
        (BitVec.ofNat 64 (g (modeOf t) (floatBits ty x) (floatBits ty y)).1))) := by
  have hv : HasRoom v d (m.getLsbD 0) := hasRoom_of_operandOf hb (hasRoom_of_operandOf ha hd)
  refine flagsThen_of_run hi ?_ (run_writeDst_setFlags _ hv)
  unfold floatBinary marked
  rw [run_bind_ok (run_needDst ht hd), run_readSrc_readSrc ht ha hb, run_bind_ok (run_theTask (issues_putTask s v)),
    modeOf_of_operandOf hb, modeOf_of_operandOf ha]

theorem floatUnary_flagsThen {i : Instr} {g : BitVec 4 → Word → Word × Nat} {d a : BitVec 5} {m : BitVec 2} {x : Word}
    (hi : exec i s = issueSeq (floatUnary g d a m) s) (ht : Issues s t) (hd : HasRoom t d (m.getLsbD 0))
    (ha : operandOf t s.cur.2 a (m.getLsbD 1) = some (x, u)) :
    Claims.FlagsThen s i (g (modeOf t) x).2 (fun fl =>
      goesOn s (withResult (setFlags u fl) s.cur.2 d (m.getLsbD 0) (g (modeOf t) x).1)) := by
  refine flagsThen_of_run hi ?_ (run_writeDst_setFlags _ (hasRoom_of_operandOf ha hd))
  unfold floatUnary marked
  rw [run_bind_ok (run_needDst ht hd), run_bind_ok (run_readSrc ht ha), run_bind_ok (run_theTask (issues_putTask s u)),
    modeOf_of_operandOf ha]

/-- FMADD: its addend is the old destination, and its result goes to the register (R208, R209). -/
theorem fmadd_flagsThen {d a b : BitVec 5} {q : BitVec 2} {ty : BitVec 4} {x y : Word} (ht : Issues s t)
    (ha : operandOf t s.cur.2 a (q.getLsbD 0) = some (x, u)) (hb : operandOf u s.cur.2 b (q.getLsbD 1) = some (y, v)) :
    let z := fun (w : Word) => operand (floatOf ty) (modeOf t) (floatBits ty w)
    let r := fmaNum (floatOf ty) (modeOf t) (z x) (z y) (z (regVal t s.cur.2 d))
    Claims.FlagsThen s (.fmadd d a b q ty) r.2 (fun fl =>
      goesOn s (setReg (setFlags v fl) s.cur.2 d (BitVec.ofNat 64 r.1))) := by
  intro z r
  refine flagsThen_of_run (v := v) (k := writeReg d (BitVec.ofNat 64 r.1)) rfl ?_ fun fl => ?_
  · unfold marked
    rw [run_bind_ok (run_readReg d ht), run_readSrc_readSrc ht ha hb, run_bind_ok (run_theTask (issues_putTask s v)),
      modeOf_of_operandOf hb, modeOf_of_operandOf ha]
  · rw [run_writeReg _ _ (issues_putTask s _), curK_putTask, putTask_putTask, putTask_cur]

theorem fsqrt_flagsThen {d a : BitVec 5} {m : BitVec 2} {ty : BitVec 4} {x : Word} (ht : Issues s t)
    (hd : HasRoom t d (m.getLsbD 0)) (ha : operandOf t s.cur.2 a (m.getLsbD 1) = some (x, u)) :
    let r := sqrtNum (floatOf ty) (modeOf t) (operand (floatOf ty) (modeOf t) (floatBits ty x))
    Claims.FlagsThen s (.fsqrt d a m ty) r.2 (fun fl =>
      goesOn s (withResult (setFlags u fl) s.cur.2 d (m.getLsbD 0) (BitVec.ofNat 64 r.1))) :=
  floatUnary_flagsThen (g := fun mode x =>
    let r := sqrtNum (floatOf ty) mode (operand (floatOf ty) mode (floatBits ty x))
    (BitVec.ofNat 64 r.1, r.2)) rfl ht hd ha

theorem fcvt_flagsThen {d a : BitVec 5} {to' : BitVec 4} {m : BitVec 2} {ty : BitVec 4} {x : Word} (ht : Issues s t)
    (hd : HasRoom t d (m.getLsbD 0)) (ha : operandOf t s.cur.2 a (m.getLsbD 1) = some (x, u)) :
    let c := convert to' ty (modeOf t) x.toNat
    Claims.FlagsThen s (.fcvt d a to' m ty) c.2 (fun fl =>
      goesOn s (withResult (setFlags u fl) s.cur.2 d (m.getLsbD 0) (extendWord to' c.1))) :=
  floatUnary_flagsThen (g := fun mode x =>
    let c := convert to' ty mode x.toNat
    (extendWord to' c.1, c.2)) rfl ht hd ha

end Flags

/-! ### The sign move (R212) -/

/-- s1 with the sign bit of s2, from the low bits that the format names. -/
theorem signFrom_floatBits (ty : BitVec 4) (x y : Word) :
    signFrom (floatOf ty) (floatBits ty x) (floatBits ty y) =
      x.toNat % 2 ^ ((floatOf ty).width - 1) + if y.getLsbD ((floatOf ty).width - 1) then 2 ^ ((floatOf ty).width - 1) else 0 := by
  generalize hf : floatOf ty = f
  have hw : f.ebits + f.fbits = f.width - 1 := by unfold FloatFmt.width; omega
  have hlt : f.width - 1 < f.width := by unfold FloatFmt.width; omega
  rw [signFrom, floatBits, floatBits, hf, FloatFmt.signOf, FloatFmt.signBit, hw,
    Nat.mod_mod_of_dvd _ (Nat.pow_dvd_pow 2 (Nat.le_of_lt hlt)), Nat.testBit_mod_two_pow, decide_eq_true hlt, Bool.true_and]
  rfl

end Sys2Proof.Machine

namespace Sys2Proof.Proofs
open Sys2Proof.Machine Sys2Proof.Claims

theorem floatGives_of_floatBinary {mk : BitVec 5 → BitVec 5 → BitVec 5 → BitVec 3 → BitVec 4 → Instr}
    {g : FloatFmt → BitVec 4 → Nat → Nat → Nat × Nat}
    (hexec : ∀ d a b m ty s, exec (mk d a b m ty) s = issueSeq (floatBinary (g (floatOf ty)) d a b m ty) s := by
      intros; rfl) : FloatGives mk g :=
  fun s _ _ _ _ _ d a b m ty ht hd ha hb => floatBinary_flagsThen (hexec d a b m ty s) ht hd ha hb

theorem scalarFloatResults : ScalarFloatResults := by
  refine ⟨floatGives_of_floatBinary, floatGives_of_floatBinary, floatGives_of_floatBinary, floatGives_of_floatBinary,
    floatGives_of_floatBinary, floatGives_of_floatBinary, floatGives_of_floatBinary, floatGives_of_floatBinary,
    floatGives_of_floatBinary, ?_, ?_, ?_⟩
  · exact fun s t u v x y d a b q ty ht ha hb => fmadd_flagsThen ht ha hb
  · intro s t u x d a ty q to' ht hd ha
    exact ⟨fsqrt_flagsThen ht hd ha, fcvt_flagsThen ht hd ha, issueSeq_goesOn (run_unaryOp ht hd ha)⟩
  · intro s t u v x y d a b m ty ht hd ha hb n
    rw [← signFrom_floatBits]
    exact issueSeq_goesOn (run_binaryOp ht hd ha hb)

end Sys2Proof.Proofs

namespace Sys2Proof.Machine

/-! ### NaN operands (R154) -/

/-- A NaN among two operands makes the arithmetic answer with the canonical NaN. -/
theorem arith_nan (f : FloatFmt) (mode : BitVec 4) {x y : Num} (h : x.isNan = true ∨ y.isNan = true) :
    addNum f mode x y = nanAnswer f [x, y] ∧ mulNum f mode x y = nanAnswer f [x, y] ∧
      divNum f mode x y = nanAnswer f [x, y] := by
  cases x with
  | nan _ => exact ⟨rfl, rfl, rfl⟩
  | inf _ | fin _ _ _ =>
    cases y with
    | nan _ => exact ⟨rfl, rfl, rfl⟩
    | inf _ | fin _ _ _ => exact absurd h (by simp [Num.isNan])

/-- A NaN compares false (R210). -/
theorem compare_nan {x y : Num} (h : x.isNan = true ∨ y.isNan = true) :
    numEq x y = false ∧ numLt x y = false ∧ numLe x y = false := by
  have heq : numEq x y = false := by rcases h with h | h <;> simp [numEq, h]
  have hlt : numLt x y = false := by
    cases x with
    | nan _ => rfl
    | inf _ | fin _ _ _ =>
      cases y with
      | nan _ => rfl
      | inf _ | fin _ _ _ => exact absurd h (by simp [Num.isNan])
  exact ⟨heq, hlt, by rw [numLe, hlt, heq]; rfl⟩

theorem isNan_iff (x : Num) : x.isNan = true ↔ ∃ q, x = .nan q := by cases x <;> simp [Num.isNan]

theorem isSignalling_iff (x : Num) : x.isSignalling = true ↔ x = .nan true := by cases x <;> simp [Num.isSignalling]

theorem nanAnswer_pair (f : FloatFmt) (x y : Num) :
    nanAnswer f [x, y] = (f.qnan, if x = .nan true ∨ y = .nan true then 1 else 0) := by
  simp only [nanAnswer, signalFlags, List.any_cons, List.any_nil, Bool.or_false, Bool.or_eq_true, isSignalling_iff]
  rfl

/-! ### Normal numbers -/

/-- The exponent of the leading bit of a number with `b` bits below it. -/
theorem topExp_of_normal {m b : Nat} (h1 : 2 ^ b ≤ m) (h2 : m < 2 ^ (b + 1)) (e : Int) : topExp m e = e + b := by
  rw [topExp, (Nat.log2_eq_iff (by have := Nat.two_pow_pos b; omega)).mpr ⟨h1, h2⟩]

/-- A number that a normal pattern holds is rounded to that pattern, without a flag, in every mode (R156). -/
theorem roundFloat_normal {f : FloatFmt} {rm : Rm} {ftz neg : Bool} {m E : Nat} (hm1 : 2 ^ f.fbits ≤ m)
    (hm2 : m < 2 ^ (f.fbits + 1)) (hE1 : 1 ≤ E) (hE2 : E < f.top) :
    roundFloat f rm ftz neg m ((E : Int) - f.bias - f.fbits) false =
      (f.signBit neg + (E * 2 ^ f.fbits + (m - 2 ^ f.fbits)), 0) := by
  have hp := Nat.two_pow_pos f.fbits
  have hm : m ≠ 0 := by omega
  have hbig : topExp m ((E : Int) - f.bias - f.fbits) - f.fbits = (E : Int) - f.bias - f.fbits := by
    rw [topExp_of_normal hm1 hm2]; omega
  have htiny : ¬ topExp m ((E : Int) - f.bias - f.fbits) < 1 - f.bias := by
    rw [topExp_of_normal hm1 hm2]; omega
  have hq : max ((E : Int) - f.bias - f.fbits) (1 - f.bias - f.fbits) = (E : Int) - f.bias - f.fbits := by omega
  have hexp : ((E : Int) - f.bias - f.fbits - (1 - f.bias - f.fbits)).toNat = E - 1 := by omega
  have hunits : roundUnits rm neg m ((E : Int) - f.bias - f.fbits) false ((E : Int) - f.bias - f.fbits) = (m, false) := by
    rw [roundUnits, if_pos (Int.le_refl _), Int.sub_self, Int.toNat_zero, Nat.pow_zero, Nat.mul_one]
  have hpat : (E - 1) * 2 ^ f.fbits + m = E * 2 ^ f.fbits + (m - 2 ^ f.fbits) := by
    obtain ⟨k, rfl⟩ : ∃ k, E = k + 1 := ⟨E - 1, by omega⟩
    rw [Nat.add_sub_cancel, Nat.add_mul]; omega
  have hlt : ¬ f.top * 2 ^ f.fbits ≤ E * 2 ^ f.fbits + (m - 2 ^ f.fbits) := by
    have : (E + 1) * 2 ^ f.fbits ≤ f.top * 2 ^ f.fbits := Nat.mul_le_mul_right _ hE2
    rw [Nat.add_mul] at this
    rw [Nat.pow_succ] at hm2
    omega
  simp only [roundFloat, hm, hbig, htiny, hq, hexp, hunits, hpat, hlt, if_false, decide_false, Bool.false_and,
    Bool.and_false, Bool.false_eq_true]

/-- What a pattern decodes to that is neither zero nor subnormal (R153). -/
theorem decodeFloat_normal {f : FloatFmt} {x m : Nat} {neg : Bool} {e : Int} (h : decodeFloat f x = .fin neg m e)
    (hm : m ≠ 0) (hs : isSubnormal f x = false) :
    neg = f.signOf x ∧ m = f.fracOf x + 2 ^ f.fbits ∧ e = (f.expOf x : Int) - f.bias - f.fbits ∧ 1 ≤ f.expOf x ∧
      f.expOf x < f.top := by
  have hlt : f.expOf x < 2 ^ f.ebits := Nat.mod_lt _ (Nat.two_pow_pos _)
  have hp := Nat.two_pow_pos f.ebits
  unfold decodeFloat at h
  dsimp only at h
  split at h
  next => split at h <;> cases h
  next htop =>
    split at h
    next h0 =>
      cases h
      simp [isSubnormal, h0, hm] at hs
    next h0 =>
      cases h
      refine ⟨rfl, rfl, rfl, Nat.one_le_iff_ne_zero.mpr h0, ?_⟩
      unfold FloatFmt.top at *
      omega

/-- The bits of a pattern below its sign. -/
theorem mod_signPlace_eq (f : FloatFmt) (x : Nat) :
    x % 2 ^ (f.ebits + f.fbits) = f.expOf x * 2 ^ f.fbits + f.fracOf x := by
  rw [Nat.add_comm f.ebits, Nat.pow_add, Nat.mod_mul, FloatFmt.expOf, FloatFmt.fracOf, Nat.mul_comm, Nat.add_comm]

/-- A pattern is its sign, its exponent and its fraction. -/
theorem pattern_eq (f : FloatFmt) {x : Nat} (h : x < 2 ^ f.width) :
    x = f.signBit (f.signOf x) + (f.expOf x * 2 ^ f.fbits + f.fracOf x) := by
  rw [← mod_signPlace_eq, FloatFmt.signBit, FloatFmt.signOf, Nat.testBit_eq_decide_div_mod_eq]
  rw [FloatFmt.width, Nat.add_assoc, Nat.add_comm, Nat.pow_succ] at h
  generalize 2 ^ (f.ebits + f.fbits) = p at h ⊢
  have hdiv : x / p < 2 := Nat.div_lt_of_lt_mul h
  have hx := Nat.div_add_mod x p
  rw [Nat.mod_eq_of_lt hdiv]
  rcases Nat.le_one_iff_eq_zero_or_eq_one.mp (Nat.le_of_lt_succ hdiv) with h0 | h0
  · rw [h0, Nat.mul_zero] at hx
    rw [h0]
    exact hx.symm
  · rw [h0, Nat.mul_one] at hx
    rw [h0]
    exact hx.symm

theorem xor_two_pow_of_lt {y k : Nat} (h : y < 2 ^ k) : y ^^^ 2 ^ k = 2 ^ k + y := by
  apply Nat.eq_of_testBit_eq
  intro i
  rw [Nat.testBit_xor]
  rcases Nat.lt_trichotomy i k with hi | rfl | hi
  · rw [Nat.testBit_two_pow_add_gt hi, Nat.testBit_two_pow_of_ne (Nat.ne_of_gt hi), Bool.xor_false]
  · rw [Nat.testBit_two_pow_add_eq, Nat.testBit_two_pow_self, Bool.xor_true]
  · have hp : 2 ^ (k + 1) ≤ 2 ^ i := Nat.pow_le_pow_right (by decide) hi
    rw [Nat.pow_succ] at hp
    rw [Nat.testBit_lt_two_pow (by omega : y < 2 ^ i), Nat.testBit_two_pow_of_ne (Nat.ne_of_lt hi),
      Nat.testBit_lt_two_pow (by omega : 2 ^ k + y < 2 ^ i)]
    rfl

/-- Changing the sign of a pattern is an exclusive or with its sign bit. -/
theorem signBit_xor (f : FloatFmt) (b n : Bool) {y : Nat} (h : y < 2 ^ (f.ebits + f.fbits)) :
    f.signBit (b != n) + y = if n then (f.signBit b + y) ^^^ 2 ^ (f.width - 1) else f.signBit b + y := by
  have hw : f.width - 1 = f.ebits + f.fbits := by unfold FloatFmt.width; omega
  rw [hw]
  cases n with
  | false => cases b <;> rfl
  | true =>
    cases b with
    | false =>
      change 2 ^ (f.ebits + f.fbits) + y = (0 + y) ^^^ 2 ^ (f.ebits + f.fbits)
      rw [Nat.zero_add, xor_two_pow_of_lt h]
    | true =>
      change 0 + y = (2 ^ (f.ebits + f.fbits) + y) ^^^ 2 ^ (f.ebits + f.fbits)
      rw [Nat.zero_add, ← xor_two_pow_of_lt h, Nat.xor_assoc, Nat.xor_self, Nat.xor_zero]

/-- A normal number times one, of either sign (R209). -/
theorem mulNum_one {f : FloatFmt} {mode : BitVec 4} {x m : Nat} {neg n : Bool} {e : Int} (hx : x < 2 ^ f.width)
    (h : decodeFloat f x = .fin neg m e) (hm : m ≠ 0) (hs : isSubnormal f x = false) :
    mulNum f mode (.fin neg m e) (.fin n 1 0) = (if n then x ^^^ 2 ^ (f.width - 1) else x, 0) := by
  obtain ⟨rfl, rfl, rfl, h1, h2⟩ := decodeFloat_normal h hm hs
  have hfrac : f.fracOf x < 2 ^ f.fbits := Nat.mod_lt _ (Nat.two_pow_pos _)
  have hlow : f.expOf x * 2 ^ f.fbits + f.fracOf x < 2 ^ (f.ebits + f.fbits) := by
    rw [← mod_signPlace_eq]
    exact Nat.mod_lt _ (Nat.two_pow_pos _)
  rw [mulNum, Nat.mul_one, Int.add_zero, roundFloat_normal (Nat.le_add_left _ _) (by rw [Nat.pow_succ]; omega) h1 h2,
    Nat.add_sub_cancel, signBit_xor f _ n hlow, ← pattern_eq f hx]

end Sys2Proof.Machine

namespace Sys2Proof.Proofs
open Sys2Proof.Machine Sys2Proof.Claims

theorem floatSpecialValues : FloatSpecialValues := by
  intro f mode _
  refine ⟨fun x y h => ?_, fun n => ?_, fun n x hx neg m e h hm hs => mulNum_one hx h hm hs⟩
  · rw [← isNan_iff, ← isNan_iff] at h
    obtain ⟨hadd, hmul, hdiv⟩ := arith_nan f mode h
    rw [hadd, hmul, hdiv, nanAnswer_pair]
    exact ⟨rfl, rfl, rfl, compare_nan h⟩
  · cases n <;> exact ⟨rfl, rfl⟩

/-! ### Boundary values, evaluated (R155 to R158) -/

theorem roundingModes : RoundingModes := by
  unfold RoundingModes
  constructor
  · decide +kernel
  · decide +kernel

theorem minMaxAndConversions : MinMaxAndConversions := by
  unfold MinMaxAndConversions
  decide +kernel

/-- Settles O22: results and flags of each operation from its meaning, NaNs and products with one from the arithmetic, and
the boundary values by evaluation. -/
theorem floatingPointScalar : Obligations.FloatingPointScalar :=
  ⟨scalarFloatResults, floatSpecialValues, roundingModes, minMaxAndConversions⟩

end Sys2Proof.Proofs

/-! Queues and flags (R136, R148, R175, R219, R220, R226): O6. -/
namespace Sys2Proof.Proofs
open Sys2Proof.Machine Sys2Proof.Claims

/-! ### How an instruction comes to wait on a queue -/

theorem heldOn_issueSeq {i : Instr} {s : State} {r : BitVec 5} {m : Eff Unit} (hi : exec i s = issueSeq m s)
    (h : m.run s = .error (queueStop r)) : HeldOn i s r := hi.trans (issueSeq_hold h)

/-- A form that asks for room, then reads its two sources, whatever it does with them. -/
theorem binaryWaits_of_sources {mk : BitVec 5 → BitVec 5 → BitVec 5 → BitVec 3 → Instr}
    (hexec : ∀ d a b q s, ∃ k : Word → Word → Eff Unit, exec (mk d a b q) s = issueSeq (do
      needDst d (q.getLsbD 0)
      let x ← readSrc a (q.getLsbD 1)
      let y ← readSrc b (q.getLsbD 2)
      k x y) s) : BinaryWaits mk := by
  intro s t d a b q ht
  obtain ⟨k, hk⟩ := hexec d a b q s
  refine ⟨fun hd => ?_, fun hd ha => ?_, fun x u hd ha hb => ?_⟩
  · exact heldOn_issueSeq hk (run_bind_error (run_needDst_wait ht hd))
  · refine heldOn_issueSeq hk ?_
    rw [run_bind_ok (run_needDst ht hd)]
    exact run_bind_error (run_readSrc_wait ht ha)
  · refine heldOn_issueSeq hk ?_
    rw [run_bind_ok (run_needDst ht hd), run_bind_ok (run_readSrc ht ha)]
    exact run_bind_error (run_readSrc_wait (issues_putTask s u) hb)

theorem unaryWaits_of_source {mk : BitVec 5 → BitVec 5 → BitVec 2 → Instr}
    (hexec : ∀ d a q s, ∃ k : Word → Eff Unit, exec (mk d a q) s = issueSeq (do
      needDst d (q.getLsbD 0)
      let x ← readSrc a (q.getLsbD 1)
      k x) s) : UnaryWaits mk := by
  intro s t d a q ht
  obtain ⟨k, hk⟩ := hexec d a q s
  refine ⟨fun hd => ?_, fun hd ha => ?_⟩
  · exact heldOn_issueSeq hk (run_bind_error (run_needDst_wait ht hd))
  · refine heldOn_issueSeq hk ?_
    rw [run_bind_ok (run_needDst ht hd)]
    exact run_bind_error (run_readSrc_wait ht ha)

/-- A form that reads its destination register, then its two sources. -/
theorem sourcesWait_of_sources {mk : BitVec 5 → BitVec 5 → BitVec 5 → BitVec 2 → Instr}
    (hexec : ∀ d a b q s, ∃ k : Word → Word → Word → Eff Unit, exec (mk d a b q) s = issueSeq (do
      let z ← readReg d
      let x ← readSrc a (q.getLsbD 0)
      let y ← readSrc b (q.getLsbD 1)
      k z x y) s) : SourcesWait mk := by
  intro s t d a b q ht
  obtain ⟨k, hk⟩ := hexec d a b q s
  refine ⟨fun ha => ?_, fun x u ha hb => ?_⟩
  · refine heldOn_issueSeq hk ?_
    rw [run_bind_ok (run_readReg d ht)]
    exact run_bind_error (run_readSrc_wait ht ha)
  · refine heldOn_issueSeq hk ?_
    rw [run_bind_ok (run_readReg d ht), run_bind_ok (run_readSrc ht ha)]
    exact run_bind_error (run_readSrc_wait (issues_putTask s u) hb)

/-! ### Forms with one marked source or destination -/

/-- The instruction starts with `p`: what stops `p`, stops it. -/
def StartsWith {α : Type} (i : Instr) (s : State) (p : Eff α) : Prop :=
  ∃ m : Eff Unit, exec i s = issue m s ∧ ∀ e, p.run s = .error e → m.run s = .error e

section Starts
variable {α β : Type} {i : Instr} {s : State} {p : Eff α}

theorem startsWith_of_issue {m : Eff Unit} (h : exec i s = issue m s) : StartsWith i s m := ⟨m, h, fun _ => id⟩

theorem startsWith_of_issueSeq {m : Eff Unit} (h : exec i s = issueSeq m s) : StartsWith i s m :=
  ⟨do m; advance, h, fun _ => run_bind_error⟩

/-- An instruction starts with the first part of what it starts with. -/
theorem startsWith_first {k : α → Eff β} (h : StartsWith i s (p >>= k)) : StartsWith i s p := by
  obtain ⟨m, hi, hm⟩ := h
  exact ⟨m, hi, fun e he => hm e (run_bind_error he)⟩

/-- A first part that answers without a change may be passed over. -/
theorem startsWith_rest {k : α → Eff β} {x : α} (hp : p.run s = .ok (x, s)) (h : StartsWith i s (p >>= k)) :
    StartsWith i s (k x) := by
  obtain ⟨m, hi, hm⟩ := h
  exact ⟨m, hi, fun e he => hm e (by rw [run_bind_ok hp, he])⟩

theorem exec_of_startsWith_hold {h : Hold} (hs : StartsWith i s p) (hp : p.run s = .error (.hold h)) :
    exec i s = .next { s with hold := h } := by
  obtain ⟨m, hi, hm⟩ := hs
  rw [hi, issue_hold (hm _ hp)]

theorem heldOn_of_startsWith {r : BitVec 5} (h : StartsWith i s p) (hp : p.run s = .error (queueStop r)) :
    HeldOn i s r := exec_of_startsWith_hold h hp

end Starts

theorem sourceWaits_of_readSrc {mk : BitVec 5 → Instr} (h : ∀ s t r, Issues s t → (streamOf t s.cur.2).wait = .ready →
    StartsWith (mk r) s (readSrc r (marked 1#1 0))) : SourceWaits mk :=
  fun s t r ht hw hr => heldOn_of_startsWith (h s t r ht hw) (run_readSrc_wait ht hr)

theorem sourceWaits_of_peekSrc {mk : BitVec 5 → Instr} (h : ∀ s t r, Issues s t → (streamOf t s.cur.2).wait = .ready →
    StartsWith (mk r) s (peekSrc r (marked 1#1 0))) : SourceWaits mk :=
  fun s t r ht hw hr => heldOn_of_startsWith (h s t r ht hw) (run_peekSrc_wait ht hr)

theorem destWaits_of_needDst {mk : BitVec 5 → Instr} (h : ∀ s t d, Issues s t → (streamOf t s.cur.2).wait = .ready →
    StartsWith (mk d) s (needDst d (marked 1#1 0))) : DestWaits mk :=
  fun s t d ht hw hd => heldOn_of_startsWith (h s t d ht hw) (run_needDst_wait ht hd)

theorem destWaits_of_writeDst {mk : BitVec 5 → Instr} (h : ∀ s t d, Issues s t → (streamOf t s.cur.2).wait = .ready →
    ∃ x, StartsWith (mk d) s (writeDst d (marked 1#1 0) x)) : DestWaits mk := by
  intro s t d ht hw hd
  obtain ⟨x, hx⟩ := h s t d ht hw
  exact heldOn_of_startsWith hx (run_writeDst_wait x ht hd)

theorem run_answered {s : State} {t : Task} (ht : Issues s t) (hw : (streamOf t s.cur.2).wait = .ready) :
    Machine.answered.run s = .ok (false, s) := by
  rw [Machine.answered, run_bind_ok (run_theWait ht), hw]
  rfl

theorem run_loadOffset_register {s : State} {t : Task} {b : BitVec 5} (ht : Issues s t)
    (hw : (streamOf t s.cur.2).wait = .ready) : (loadOffset b 0).run s = .ok (regVal t s.cur.2 b, s) := by
  rw [loadOffset, run_bind_ok (run_theTask ht), run_bind_ok (run_answered ht hw)]
  exact run_bind_ok (run_readReg b ht)

/-- A load of the register majors reads its offset first. -/
theorem startsWith_readSrc_of_loadOffset {i : Instr} {s : State} {t : Task} {r : BitVec 5} {m : BitVec 1}
    (ht : Issues s t) (hw : (streamOf t s.cur.2).wait = .ready) (h : StartsWith i s (loadOffset r m)) :
    StartsWith i s (readSrc r (marked m 0)) := by
  obtain ⟨k, hi, hk⟩ := h
  refine ⟨k, hi, fun e he => hk e ?_⟩
  rw [loadOffset, run_bind_ok (run_theTask ht), run_bind_ok (run_answered ht hw)]
  exact run_bind_error he

section Operands
variable {s : State} {t : Task} {d a b c v : BitVec 5} {m n z : BitVec 1} {o : BitVec 4} {l : BitVec 3}

/-- SPAWN begins with its source unless an answer is here (R312). -/
theorem startsWith_spawn (ht : Issues s t) (hw : (streamOf t s.cur.2).wait = .ready) :
    StartsWith (.spawn d a b n m) s (readSrc a (marked n 0)) := by
  have h := startsWith_rest (run_theWait ht) (startsWith_of_issueSeq (i := .spawn d a b n m) rfl)
  rw [hw] at h
  exact startsWith_first h

/-- With its source in a register, SPAWN goes on to the entry of its marked destination (R136). -/
theorem startsWith_spawn_room (ht : Issues s t) (hw : (streamOf t s.cur.2).wait = .ready) :
    StartsWith (.spawn d a b 0 1) s (needRoom d.toNat) := by
  have h := startsWith_rest (run_theWait ht) (startsWith_of_issueSeq (i := .spawn d a b 0 1) rfl)
  rw [hw] at h
  have h2 := startsWith_rest (run_readReg a ht) h
  exact startsWith_first (k := fun _ => _) (startsWith_first h2)

/-- AMO reads its operand, then asks for room for the old value, unless an answer is here (R136, R229). -/
theorem startsWith_amo (ht : Issues s t) (hw : (streamOf t s.cur.2).wait = .ready) :
    ∃ k : Word → Unit → Eff Unit, StartsWith (.amo d c b m n z o) s
      (peekSrc b (marked m 0) >>= fun y => needDst d (marked n 0) >>= k y) := by
  have h := startsWith_rest (run_theWait ht) (startsWith_of_issue (i := .amo d c b m n z o) rfl)
  rw [hw] at h
  exact ⟨_, h⟩

theorem startsWith_cas (ht : Issues s t) (hw : (streamOf t s.cur.2).wait = .ready) :
    StartsWith (.cas d c b m z) s (peekSrc b (marked m 0)) := by
  have h := startsWith_rest (run_theWait ht) (startsWith_of_issue (i := .cas d c b m z) rfl)
  rw [hw] at h
  have h2 := startsWith_rest (run_readReg d ht) h
  exact startsWith_first h2

theorem startsWith_stReg (ht : Issues s t) : StartsWith (.stReg v c b m l) s (peekSrc b (marked m 0)) := by
  have h := startsWith_rest (run_readReg v ht) (startsWith_of_issueSeq (i := .stReg v c b m l) rfl)
  exact startsWith_first h

end Operands

theorem sources_wait (a c v : BitVec 5) (n z w : BitVec 1) (k o : BitVec 4) (g l : BitVec 3) :
    ∀ mk ∈ ([fun r => .chen r 1, fun r => .chdis r 1, fun r => .chhold r 1, fun r => .chrel r 1, fun r => .chpend r a n 1,
      fun r => .send r a 1, fun r => .sendc r a 1 k, fun r => .sput r 1, fun r => .spawn v r a 1 n, fun r => .asend r 1 w,
      fun r => .avsend r v 1, fun r => .achain c r 1 v g, fun r => .trap { reg := r, mark := 1 },
      fun r => .seqadv c r 1, fun r => .watch v c r 1, fun r => .rvmark c r 1, fun r => .rvmarkClr c r 1, fun r => .spillA r 1,
      fun r => .ldReg v c r 1 n z l, fun r => .ldqReg v c r 1 n z l, fun r => .ldcReg v c r 1 n, fun r => .stReg v c r 1 l,
      fun r => .stcReg v c r 1, fun r => .amo v c r 1 n z o, fun r => .cas v c r 1 z, fun r => .copy v c r 1 k,
      fun r => .pull v c r 1 k, fun r => .gather v c r 1 k, fun r => .pref c r 1 z k, fun r => .flush c r 1 k,
      fun r => .inval c r 1 k, fun r => .kseta v c r 1, fun r => .kadd v c r 1, fun r => .kclip v c r 1,
      fun r => .kclipx v c r 1, fun r => .kmask v c r 1] : List (BitVec 5 → Instr)), SourceWaits mk := by
  simp only [List.forall_mem_cons, List.not_mem_nil]
  refine ⟨?_, ?_, ?_, ?_, ?_, ?_, ?_, ?_, ?_, ?_, ?_, ?_, ?_, ?_, ?_, ?_, ?_, ?_, ?_, ?_, ?_, ?_, ?_, ?_, ?_, ?_, ?_, ?_,
    ?_, ?_, ?_, ?_, ?_, ?_, ?_, ?_, nofun⟩
  -- SPAWN
  case refine_9 => exact sourceWaits_of_readSrc fun _ _ _ ht hw => startsWith_spawn ht hw
  -- TRAP
  case refine_13 => exact sourceWaits_of_readSrc fun _ _ _ _ _ => startsWith_first (startsWith_of_issue rfl)
  -- SEQADV, SPILL and STC leave their source in its queue
  case refine_14 | refine_18 | refine_23 =>
    exact sourceWaits_of_peekSrc fun _ _ _ _ _ => startsWith_first (startsWith_of_issueSeq rfl)
  -- so do RVMARK and its clearing form
  case refine_16 | refine_17 =>
    exact sourceWaits_of_peekSrc fun _ _ _ _ _ => startsWith_first (startsWith_of_issue rfl)
  -- the loads
  case refine_19 | refine_20 | refine_21 =>
    exact sourceWaits_of_readSrc fun _ _ _ ht hw =>
      startsWith_readSrc_of_loadOffset ht hw (startsWith_first (startsWith_of_issueSeq rfl))
  -- ST
  case refine_22 => exact sourceWaits_of_peekSrc fun _ _ _ ht _ => startsWith_stReg ht
  -- AMO
  case refine_24 =>
    exact sourceWaits_of_peekSrc fun _ _ _ ht hw =>
      let ⟨_, h⟩ := startsWith_amo ht hw
      startsWith_first h
  -- CAS
  case refine_25 => exact sourceWaits_of_peekSrc fun _ _ _ ht hw => startsWith_cas ht hw
  all_goals exact sourceWaits_of_readSrc fun _ _ _ _ _ => startsWith_first (startsWith_of_issueSeq rfl)

theorem destinations_wait (a c v : BitVec 5) (z : BitVec 1) (o : BitVec 4) :
    ∀ mk ∈ ([fun d => .kbase d c 1, fun d => .klen d c 1, fun d => .kperm d c 1, fun d => .ktag d c 1, fun d => .ktype d c 1,
      fun d => .kaddr d c 1, fun d => .kdiff d c v 1, fun d => .kspan d a v 1, fun d => .fillA d 1, fun d => .msgid d 1,
      fun d => .bwait d c 1, fun d => .btest d c 1, fun d => .atest d 1 v, fun d => .amo d c a 0 1 z o,
      fun d => .spawn d a v 0 1] : List (BitVec 5 → Instr)), DestWaits mk := by
  simp only [List.forall_mem_cons, List.not_mem_nil]
  refine ⟨?_, ?_, ?_, ?_, ?_, ?_, ?_, ?_, ?_, ?_, ?_, ?_, ?_, ?_, ?_, nofun⟩
  -- MSGID and ATEST write without asking for room first
  case refine_10 =>
    refine destWaits_of_writeDst fun s t d ht _ => ?_
    have h := startsWith_rest (run_theTask ht) (startsWith_of_issueSeq (i := .msgid d 1) rfl)
    exact ⟨_, h⟩
  case refine_13 =>
    refine destWaits_of_writeDst fun s t d ht _ => ?_
    have h := startsWith_rest (run_get s) (startsWith_of_issueSeq (i := .atest d 1 v) rfl)
    exact ⟨_, h⟩
  -- AMO with its old value to a queue
  case refine_14 =>
    refine destWaits_of_needDst fun s t d ht hw => ?_
    obtain ⟨k, h⟩ := startsWith_amo (d := d) (c := c) (b := a) (m := 0) (n := 1) (z := z) (o := o) ht hw
    have h2 := startsWith_rest (run_readReg a ht) h
    exact startsWith_first h2
  -- SPAWN with its answer to a queue
  case refine_15 => exact fun _ _ _ ht hw hd => heldOn_of_startsWith (startsWith_spawn_room ht hw) (run_needDst_wait ht hd)
  all_goals exact destWaits_of_needDst fun _ _ _ _ _ => startsWith_first (startsWith_of_issueSeq rfl)

/-! ### LDQ and STQ (R226) -/

section Queues
variable {s : State} {t : Task} {v c b : BitVec 5} {n z : BitVec 1} {l : BitVec 3} {off : Word}

/-- LDQ asks for its entry first, unless its answer is here. -/
theorem startsWith_reserveVlq {i : Instr} {d : BitVec 5} (ht : Issues s t)
    (hw : (streamOf t s.cur.2).wait = .ready) (h : StartsWith i s (loadToQueue d c off 4 n z)) :
    StartsWith i s reserveVlq := by
  have h2 := startsWith_rest (run_answered ht hw) h
  exact startsWith_first h2

theorem startsWith_reservePort {i : Instr} {d : BitVec 5} (ht : Issues s t) (hw : (streamOf t s.cur.2).wait = .ready)
    (hl : l ≠ 4) (h : StartsWith i s (loadToQueue d c off l n z)) : StartsWith i s (reservePort d.toNat) := by
  have h2 := startsWith_rest (run_answered ht hw) h
  dsimp only at h2
  rw [if_neg (by decide), if_neg hl] at h2
  exact startsWith_first h2

theorem heldOn_of_loadToQueue {i : Instr} {d : BitVec 5} (ht : Issues s t) (hw : (streamOf t s.cur.2).wait = .ready)
    (hl : l ≠ 4) (hd : ¬ HasRoom t d true) (h : StartsWith i s (loadToQueue d c off l n z)) : HeldOn i s d :=
  heldOn_of_startsWith (startsWith_first (startsWith_reservePort ht hw hl h)) (run_needDst_wait ht hd)

/-- A scalar STQ reads its value first. -/
theorem heldOn_of_storeFromQueue {i : Instr} (ht : Issues s t) (hl : l ≠ 4) (hv : operandOf t s.cur.2 v true = none)
    (h : StartsWith i s (storeFromQueue v c l off)) : HeldOn i s v := by
  rw [storeFromQueue, if_neg hl] at h
  exact heldOn_of_startsWith (startsWith_first h) (run_peekSrc_wait ht hv)

/-- STQ with an offset in a register goes on to its value. -/
theorem startsWith_stqReg_register (ht : Issues s t) :
    StartsWith (.stqReg v c b 0 l) s (storeFromQueue v c l (regVal t s.cur.2 b)) := by
  have h := startsWith_rest (run_readReg b ht) (startsWith_of_issueSeq (i := .stqReg v c b 0 l) rfl)
  exact startsWith_first h

/-- A marked offset of STQ is the second element of its queue where the value comes from the same queue. -/
theorem startsWith_stqReg_marked :
    StartsWith (.stqReg v c b 1 l) s (peekPort b.toNat (if decide (l ≠ 4) && decide (v = b) then 1 else 0)) :=
  startsWith_first (startsWith_of_issueSeq rfl)

theorem queueForms_wait (hl : l ≠ 4) (a c : BitVec 5) (n z : BitVec 1) (o10 : BitVec 10) :
    DestWaits (fun d => .ldqImm d c n z l o10) ∧ DestWaits (fun d => .ldqReg d c a 0 n z l) ∧
      SourceWaits (fun r => .stqImm r c l o10) ∧ SourceWaits (fun r => .stqReg r c a 0 l) := by
  refine ⟨fun s t d ht hw hd => ?_, fun s t d ht hw hd => ?_, fun s t r ht _ hr => ?_, fun s t r ht _ hr => ?_⟩
  · exact heldOn_of_loadToQueue ht hw hl hd (startsWith_of_issueSeq rfl)
  · have h := startsWith_rest (run_loadOffset_register ht hw) (startsWith_of_issueSeq (i := .ldqReg d c a 0 n z l) rfl)
    exact heldOn_of_loadToQueue ht hw hl hd (startsWith_first h)
  · exact heldOn_of_storeFromQueue ht hl hr (startsWith_of_issueSeq rfl)
  · exact heldOn_of_storeFromQueue ht hl hr (startsWith_stqReg_register ht)

/-- The second marked source of CHPEND. -/
theorem heldOn_chpend_second {a r : BitVec 5} {x : Word} {u : Task} (ht : Issues s t)
    (ha : operandOf t s.cur.2 a (n.getLsbD 0) = some (x, u)) (hr : operandOf u s.cur.2 r true = none) :
    HeldOn (.chpend a r 1 n) s r := by
  refine heldOn_issueSeq rfl ?_
  unfold marked
  rw [run_bind_ok (run_readSrc ht ha)]
  exact run_bind_error (run_readSrc_wait (issues_putTask s u) hr)

theorem heldOn_stqReg_offset {r : BitVec 5} (ht : Issues s t) (hl : l = 4 ∨ v ≠ r)
    (hr : operandOf t s.cur.2 r true = none) : HeldOn (.stqReg v c r 1 l) s r := by
  have h := startsWith_stqReg_marked (s := s) (v := v) (c := c) (b := r) (l := l)
  have hfirst : (decide (l ≠ 4) && decide (v = r)) = false := by
    rcases hl with hl | hl <;> simp [hl]
  rw [hfirst] at h
  exact heldOn_of_startsWith h (run_peekSrc_wait ht hr)

theorem heldOn_stqReg_second {r : BitVec 5} (ht : Issues s t) (hl : l ≠ 4)
    (hr : ∀ x, (portQueue t r.toNat)[1]? ≠ some (some x)) : HeldOn (.stqReg r c r 1 l) s r := by
  have h := startsWith_stqReg_marked (s := s) (v := r) (c := c) (b := r) (l := l)
  have hsecond : (decide (l ≠ 4) && decide (r = r)) = true := by
    rw [decide_eq_true hl, decide_eq_true rfl, Bool.and_true]
  rw [hsecond] at h
  exact heldOn_of_startsWith h (run_peekPort_wait ht hr)

/-- A full vector queue holds a vector LDQ (R226). -/
theorem exec_ldqImm_vlq_full {o10 : BitVec 10} (ht : Issues s t) (hw : (streamOf t s.cur.2).wait = .ready)
    (hfull : 4 ≤ t.vlq.length) : exec (.ldqImm v c n z 4 o10) s = .next { s with hold := .queue 0x16 } := by
  refine exec_of_startsWith_hold (startsWith_reserveVlq ht hw (startsWith_of_issueSeq rfl)) ?_
  have hroom : ¬ t.vlq.length < vectorDepth := Nat.not_lt.mpr hfull
  rw [reserveVlq, run_bind_ok (run_theTask ht), if_neg hroom]
  rfl

/-- An empty vector queue, or one whose oldest entry is reserved, holds what takes its oldest element. -/
theorem run_peekVsq_wait (ht : Issues s t) (h : ∀ x, t.vsq.head? ≠ some (some x)) :
    peekVsq.run s = .error (.hold (.queue 0x17)) := by
  rw [peekVsq, run_bind_ok (run_theTask ht)]
  split
  · next x q hq => exact absurd (congrArg List.head? hq) (h x)
  · rfl

theorem exec_stqImm_vsq_wait {o10 : BitVec 10} (ht : Issues s t) (h : ∀ x, t.vsq.head? ≠ some (some x)) :
    exec (.stqImm v c 4 o10) s = .next { s with hold := .queue 0x17 } :=
  exec_of_startsWith_hold (startsWith_first (startsWith_of_issueSeq rfl)) (run_peekVsq_wait ht h)

theorem exec_gather_vsq_wait {a : BitVec 5} {k : BitVec 4} (ht : Issues s t) (h : ∀ x, t.vsq.head? ≠ some (some x)) :
    exec (.gather v c a 0 k) s = .next { s with hold := .queue 0x17 } := by
  have hs := startsWith_rest (run_readReg a ht) (startsWith_of_issueSeq (i := .gather v c a 0 k) rfl)
  exact exec_of_startsWith_hold (startsWith_first hs) (run_peekVsq_wait ht h)

end Queues

theorem queueOperandsWait : QueueOperandsWait := by
  refine ⟨?_, fun f => ?_, ?_, fun f u => ⟨?_, ?_, ?_⟩, ?_, fun f => ?_, fun a c v n z w k o g l o10 =>
    ⟨sources_wait a c v n z w k o g l, destinations_wait a c v z o, fun hl => queueForms_wait hl a c n z o10,
      fun s t ht hw => ⟨?_, ?_, ?_, ?_, ?_⟩⟩⟩
  · simp only [List.forall_mem_cons, List.not_mem_nil]
    refine ⟨?_, ?_, ?_, ?_, ?_, ?_, ?_, ?_, ?_, ?_, ?_, ?_, ?_, ?_, ?_, ?_, ?_, ?_, ?_, ?_, ?_, ?_, nofun⟩
    all_goals exact binaryWaits_of_sources fun _ _ _ _ _ => ⟨_, rfl⟩
  · simp only [List.forall_mem_cons, List.not_mem_nil]
    refine ⟨?_, ?_, ?_, ?_, ?_, ?_, ?_, ?_, ?_, ?_, nofun⟩
    all_goals exact binaryWaits_of_sources fun _ _ _ _ _ => ⟨_, rfl⟩
  · simp only [List.forall_mem_cons, List.not_mem_nil]
    refine ⟨?_, ?_, ?_, nofun⟩
    all_goals exact unaryWaits_of_source fun _ _ _ _ => ⟨_, rfl⟩
  · exact unaryWaits_of_source fun _ _ _ _ => ⟨_, rfl⟩
  · exact unaryWaits_of_source fun _ _ _ _ => ⟨_, rfl⟩
  · exact unaryWaits_of_source fun _ _ _ _ => ⟨_, rfl⟩
  · exact sourcesWait_of_sources fun _ _ _ _ _ => ⟨_, rfl⟩
  · exact sourcesWait_of_sources fun _ _ _ _ _ => ⟨_, rfl⟩
  · exact fun _ _ _ ha hr => heldOn_chpend_second ht ha hr
  · exact fun _ hl hr => heldOn_stqReg_offset ht hl hr
  · exact fun _ hl hr => heldOn_stqReg_second ht hl hr
  · exact exec_ldqImm_vlq_full ht hw
  · exact fun h => ⟨exec_stqImm_vsq_wait ht h, exec_gather_vsq_wait ht h⟩

end Sys2Proof.Proofs

namespace Sys2Proof.Proofs
open Sys2Proof.Machine Sys2Proof.Claims

/-! ### QTEST and the stream flags (R219, R220) -/

section Flags
variable {s : State} {t : Task}

/-- An instruction that only changes the task at issue goes on to the next one. -/
theorem issueSeq_modTask (f : Task → Task) (ht : Issues s t) : issueSeq (modTask f) s = .next (goesOn s (f t)) :=
  issueSeq_goesOn (run_modTask f ht)

theorem queueCount_eq (t : Task) (q : Nat) : queueCount t q =
    if q < 4 then (t.lq.toList.getD q []).length else if q < 6 then (t.sq.toList.getD (q - 4) []).length
    else if q = 6 then t.vlq.length else t.vsq.length := by
  unfold queueCount portQueue
  by_cases h4 : q < 4
  · rw [if_pos h4, if_pos h4, if_pos (by omega)]
    rfl
  · rw [if_neg h4, if_neg h4]
    rfl

theorem exec_qtest {d : BitVec 5} {q : BitVec 3} (ht : Issues s t) :
    exec (.qtest d q) s = .next (goesOn s (setReg t s.cur.2 d (BitVec.ofNat 64 (queueCount t q.toNat)))) := by
  apply issueSeq_goesOn
  rw [run_bind_ok (run_theTask ht)]
  exact run_writeReg d _ ht

theorem getLsbD_twoPow_flag (f : BitVec 4) (i : Nat) :
    (BitVec.twoPow 16 f.toNat).getLsbD i = decide (i = f.toNat) := by
  rw [BitVec.getLsbD_twoPow, decide_eq_true f.isLt, Bool.true_and]
  exact decide_eq_decide.mpr eq_comm

theorem exec_sfwait_set {f : BitVec 4} (ht : Issues s t) (h : t.sf.getLsbD f.toNat = true) :
    exec (.sfwait f) s = .next (goesOn s t) := by
  apply issueSeq_goesOn
  rw [run_bind_ok (run_theTask ht), if_pos h, putTask_self s _ t ht]
  rfl

theorem exec_sfwait_clear {f : BitVec 4} (ht : Issues s t) (h : t.sf.getLsbD f.toNat = false) :
    exec (.sfwait f) s = .next { s with hold := .queue (BitVec.ofNat 8 (0x20 + f.toNat)) } := by
  apply issueSeq_hold
  rw [run_bind_ok (run_theTask ht), if_neg (by rw [h]; decide)]
  rfl

theorem exec_sftest {d : BitVec 5} {f : BitVec 4} (ht : Issues s t) : exec (.sftest d f) s =
    .next (goesOn s (setReg t s.cur.2 d (if t.sf.getLsbD f.toNat then 1 else 0))) := by
  apply issueSeq_goesOn
  rw [run_bind_ok (run_theTask ht)]
  exact run_writeReg d _ ht

end Flags

/-! ### QSTAT (R148) -/

theorem qstatOf_setTaskReg (t : Task) (n : BitVec 12) (v : Word) : qstatOf (setTaskReg t n v) = qstatOf t := by
  unfold setTaskReg
  split
  case h_7 => split <;> rfl
  all_goals rfl

/-- Both streams see the same queues and flags. -/
theorem qstatOf_taskView (t : Task) (st : Stream) : qstatOf (taskView t st) = qstatOf t := by
  have hfold : ∀ (l : List LateTask) (u : Task),
      qstatOf (l.foldl (fun u l => if l.by_ = st then u else setTaskReg u l.num l.before) u) = qstatOf u := by
    intro l
    induction l with
    | nil => intro u; rfl
    | cons x l ih =>
      intro u
      rw [List.foldl_cons, ih]
      split
      · rfl
      · exact qstatOf_setTaskReg _ _ _
  exact hfold _ t

theorem exec_crr_qstat {s : State} {t : Task} {d : BitVec 5} (ht : Issues s t) :
    exec (.crr d 0x006) s = .next (goesOn s (setReg t s.cur.2 d (qstatOf t))) := by
  have hcheck : (checkReg 0x006 false).run s = .ok (.qstat, s) := by
    rw [checkReg, run_bind_ok (run_theTask ht)]
    rfl
  have hvalue : (regValue .qstat).run s = .ok (qstatOf t, s) := by
    rw [regValue, run_bind_ok (run_get s), run_bind_ok (run_theTask ht), ← qstatOf_taskView t s.cur.2]
    rfl
  apply issueSeq_goesOn
  rw [run_bind_ok hcheck, run_bind_ok hvalue]
  exact run_writeReg d _ ht

/-- The fields of QSTAT as one number. -/
theorem qstatOf_toNat (t : Task) : (qstatOf t).toNat =
    (vget t.lq 0 []).length % 16 + 16 * ((vget t.lq 1 []).length % 16) + 2 ^ 8 * ((vget t.lq 2 []).length % 16) +
    2 ^ 12 * ((vget t.lq 3 []).length % 16) + 2 ^ 16 * ((vget t.sq 0 []).length % 16) +
    2 ^ 20 * ((vget t.sq 1 []).length % 16) + 2 ^ 24 * (t.vlq.length % 8) + 2 ^ 27 * (t.vsq.length % 8) +
    2 ^ 32 * t.sf.toNat := by
  have hsf := t.sf.isLt
  rw [qstatOf, BitVec.toNat_ofNat]
  simp only [List.range_succ, List.range_zero, List.map_cons, List.map_nil, List.nil_append, List.cons_append,
    qstatOf.packBits4]
  omega

theorem qstat_fields (t : Task) :
    (∀ i, i < 4 → ((qstatOf t).extractLsb' (4 * i) 4).toNat = (t.lq.toList.getD i []).length % 16) ∧
    (∀ i, i < 2 → ((qstatOf t).extractLsb' (16 + 4 * i) 4).toNat = (t.sq.toList.getD i []).length % 16) ∧
    ((qstatOf t).extractLsb' 24 3).toNat = t.vlq.length % 8 ∧ ((qstatOf t).extractLsb' 27 3).toNat = t.vsq.length % 8 ∧
    (qstatOf t).extractLsb' 30 2 = 0 ∧ (qstatOf t).extractLsb' 32 16 = t.sf ∧ (qstatOf t).extractLsb' 48 16 = 0 := by
  have hsf := t.sf.isLt
  have hw := qstatOf_toNat t
  refine ⟨fun i hi => ?_, fun i hi => ?_, ?_, ?_, BitVec.eq_of_toNat_eq ?_, BitVec.eq_of_toNat_eq ?_,
    BitVec.eq_of_toNat_eq ?_⟩
  · change _ = (vget t.lq i []).length % 16
    rw [BitVec.extractLsb'_toNat, hw, Nat.shiftRight_eq_div_pow]
    rcases (by omega : i = 0 ∨ i = 1 ∨ i = 2 ∨ i = 3) with rfl | rfl | rfl | rfl <;> omega
  · change _ = (vget t.sq i []).length % 16
    rw [BitVec.extractLsb'_toNat, hw, Nat.shiftRight_eq_div_pow]
    rcases (by omega : i = 0 ∨ i = 1) with rfl | rfl <;> omega
  · rw [BitVec.extractLsb'_toNat, hw, Nat.shiftRight_eq_div_pow]
    omega
  · rw [BitVec.extractLsb'_toNat, hw, Nat.shiftRight_eq_div_pow]
    omega
  · rw [BitVec.extractLsb'_toNat, hw, Nat.shiftRight_eq_div_pow, show (0 : BitVec 2).toNat = 0 from rfl]
    omega
  · rw [BitVec.extractLsb'_toNat, hw, Nat.shiftRight_eq_div_pow]
    omega
  · rw [BitVec.extractLsb'_toNat, hw, Nat.shiftRight_eq_div_pow, show (0 : BitVec 16).toNat = 0 from rfl]
    omega

theorem queueTestsAndFlags : QueueTestsAndFlags := by
  intro s t ht
  refine ⟨fun d q => ?_, fun f => ⟨_, issueSeq_modTask _ ht, fun i hi => ?_⟩,
    fun f => ⟨_, issueSeq_modTask _ ht, fun i hi => ?_⟩, fun _ h => exec_sfwait_set ht h,
    fun _ h => exec_sfwait_clear ht h, fun _ _ => exec_sftest ht, fun d => ⟨_, exec_crr_qstat ht, qstat_fields t⟩⟩
  · rw [← queueCount_eq]
    exact exec_qtest ht
  · rw [BitVec.getLsbD_or, getLsbD_twoPow_flag, Bool.or_comm]
  · rw [BitVec.getLsbD_and, BitVec.getLsbD_not, getLsbD_twoPow_flag, decide_eq_true hi, Bool.true_and, Bool.and_comm]

/-- Settles O6: each marked form starts with what its queue may hold up; the tests and flags by their meanings. -/
theorem queuesAndFlags : Obligations.QueuesAndFlags := ⟨queueOperandsWait, queueTestsAndFlags⟩

end Sys2Proof.Proofs

/-! Messages staged and stream ports (R306, R308, R310, R311, R314, R317): O38. -/
namespace Sys2Proof.Machine

/-- Reading a source changes only the scalar queues of the task. -/
theorem eq_of_operandOf {t u : Task} {st : Stream} {r : BitVec 5} {m : Bool} {x : Word}
    (h : operandOf t st r m = some (x, u)) : u = { t with lq := u.lq, sq := u.sq } := by
  cases m with
  | false => obtain ⟨rfl, rfl⟩ := Prod.mk.inj (Option.some.inj h); rfl
  | true =>
    obtain ⟨q, -, rfl⟩ := operandOf_marked_eq_some h
    unfold setPortQueue
    split <;> rfl

section Checks
variable {s : State} {t : Task}

/-- An instruction that ends with the task `t` in the state `s'` goes on to the next one there. -/
theorem issueSeq_goesOn_in {m : Eff Unit} {s' : State} (h : m.run s = .ok ((), putTask s' (curK s') t)) :
    issueSeq m s = .next (goesOn s' t) := by
  rw [issueSeq_ok h (issues_putTask s' t), curK_putTask, putTask_putTask]
  rfl

theorem trapsWith_of_run {i : Instr} {m : Eff Unit} {c : Cause} {n : Nat} {a : Word} (hi : exec i s = issueSeq m s)
    (h : m.run s = .error (.trap { cause := c, detail := BitVec.ofNat 32 n, addr := a })) : Claims.TrapsWith i s c n a :=
  hi.trans (issueSeq_trap h)

theorem run_operandLimit {b : Bool} (h : b = true) : (operandLimit b).run s = .ok ((), s) := by
  rw [operandLimit, if_pos h, run_pure]

theorem run_operandLimit_trap {b : Bool} (h : ¬ b = true) :
    (operandLimit b).run s = .error (.trap { cause := .illegalOp, detail := 9, addr := 0 }) := by
  rw [operandLimit, if_neg h, run_trapWith]
  rfl

theorem plain_iff (d : SendDesc) : (d.ok && decide (d.len = 0) && decide (d.cslots = 0)) = true ↔ Claims.Plain d := by
  rw [Bool.and_eq_true, Bool.and_eq_true, decide_eq_true_eq, decide_eq_true_eq, and_assoc]
  rfl

theorem run_plainDesc {w : Word} (h : Claims.Plain (sendDesc w)) : (plainDesc w).run s = .ok (sendDesc w, s) := by
  rw [plainDesc, run_bind_ok (run_operandLimit ((plain_iff _).mpr h)), run_pure]

theorem run_plainDesc_trap {w : Word} (h : ¬ Claims.Plain (sendDesc w)) :
    (plainDesc w).run s = .error (.trap { cause := .illegalOp, detail := 9, addr := 0 }) :=
  run_bind_error (run_operandLimit_trap (mt (plain_iff _).mp h))

theorem run_needDest {d : SendDesc} {dctx : BitVec 12} (h : destCtx s s.cx d.pkg d.core d.chan.toNat = some dctx) :
    (needDest d).run s = .ok (dctx, s) := by
  rw [needDest, run_bind_ok (run_get s), h, run_pure]

/-- No installed endpoint covers the destination (R311). -/
theorem run_needDest_trap {d : SendDesc} (h : destCtx s s.cx d.pkg d.core d.chan.toNat = none) :
    (needDest d).run s = .error (.trap { cause := .endpoint, detail := 0, addr := 0 }) := by
  rw [needDest, run_bind_ok (run_get s), h, run_trapWith]
  rfl

theorem run_needStage (ht : Issues s t) (h : t.staged.length < 8) : needStage.run s = .ok ((), s) := by
  have hroom : t.staged.length < stageDepth := h
  rw [needStage, run_bind_ok (run_theTask ht), if_pos hroom, run_pure]

theorem run_needStage_trap (ht : Issues s t) (h : 8 ≤ t.staged.length) :
    needStage.run s = .error (.trap { cause := .stageFull, detail := 0, addr := 0 }) := by
  have hfull : ¬ t.staged.length < stageDepth := Nat.not_lt.mpr h
  rw [needStage, run_bind_ok (run_theTask ht), if_neg hfull, run_trapWith]
  rfl

theorem run_needPort {p : Port} (ht : Issues s t) (h : t.port = some p) : needPort.run s = .ok (p, s) := by
  rw [needPort, run_bind_ok (run_theTask ht), h, run_pure]

theorem run_needPort_trap (ht : Issues s t) (h : t.port = none) :
    needPort.run s = .error (.trap { cause := .illegalOp, detail := 13, addr := 0 }) := by
  rw [needPort, run_bind_ok (run_theTask ht), h, run_trapWith]
  rfl

theorem run_needReach {p : Port} (h : packagePresent s p.dpkg = true) : (needReach p).run s = .ok ((), s) := by
  rw [needReach, run_bind_ok (run_get s), if_pos h, run_pure]

/-- The package of the port has been fenced off (R370). -/
theorem run_needReach_trap {p : Port} (h : packagePresent s p.dpkg = false) :
    (needReach p).run s = .error (.trap { cause := .endpoint, detail := 0, addr := 0 }) := by
  rw [needReach, run_bind_ok (run_get s), if_neg (ne_true_of_eq_false h), run_trapWith]
  rfl

/-- A release with nothing in the store buffer publishes at once (R85). -/
theorem run_releaseTask (ht : Issues s t) (hsb : s.sb = []) :
    releaseTask.run s = .ok (Claims.recordOf s t, Claims.published s) := by
  have hdrained : needDrained.run s = .ok ((), s) := by
    rw [needDrained, run_bind_ok (run_get s), if_pos (List.isEmpty_iff.mpr hsb), run_pure]
  rw [releaseTask, run_bind_ok hdrained, run_bind_ok (run_get s), run_bind_ok (run_theTask ht),
    run_bind_ok (run_set s _), run_pure]
  rfl

/-! ### A stream flit leaves the tasks as they are -/

/-- A packet to this core itself comes back as its arrival (R364). -/
theorem sendPacket_own {s : State} {pkg : BitVec 9} {core : BitVec 10} (own : Instr) (p : Nat → Packet)
    (h : pkg = s.pkg ∧ core = s.core) : sendPacket s pkg core own p =
      { Claims.numbered s pkg core with inputs := s.inputs ++ [{ row := own, access :=
        { Access.none with packet := some { pkg := pkg, core := core, seq := pairNo s.packetSent (pkg, core) } } }] } :=
  if_pos h

theorem sendPacket_away {s : State} {pkg : BitVec 9} {core : BitVec 10} (own : Instr) (p : Nat → Packet)
    (h : ¬ (pkg = s.pkg ∧ core = s.core)) : sendPacket s pkg core own p =
      emit (Claims.numbered s pkg core) (p (pairNo s.packetSent (pkg, core))) := if_neg h

theorem sendPacket_putTask (s : State) (k : Nat) (t : Task) (pkg : BitVec 9) (core : BitVec 10) (own : Instr)
    (p : Nat → Packet) : sendPacket (putTask s k t) pkg core own p = putTask (sendPacket s pkg core own p) k t := by
  by_cases h : pkg = s.pkg ∧ core = s.core
  · rw [sendPacket_own own p h, sendPacket_own (s := putTask s k t) own p h]
    rfl
  · rw [sendPacket_away own p h, sendPacket_away (s := putTask s k t) own p h]
    rfl

theorem sendStream_putTask (s : State) (k : Nat) (t : Task) (p : Port) (c : BitVec 12) (b : Bool) (i : StreamItem) :
    sendStream (putTask s k t) p c b i = putTask (sendStream s p c b i) k t := sendPacket_putTask _ _ _ _ _ _ _

@[simp] theorem sendStream_cur (s : State) (p : Port) (c : BitVec 12) (b : Bool) (i : StreamItem) :
    (sendStream s p c b i).cur = s.cur := by
  unfold sendStream sendPacket
  split <;> rfl

@[simp] theorem sendStream_slots (s : State) (p : Port) (c : BitVec 12) (b : Bool) (i : StreamItem) :
    (sendStream s p c b i).slots = s.slots := by
  unfold sendStream sendPacket
  split <;> rfl

@[simp] theorem curK_sendStream (s : State) (p : Port) (c : BitVec 12) (b : Bool) (i : StreamItem) :
    curK (sendStream s p c b i) = curK s := by rw [curK, sendStream_cur, curK]

theorem issues_sendStream (ht : Issues s t) (p : Port) (c : BitVec 12) (b : Bool) (i : StreamItem) :
    Issues (sendStream s p c b i) t := by
  rw [Issues, curK_sendStream, taskIn, slotAt, sendStream_slots]
  exact ht

end Checks

/-! ### SEND and SENDC (R311) -/

/-- What SEND (`isC` false, `k` 0) and SENDC ask of their descriptor first: no reserved bit, a length of at most 48 bytes,
and capability slots only where the form names capability registers. -/
def Sendable (d : SendDesc) (isC : Bool) (k : Nat) : Prop :=
  d.len ≤ 48 ∧ d.ok = true ∧ (d.cslots = 0 ∨ (isC = true ∧ k ≠ 0))

theorem sendable_iff (d : SendDesc) (isC : Bool) (k : Nat) :
    (decide (d.len ≤ 48) && d.ok && (isC || decide (d.cslots = 0)) && (decide (k ≠ 0) || decide (d.cslots = 0))) = true ↔
      Sendable d isC k := by
  simp only [Bool.and_eq_true, Bool.or_eq_true, decide_eq_true_eq]
  constructor
  · rintro ⟨⟨⟨hl, hok⟩, hc⟩, hk⟩
    refine ⟨hl, hok, ?_⟩
    rcases hc with hc | hc
    · exact hk.elim (fun hk => .inr ⟨hc, hk⟩) .inl
    · exact .inl hc
  · rintro ⟨hl, hok, hc | ⟨hc, hk⟩⟩
    · exact ⟨⟨⟨hl, hok⟩, .inr hc⟩, .inr hc⟩
    · exact ⟨⟨⟨hl, hok⟩, .inl hc⟩, .inl hk⟩

theorem sendable_send {d : SendDesc} (hl : d.len ≤ 48) (hok : d.ok = true) (hc : d.cslots = 0) : Sendable d false 0 :=
  ⟨hl, hok, .inl hc⟩

theorem sendable_sendc {d : SendDesc} {k : BitVec 4} (hl : d.len ≤ 48) (hok : d.ok = true) (hc : k ≠ 0 ∨ d.cslots = 0) :
    Sendable d true k.toNat :=
  ⟨hl, hok, hc.elim (fun hk => .inr ⟨rfl, BitVec.toNat_ne.mp hk⟩) .inl⟩

/-- A length or a reserved bit refuses both forms. -/
theorem not_sendable_of_malformed {d : SendDesc} (h : 48 < d.len ∨ d.ok = false) (isC : Bool) (k : Nat) :
    ¬ Sendable d isC k := by
  rintro ⟨hl, hok, -⟩
  rcases h with h | h
  · omega
  · exact absurd (h.symm.trans hok) (by decide)

theorem not_sendable_of_cslots {d : SendDesc} {isC : Bool} {k : Nat} (hc : d.cslots ≠ 0) (hk : k = 0) :
    ¬ Sendable d isC k := by
  rintro ⟨-, -, hc0 | ⟨-, hk0⟩⟩
  · exact hc hc0
  · exact hk0 hk

section Send
variable {s : State} {t u : Task} {x : Word} {b : BitVec 5} {isC : Bool} {k : Nat}

theorem run_sendMessageWith_operand (ht : Issues s t) (h : ¬ Sendable (sendDesc x) isC k) :
    (sendMessageWith x b isC k).run s = .error (.trap { cause := .illegalOp, detail := 9, addr := 0 }) := by
  rw [sendMessageWith, run_bind_ok (run_theTask ht), run_bind_ok (run_theStream s)]
  exact run_bind_error (run_operandLimit_trap (mt (sendable_iff _ _ _).mp h))

theorem run_sendMessageWith_endpoint (ht : Issues s t) (h : Sendable (sendDesc x) isC k)
    (hd : destCtx s s.cx (sendDesc x).pkg (sendDesc x).core (sendDesc x).chan.toNat = none) :
    (sendMessageWith x b isC k).run s = .error (.trap { cause := .endpoint, detail := 0, addr := 0 }) := by
  rw [sendMessageWith, run_bind_ok (run_theTask ht), run_bind_ok (run_theStream s)]
  dsimp only
  rw [run_bind_ok (run_operandLimit ((sendable_iff _ _ _).mpr h))]
  exact run_bind_error (run_needDest_trap hd)

theorem run_sendMessageWith_stageFull {dctx : BitVec 12} (ht : Issues s t) (h : Sendable (sendDesc x) isC k)
    (hd : destCtx s s.cx (sendDesc x).pkg (sendDesc x).core (sendDesc x).chan.toNat = some dctx)
    (hfull : 8 ≤ t.staged.length) :
    (sendMessageWith x b isC k).run s = .error (.trap { cause := .stageFull, detail := 0, addr := 0 }) := by
  rw [sendMessageWith, run_bind_ok (run_theTask ht), run_bind_ok (run_theStream s)]
  dsimp only
  rw [run_bind_ok (run_operandLimit ((sendable_iff _ _ _).mpr h)), run_bind_ok (run_needDest hd)]
  exact run_bind_error (run_needStage_trap ht hfull)

/-- The task with a message staged under the id that the context's counter gives (R306, R308). -/
def staging (s : State) (t : Task) (m : Message) : Task :=
  { t with staged := t.staged ++ [.message m], lastMsgid := some s.cx.msgCounter }

theorem run_sendMessageWith {dctx : BitVec 12} (ht : Issues s t) (h : Sendable (sendDesc x) isC k)
    (hd : destCtx s s.cx (sendDesc x).pkg (sendDesc x).core (sendDesc x).chan.toNat = some dctx)
    (hroom : t.staged.length < 8) :
    (sendMessageWith x b isC k).run s = .ok ((), putTask (Claims.counted s) (curK s)
      (staging s t (Claims.stagedMessage s t (sendDesc x) b k dctx))) := by
  have hcounted : Issues (Claims.counted s) t := ht
  rw [sendMessageWith, run_bind_ok (run_theTask ht), run_bind_ok (run_theStream s)]
  dsimp only
  rw [run_bind_ok (run_operandLimit ((sendable_iff _ _ _).mpr h)), run_bind_ok (run_needDest hd),
    run_bind_ok (run_needStage ht hroom), stageMessage, run_bind_ok (run_get s), run_bind_ok (run_theTask ht),
    run_bind_ok (run_set s _)]
  exact run_modTask _ hcounted

/-- The message does not depend on what the read of the descriptor took from a queue. -/
theorem stagedMessage_of_operandOf {st : Stream} {r : BitVec 5} {m : Bool} {y : Word} (h : operandOf t st r m = some (y, u))
    (d : SendDesc) (dctx : BitVec 12) : Claims.stagedMessage s u d b k dctx = Claims.stagedMessage s t d b k dctx := by
  rw [eq_of_operandOf h]
  rfl

end Send

/-! ### The two forms at issue -/

section Forms
variable {s : State} {t u : Task} {x : Word} {a b : BitVec 5} {mk : Bool} {isC : Bool} {k : Nat} {i : Instr}

/-- An instruction that traps in what follows the read of its source. -/
theorem trapsWith_after_readSrc {f : Word → Eff Unit} {c : Cause} {n : Nat} {v : Word}
    (hi : exec i s = issueSeq (readSrc a mk >>= f) s) (ht : Issues s t) (ha : operandOf t s.cur.2 a mk = some (x, u))
    (h : (f x).run (putTask s (curK s) u) = .error (.trap { cause := c, detail := BitVec.ofNat 32 n, addr := v })) :
    Claims.TrapsWith i s c n v := trapsWith_of_run hi (by rw [run_bind_ok (run_readSrc ht ha), h])

/-- The instruction reads its descriptor, then sends: the shape of SEND and SENDC. -/
def Sends (i : Instr) (s : State) (a b : BitVec 5) (mk isC : Bool) (k : Nat) : Prop :=
  exec i s = issueSeq (readSrc a mk >>= fun x => sendMessageWith x b isC k) s

theorem sends_send (s : State) (a b : BitVec 5) (m : BitVec 1) : Sends (.send a b m) s a b (m.getLsbD 0) false 0 := rfl

theorem sends_sendc (s : State) (a b : BitVec 5) (m : BitVec 1) (k : BitVec 4) :
    Sends (.sendc a b m k) s a b (m.getLsbD 0) true k.toNat := rfl

theorem trapsWith_operand_of_sends (hi : Sends i s a b mk isC k) (ht : Issues s t)
    (ha : operandOf t s.cur.2 a mk = some (x, u)) (h : ¬ Sendable (sendDesc x) isC k) :
    Claims.TrapsWith i s .illegalOp 9 0 :=
  trapsWith_after_readSrc hi ht ha (run_sendMessageWith_operand (issues_putTask s u) h)

theorem trapsWith_endpoint_of_sends (hi : Sends i s a b mk isC k) (ht : Issues s t)
    (ha : operandOf t s.cur.2 a mk = some (x, u)) (h : Sendable (sendDesc x) isC k)
    (hd : destCtx s s.cx (sendDesc x).pkg (sendDesc x).core (sendDesc x).chan.toNat = none) :
    Claims.TrapsWith i s .endpoint 0 0 :=
  trapsWith_after_readSrc hi ht ha (run_sendMessageWith_endpoint (issues_putTask s u) h hd)

theorem trapsWith_stageFull_of_sends {dctx : BitVec 12} (hi : Sends i s a b mk isC k) (ht : Issues s t)
    (ha : operandOf t s.cur.2 a mk = some (x, u)) (h : Sendable (sendDesc x) isC k)
    (hd : destCtx s s.cx (sendDesc x).pkg (sendDesc x).core (sendDesc x).chan.toNat = some dctx)
    (hfull : 8 ≤ t.staged.length) : Claims.TrapsWith i s .stageFull 0 0 := by
  have hstaged : u.staged = t.staged := by rw [eq_of_operandOf ha]
  exact trapsWith_after_readSrc hi ht ha (run_sendMessageWith_stageFull (issues_putTask s u) h hd (hstaged ▸ hfull))

theorem exec_of_sends {dctx : BitVec 12} (hi : Sends i s a b mk isC k) (ht : Issues s t)
    (ha : operandOf t s.cur.2 a mk = some (x, u)) (h : Sendable (sendDesc x) isC k)
    (hd : destCtx s s.cx (sendDesc x).pkg (sendDesc x).core (sendDesc x).chan.toNat = some dctx)
    (hroom : t.staged.length < 8) : exec i s = .next (goesOn (Claims.counted s)
      (staging s u (Claims.stagedMessage s t (sendDesc x) b k dctx))) := by
  have hstaged : u.staged = t.staged := by rw [eq_of_operandOf ha]
  rw [hi, ← stagedMessage_of_operandOf ha]
  apply issueSeq_goesOn_in
  rw [run_bind_ok (run_readSrc ht ha), run_sendMessageWith (issues_putTask s u) h hd (hstaged ▸ hroom)]
  exact congrArg (fun z => Except.ok ((), z)) (putTask_putTask (Claims.counted s) (curK s) u _)

end Forms

/-! ### MSGID (R317) -/

theorem decode_msgid_reserved (st : Stream) (w : InstrWord) (hm : (w >>> 26).toNat = 0x1A) (hf : w.toNat % 256 = 5)
    (h : w.toNat / 2 ^ 11 % 2 ^ 10 ≠ 0) : decode st w = .error .reservedField := by
  obtain ⟨k, hk, hw⟩ := exists_getLsbD_of_field_ne_zero w 11 10 h
  have hfn : (w.extractLsb' 0 8).toNat = 5 := by rw [BitVec.extractLsb'_toNat, Nat.shiftRight_zero]; exact hf
  refine decode_error_of_decodeMajor hm (by decide) (by decide) ?_
  rw [decodeMajor, extractLsb'_of_major hm]
  rw [decodeMajor1A, hfn]
  refine row_reservedField (11 + k) hw ?_ ?_
  · exact (by decide : ∀ k, k < 10 → (0xFC1FFEFF#32).getLsbD (11 + k) = true) k hk
  · exact (by decide : ∀ k, k < 10 → (0x68000005#32).getLsbD (11 + k) = false) k hk

/-- An id with bit 16 set, as a number. -/
theorem setWidth_or_bit16 (i : BitVec 16) : i.setWidth 64 ||| 0x10000 = BitVec.ofNat 64 (i.toNat + 2 ^ 16) := by
  apply BitVec.eq_of_toNat_eq
  have hor : 2 ^ 16 + i.toNat = 2 ^ 16 ||| i.toNat := by
    simpa using Nat.two_pow_add_eq_or_of_lt i.isLt 1
  rw [BitVec.toNat_or, BitVec.toNat_setWidth_of_le (by decide), BitVec.toNat_ofNat, Nat.mod_eq_of_lt (by omega),
    Nat.or_comm, Nat.add_comm, hor]
  rfl

/-- The word that MSGID writes for the id of the most recent staged send. -/
def msgidWord : Option (BitVec 16) → Word
  | some i => BitVec.ofNat 64 (i.toNat + 2 ^ 16)
  | none => 0

section Ports
variable {s : State} {t u : Task} {p : Port} {a d : BitVec 5} {m : BitVec 1} {x : Word}

theorem exec_msgid (ht : Issues s t) (hd : HasRoom t d (m.getLsbD 0)) :
    exec (.msgid d m) s = .next (goesOn s (withResult t s.cur.2 d (m.getLsbD 0) (msgidWord t.lastMsgid))) := by
  apply issueSeq_goesOn
  rw [run_bind_ok (run_theTask ht)]
  cases t.lastMsgid with
  | none => exact run_writeDst 0 ht hd
  | some i =>
    rw [msgidWord, ← setWidth_or_bit16]
    exact run_writeDst _ ht hd

/-! ### SOPEN (R314) -/

theorem trapsWith_sopen_portState (ht : Issues s t) (h : t.port.isSome = true) :
    Claims.TrapsWith (.sopen a) s .illegalOp 13 0 := by
  refine trapsWith_of_run rfl ?_
  rw [run_bind_ok (run_readReg a ht), run_bind_ok (run_theTask ht), if_pos h]
  rfl

/-- With no port open, SOPEN goes on to its descriptor. -/
theorem run_sopen_desc {f : SendDesc → Eff Unit} (ht : Issues s t) (h : t.port = none) :
    (do let x ← readReg a
        let t ← theTask
        if t.port.isSome then trapWith .illegalOp dtlPortState else pure ()
        let d ← plainDesc x
        f d : Eff Unit).run s = (plainDesc (regVal t s.cur.2 a) >>= f).run s := by
  rw [run_bind_ok (run_readReg a ht), run_bind_ok (run_theTask ht), h]
  rfl

theorem trapsWith_sopen_operand (ht : Issues s t) (h : t.port = none)
    (hd : ¬ Claims.Plain (sendDesc (regVal t s.cur.2 a))) : Claims.TrapsWith (.sopen a) s .illegalOp 9 0 := by
  refine trapsWith_of_run rfl ?_
  rw [run_sopen_desc ht h]
  exact run_bind_error (run_plainDesc_trap hd)

theorem trapsWith_sopen_endpoint (ht : Issues s t) (h : t.port = none)
    (hd : Claims.Plain (sendDesc (regVal t s.cur.2 a)))
    (hc : destCtx s s.cx (sendDesc (regVal t s.cur.2 a)).pkg (sendDesc (regVal t s.cur.2 a)).core
      (sendDesc (regVal t s.cur.2 a)).chan.toNat = none) : Claims.TrapsWith (.sopen a) s .endpoint 0 0 := by
  refine trapsWith_of_run rfl ?_
  rw [run_sopen_desc ht h, run_bind_ok (run_plainDesc hd)]
  exact run_bind_error (run_needDest_trap hc)

/-- The port that SOPEN opens: its stream has the next number, and its record that of the release. -/
def openedPort (s : State) (t : Task) (d : SendDesc) (dctx : BitVec 12) : Port :=
  ⟨d.chan, d.core, d.pkg, dctx, 0, s.nextId, Claims.recordOf s t, false, []⟩

theorem exec_sopen {dctx : BitVec 12} (ht : Issues s t) (h : t.port = none)
    (hd : Claims.Plain (sendDesc (regVal t s.cur.2 a)))
    (hc : destCtx s s.cx (sendDesc (regVal t s.cur.2 a)).pkg (sendDesc (regVal t s.cur.2 a)).core
      (sendDesc (regVal t s.cur.2 a)).chan.toNat = some dctx) (hsb : s.sb = []) :
    exec (.sopen a) s = .next (goesOn { Claims.published s with nextId := s.nextId + 1 }
      { t with port := some (openedPort s t (sendDesc (regVal t s.cur.2 a)) dctx) }) := by
  have hnumbered : Issues { Claims.published s with nextId := s.nextId + 1 } t := ht
  apply issueSeq_goesOn_in
  rw [run_sopen_desc ht h, run_bind_ok (run_plainDesc hd), run_bind_ok (run_needDest hc),
    run_bind_ok (run_releaseTask ht hsb), run_bind_ok (run_get _), run_bind_ok (run_set _ _)]
  exact run_modTask _ hnumbered

/-! ### SPUT and SCLOSE (R314, R369) -/

theorem trapsWith_sput_portState (ht : Issues s t) (ha : operandOf t s.cur.2 a (m.getLsbD 0) = some (x, u))
    (h : t.port = none) : Claims.TrapsWith (.sput a m) s .illegalOp 13 0 := by
  have hport : u.port = none := by rw [eq_of_operandOf ha]; exact h
  exact trapsWith_after_readSrc rfl ht ha (run_bind_error (run_needPort_trap (issues_putTask s u) hport))

theorem trapsWith_sput_endpoint (ht : Issues s t) (ha : operandOf t s.cur.2 a (m.getLsbD 0) = some (x, u))
    (h : t.port = some p) (hp : packagePresent s p.dpkg = false) : Claims.TrapsWith (.sput a m) s .endpoint 0 0 := by
  have hport : u.port = some p := by rw [eq_of_operandOf ha]; exact h
  refine trapsWith_after_readSrc rfl ht ha ?_
  rw [run_bind_ok (run_needPort (issues_putTask s u) hport)]
  exact run_bind_error (run_needReach_trap hp)

theorem waitRoute_eq (ht : Issues s t) : waitRoute s = putTask s (curK s) (setWait t s.cur.2 .route) := by
  have ht' : taskIn s (curK s) = some t := ht
  rw [waitRoute, ht']

/-- Without a route SPUT asks for it, and its operand stays where it was. -/
theorem exec_sput_unrouted (ht : Issues s t) (ha : operandOf t s.cur.2 a (m.getLsbD 0) = some (x, u))
    (h : t.port = some p) (hp : packagePresent s p.dpkg = true) (hr : p.routed = false) :
    exec (.sput a m) s = .next (putTask s (curK s) (setWait t s.cur.2 .route)) := by
  have hport : u.port = some p := by rw [eq_of_operandOf ha]; exact h
  have hreach : packagePresent (putTask s (curK s) u) p.dpkg = true := hp
  rw [← waitRoute_eq ht]
  refine issueSeq_ask ?_
  unfold marked
  rw [run_bind_ok (run_readSrc ht ha), run_bind_ok (run_needPort (issues_putTask s u) hport),
    run_bind_ok (run_needReach hreach), hr]
  rfl

theorem run_setTheWait (w : Wait) (ht : Issues s t) :
    (setTheWait w).run s = .ok ((), putTask s (curK s) (setWait t s.cur.2 w)) := by
  rw [setTheWait, run_bind_ok (run_theStream s)]
  exact run_modTask _ ht

theorem exec_sput_routed (ht : Issues s t) (ha : operandOf t s.cur.2 a (m.getLsbD 0) = some (x, u))
    (h : t.port = some p) (hp : packagePresent s p.dpkg = true) (hr : p.routed = true) :
    exec (.sput a m) s = .next (goesOn (sendStream s p t.ctx t.sup (.word x))
      { setWait u s.cur.2 .ready with port := some { p with words := p.words + 1 } }) := by
  have hport : u.port = some p := by rw [eq_of_operandOf ha]; exact h
  have hctx : u.ctx = t.ctx := by rw [eq_of_operandOf ha]
  have hsup : u.sup = t.sup := by rw [eq_of_operandOf ha]
  have hrouted : ¬ (!p.routed) = true := by rw [hr]; decide
  have hu := issues_putTask s u
  have hreach : packagePresent (putTask s (curK s) u) p.dpkg = true := hp
  apply issueSeq_goesOn_in
  unfold marked
  rw [run_bind_ok (run_readSrc ht ha), run_bind_ok (run_needPort hu hport), run_bind_ok (run_needReach hreach)]
  dsimp only
  rw [if_neg hrouted, run_bind_ok (run_theTask hu), run_bind_ok (run_setTheWait _ hu),
    run_bind_ok (run_modify _ _), hctx, hsup]
  simp only [curK_putTask, putTask_putTask, putTask_cur, sendStream_putTask]
  rw [← curK_sendStream s p t.ctx t.sup (.word x), run_modTask _ (issues_putTask _ _), curK_putTask, putTask_putTask]

theorem trapsWith_sclose_portState (ht : Issues s t) (h : t.port = none) : Claims.TrapsWith .sclose s .illegalOp 13 0 :=
  trapsWith_of_run rfl (run_bind_error (run_needPort_trap ht h))

theorem trapsWith_sclose_endpoint (ht : Issues s t) (h : t.port = some p) (hp : packagePresent s p.dpkg = false) :
    Claims.TrapsWith .sclose s .endpoint 0 0 := by
  refine trapsWith_of_run rfl ?_
  rw [run_bind_ok (run_needPort ht h)]
  exact run_bind_error (run_needReach_trap hp)

theorem run_closePort (ht : Issues s t) (hsb : s.sb = []) (p : Port) : (closePort p).run s =
    .ok ((), putTask (sendStream (Claims.published s) p t.ctx t.sup (.close (Claims.recordOf s t))) (curK s)
      { t with port := none }) := by
  have hpublished : Issues (Claims.published s) t := ht
  rw [closePort, run_bind_ok (run_releaseTask ht hsb), run_bind_ok (run_theTask hpublished), run_bind_ok (run_modify _ _),
    run_modTask _ (issues_sendStream hpublished _ _ _ _), curK_sendStream]
  rfl

theorem exec_sclose (ht : Issues s t) (h : t.port = some p) (hp : packagePresent s p.dpkg = true) (hsb : s.sb = []) :
    exec .sclose s = .next (goesOn (sendStream (Claims.published s) p t.ctx t.sup (.close (Claims.recordOf s t)))
      { t with port := none }) := by
  apply issueSeq_goesOn_in
  rw [run_bind_ok (run_needPort ht h), run_bind_ok (run_needReach hp), run_closePort ht hsb, curK_sendStream]
  rfl

end Ports

end Sys2Proof.Machine

namespace Sys2Proof.Proofs
open Sys2Proof.Machine Sys2Proof.Claims

/-- Settles O38: SEND and SENDC by what their shared meaning answers at each check in order, MSGID by its row and its
value, the port by its three instructions. -/
theorem messagesStaged : Obligations.MessagesStaged := by
  refine ⟨fun s t u a b m k x ht ha => ?_, fun _ _ => rfl, decode_msgid_reserved, fun s t d m ht hd => ?_,
    fun s t a ht => ?_, fun s t u a m x ht ha => ?_, fun s t ht => ?_⟩
  · have hsend := sends_send s a b m
    have hsendc := sends_sendc s a b m k
    refine ⟨fun h => ⟨?_, ?_⟩, fun hl hok => ⟨fun hc => ⟨?_, fun hk => ?_⟩,
      fun hd => ⟨fun hc => ?_, fun hc => ?_⟩, fun dctx hd =>
        ⟨fun hfull => ⟨fun hc => ?_, fun hc => ?_⟩, fun hroom => ⟨fun hc => ?_, fun hc => ?_⟩⟩⟩⟩
    -- the descriptor is refused
    · exact trapsWith_operand_of_sends hsend ht ha (not_sendable_of_malformed h _ _)
    · exact trapsWith_operand_of_sends hsendc ht ha (not_sendable_of_malformed h _ _)
    · exact trapsWith_operand_of_sends hsend ht ha (not_sendable_of_cslots hc rfl)
    · exact trapsWith_operand_of_sends hsendc ht ha (not_sendable_of_cslots hc (congrArg BitVec.toNat hk))
    -- no destination
    · exact trapsWith_endpoint_of_sends hsend ht ha (sendable_send hl hok hc) hd
    · exact trapsWith_endpoint_of_sends hsendc ht ha (sendable_sendc hl hok hc) hd
    -- no room for another message, and the message staged
    · exact trapsWith_stageFull_of_sends hsend ht ha (sendable_send hl hok hc) hd hfull
    · exact trapsWith_stageFull_of_sends hsendc ht ha (sendable_sendc hl hok hc) hd hfull
    · exact exec_of_sends hsend ht ha (sendable_send hl hok hc) hd hroom
    · exact exec_of_sends hsendc ht ha (sendable_sendc hl hok hc) hd hroom
  · have hmsgid := exec_msgid ht hd
    exact ⟨fun h => hmsgid.trans (by rw [h]; rfl), fun i h => hmsgid.trans (by rw [h]; rfl)⟩
  · exact ⟨trapsWith_sopen_portState ht, trapsWith_sopen_operand ht, trapsWith_sopen_endpoint ht,
      fun _ h hd hc hsb => exec_sopen ht h hd hc hsb⟩
  · exact ⟨trapsWith_sput_portState ht ha, fun _ h hp => trapsWith_sput_endpoint ht ha h hp,
      fun _ h hp => ⟨exec_sput_unrouted ht ha h hp, exec_sput_routed ht ha h hp⟩⟩
  · exact ⟨trapsWith_sclose_portState ht, fun _ h hp => trapsWith_sclose_endpoint ht h hp,
      fun _ h hp hsb => exec_sclose ht h hp hsb⟩

end Sys2Proof.Proofs
